-- ==== Sys2Proof/Word.lean ====
section
/-! DEFINITION. The words of the SX9 (R3, R209): bytes, 32-bit register words, 64-bit pairs, 32-bit lane masks,
and the plainest facts about them. Nothing here follows a rule that a later reading could change. -/

namespace Sys2Proof

/-- One byte of a store. -/
abbrev Byte := BitVec 8

/-- A 16-bit half of a register word. -/
abbrev Half := BitVec 16

/-- A 32-bit register word. -/
abbrev Word := BitVec 32

/-- A 64-bit pair or scalar. -/
abbrev Dword := BitVec 64

/-- A set of lanes of one wave: bit l is lane l. -/
abbrev Mask := BitVec 32

/-- The mask that holds every lane. -/
def Mask.all : Mask := 0xFFFFFFFF#32

end Sys2Proof
end

