-- ==== Sys2Proof/Machine/Bits.lean ====
section
/-! DEFINITION. Plain helpers of the machine: bytes and little-endian words, bit fields, lane masks, sorted sets, and
the canonical list of cells that holds a store. -/

namespace Sys2Proof.Machine

/-! ## Bits and bytes -/

/-- Bits [lo + w - 1 : lo] of a number. -/
def field (n lo w : Nat) : Nat := n / 2 ^ lo % 2 ^ w

/-- Bit i of a number. -/
def bitOf (n i : Nat) : Bool := field n i 1 == 1

/-- The k low bytes of a number, lowest first. -/
def toBytes : Nat → Nat → List Byte
  | 0, _ => []
  | k + 1, n => BitVec.ofNat 8 n :: toBytes k (n / 256)

/-- The number a list of bytes holds, lowest first. -/
def ofBytes : List Byte → Nat
  | [] => 0
  | b :: t => b.toNat + 256 * ofBytes t

/-- The number a list of bytes holds, highest first. -/
def ofBytesBE (bs : List Byte) : Nat := bs.foldl (fun n b => 256 * n + b.toNat) 0

/-- The k low bytes of a number, highest first. -/
def toBytesBE (k n : Nat) : List Byte := (toBytes k n).reverse

/-- `len` items from position `lo`, padded with a default. -/
def slice {α : Type} (d : α) (l : List α) (lo len : Nat) : List α :=
  let t := (l.drop lo).take len
  t ++ List.replicate (len - t.length) d

/-- The little-endian number in `len` bytes from `lo`. -/
def numAt (bs : List Byte) (lo len : Nat) : Nat := ofBytes (slice 0 bs lo len)

/-- A list with position i replaced, the rest kept. -/
def putAt {α : Type} : List α → Nat → α → List α
  | [], _, _ => []
  | _ :: t, 0, a => a :: t
  | h :: t, i + 1, a => h :: putAt t i a

/-- A list with `new` written from position i on. -/
def putMany {α : Type} (l : List α) (i : Nat) (new : List α) : List α :=
  l.take i ++ (new.take (l.length - i)) ++ l.drop (i + new.length)

/-- A number cut to w bits and read as two's complement. -/
def toSigned (w n : Nat) : Int :=
  let m := n % 2 ^ w
  if m < 2 ^ (w - 1) then (m : Int) else (m : Int) - (2 ^ w : Nat)

/-- An integer reduced to w bits. -/
def wrap (w : Nat) (i : Int) : Nat := (i % (2 ^ w : Nat)).toNat

/-- The least number of `step`-sized pieces that hold n. -/
def ceilDiv (n step : Nat) : Nat := (n + step - 1) / step

/-- n rounded up to a multiple of `step`. -/
def roundUp (n step : Nat) : Nat := ceilDiv n step * step

/-! ## Lanes -/

/-- The 32 lanes. -/
def laneList : List Nat :=
  [0, 1, 2, 3, 4, 5, 6, 7, 8, 9, 10, 11, 12, 13, 14, 15, 16, 17, 18, 19, 20, 21, 22, 23, 24, 25, 26, 27, 28, 29, 30, 31]

/-- Does a mask hold lane l? -/
def hasLane (m : Mask) (l : Nat) : Bool := m.getLsbD l

/-- The lanes of a mask, in increasing order. -/
def lanesOf (m : Mask) : List Nat := laneList.filter (hasLane m)

/-- The mask of one lane. -/
def laneBit (l : Nat) : Mask := BitVec.ofNat 32 (2 ^ l)

/-- The mask of a list of lanes. -/
def maskOf (ls : List Nat) : Mask := ls.foldl (fun m l => m ||| laneBit l) 0

/-- The mask of the lanes that a test holds in. -/
def maskBy (p : Nat → Bool) : Mask := maskOf (laneList.filter p)

/-! ## Ordered sets of numbers -/

/-- Membership in a strictly rising list. -/
def inSet (n : Nat) (l : List Nat) : Bool := l.contains n

/-- Insertion into a strictly rising list. -/
def addSet (n : Nat) : List Nat → List Nat
  | [] => [n]
  | h :: t => if n < h then n :: h :: t else if n = h then h :: t else h :: addSet n t

/-- Removal from a strictly rising list. -/
def delSet (n : Nat) (l : List Nat) : List Nat := l.filter (· != n)

/-- Insertion by a rank, after the items of equal rank. -/
def insertBy {α : Type} (lt : α → α → Bool) (a : α) : List α → List α
  | [] => [a]
  | h :: t => if lt a h then a :: h :: t else h :: insertBy lt a t

/-- Stable sorting. -/
def sortBy {α : Type} (lt : α → α → Bool) (l : List α) : List α := l.foldl (fun acc a => insertBy lt a acc) []

/-- The items i with their positions. -/
def indexed {α : Type} (l : List α) : List (Nat × α) := (List.range l.length).zip l

/-- The first value under a key. -/
def lookupBy {β : Type} (k : Nat) (l : List (Nat × β)) : Option β :=
  match l.find? (fun x => x.1 == k) with
  | some x => some x.2
  | none => none

/-- A key's value set, in place when listed, else at the end. -/
def setBy {β : Type} (k : Nat) (b : β) (l : List (Nat × β)) : List (Nat × β) :=
  if l.any (fun x => x.1 == k) then l.map (fun x => if x.1 == k then (k, b) else x) else l ++ [(k, b)]

/-! ## Stores as canonical lists of cells (unlisted bytes read 0, log 4) -/

/-- The byte at an address. -/
def readByte : List Host.Cell → Nat → Byte
  | [], _ => 0
  | c :: t, a => if a = c.1 then c.2 else if a < c.1 then 0 else readByte t a

/-- A byte written; a 0 leaves the list. -/
def writeByte : List Host.Cell → Nat → Byte → List Host.Cell
  | [], a, v => if v = 0 then [] else [(a, v)]
  | c :: t, a, v =>
    if a < c.1 then (if v = 0 then c :: t else (a, v) :: c :: t)
    else if a = c.1 then (if v = 0 then t else (a, v) :: t)
    else c :: writeByte t a v

/-- The canonical form: addresses strictly rising, no entry equal to what an unlisted address reads as. -/
def cellsWf : List Host.Cell → Bool
  | [] => true
  | [c] => c.2 != 0
  | c :: d :: t => c.2 != 0 && decide (c.1 < d.1) && cellsWf (d :: t)

/-- `n` bytes from an address. -/
def readBytes (m : List Host.Cell) : Nat → Nat → List Byte
  | _, 0 => []
  | a, n + 1 => readByte m a :: readBytes m (a + 1) n

/-- Bytes written from an address. -/
def writeBytes : List Host.Cell → Nat → List Byte → List Host.Cell
  | m, _, [] => m
  | m, a, b :: t => writeBytes (writeByte m a b) (a + 1) t

/-- A range set to 0. -/
def clearBytes (m : List Host.Cell) (a n : Nat) : List Host.Cell := m.filter (fun c => c.1 < a || a + n ≤ c.1)

/-- The little-endian number of k bytes at an address. -/
def readNat (m : List Host.Cell) (a k : Nat) : Nat := ofBytes (readBytes m a k)

/-- The cells of a range, their addresses counted from its start. -/
def cutCells (m : List Host.Cell) (a n : Nat) : List Host.Cell :=
  (m.filter (fun c => a ≤ c.1 && c.1 < a + n)).map (fun c => (c.1 - a, c.2))

/-- Cells laid from an address over what is there. -/
def layCells (m : List Host.Cell) (a : Nat) (cells : List Host.Cell) : List Host.Cell :=
  cells.foldl (fun acc c => writeByte acc (a + c.1) c.2) m

end Sys2Proof.Machine
end

