-- ==== Sys2Proof/Syntax.lean ====
section
/-! DEFINITION. The syntax of the SX9: one constructor of `Instr` per row of the opcode table. A row is a step of the
part, whole and indivisible: an instruction of Glezu (its words' fields kept as the encoding tables of R339 name them),
a host command (its message, R61), a message that arrives, or an event of the device (what names the unit it happens
to; where the spec leaves a choice or an outcome to the hardware or to the outside, the event carries it). -/

namespace Sys2Proof

/-- The fields of a one-word instruction (R339): word 0's operand bytes. -/
structure F1 where
  d : Byte
  a : Byte
  b : Byte
  deriving DecidableEq, Repr

/-- The fields of a two-word instruction (R339). SUB and OP are the constructor. `mod` is MOD [16:8]: its bit 8 is
the instruction's bit 16. -/
structure F2 where
  d : Byte
  a : Byte
  b : Byte
  pidx : BitVec 3
  pneg : Bool
  la : BitVec 4
  ty : BitVec 3
  mod : BitVec 9
  c : Byte
  deriving DecidableEq, Repr

/-- The fields of a three-word instruction (R339): those of two words, and word 2. -/
structure F3 where
  w : F2
  imm : Word
  deriving DecidableEq, Repr

/-- A host command message (R61) less its TYPE, which is the constructor. `body` holds the LEN bytes that follow the
header. -/
structure Msg where
  ctx : Nat
  len : Nat
  seq : Nat
  tag : Nat
  body : List Byte
  deriving DecidableEq, Repr

/-- A Utenaurn frame as it arrives (R31): its sequence number, its messages' bytes, the number of the device's frame from
which its sender asks for a resend, and its CRC-32C. The spec does not lay a frame out (log 97). -/
structure Frame where
  seq : Nat
  msgs : List (List Byte)
  again : Option Nat
  crc : Word
  deriving DecidableEq, Repr

/-- What a module reset's survey finds of the construction (R36): the spare quad of each die, cores that are absent,
live ports and Utenaurn lanes, lost stacks, and the clock. -/
structure Survey where
  spareQuad : List Nat
  absent : List Nat
  portsUp : List Nat
  lanes : Nat
  stacksLost : List Nat
  mhz : Nat
  deriving DecidableEq, Repr

/-- A received timestamp sync message (R11): the sender's accelerator ID, its count, and whether this package joins the
pod with it. -/
structure SyncMsg where
  from_ : Nat
  count : Nat
  joining : Bool
  deriving DecidableEq, Repr

/-- One 32-bit word on the fabric, with its poison mark (R306). -/
structure WireWord where
  val : Word
  mark : Bool
  deriving DecidableEq, Repr

/-- The atomic operations of R443. -/
inductive AtomOp where
  | add | min | max | and | or | xor | xch | cas | fadd
  deriving DecidableEq, Repr

/-- What a UALink peer may ask of a local address (R258, R16). A write is of 1, 2, 4, 8 or 16 bytes, held low first in its
words. -/
inductive PeerKind where
  | read (bytes : Nat)
  | write (bytes : Nat) (data : List WireWord)
  | atomic (op : AtomOp) (width : Nat) (signed : Bool) (b c : Dword)
  deriving DecidableEq, Repr

/-- A request from a UALink peer: where it came from, its tag, and the local fabric-physical address. -/
structure PeerReq where
  src : Nat
  tag : Nat
  pa : Nat
  kind : PeerKind
  deriving DecidableEq, Repr

/-- A request or response that reaches this package as a relay (R22, R23). -/
structure RelayMsg where
  src : Nat
  dst : Nat
  tag : Nat
  response : Bool
  deriving DecidableEq, Repr

/-- The units whose errors the Farrier counts (R51). `core` is the map index of R37. -/
inductive HwUnit where
  | lane (core group lane : Nat)
  | core (core : Nat)
  | bank (core bank : Nat)
  | quarter (core partition quarter : Nat)
  | way (die slice way : Nat)
  | engine (core engine : Nat)
  deriving DecidableEq, Repr

/-- How the Groom's readbacks of a cleared page came out (R56): clean at once, clean after the rewrite, or failing
both. -/
inductive Readback where
  | clean | cleanSecond | failing
  deriving DecidableEq, Repr

/-- A barrier of a gang (R456): named barrier n of one of its groups, or the gang barrier. -/
inductive BarId where
  | named (group n : Nat)
  | gang
  deriving DecidableEq, Repr

/-- A collective message (R481): the header of 32 bytes by field, the payload's bytes as they cross the wire (R26 to
R28), and the CRC-32C trailer (R30). `pkg` is the package it came from, as the fabric gives it. -/
structure ColMsg where
  pkg : Nat
  flags : Nat
  tenant : Nat
  from_ : Nat
  setId : Nat
  seq : Nat
  offset : Nat
  dest : Nat
  nelem : Nat
  payload : List Byte
  crc : Word
  deriving DecidableEq, Repr

/-- One step of the part: one constructor per row of the opcode table. -/
inductive Instr where
  /-- IADD_I32 (R357). One-word 32-bit integer add. -/
  | iaddI32 (f : F1)
  /-- ISUB_I32 (R357). One-word 32-bit integer subtract. -/
  | isubI32 (f : F1)
  /-- IMUL_I32 (R357). One-word 32-bit integer multiply. -/
  | imulI32 (f : F1)
  /-- IMIN_I32 (R357). One-word signed 32-bit minimum. -/
  | iminI32 (f : F1)
  /-- IMAX_I32 (R357). One-word signed 32-bit maximum. -/
  | imaxI32 (f : F1)
  /-- AND_B32 (R357). One-word 32-bit bitwise and. -/
  | andB32 (f : F1)
  /-- OR_B32 (R357). One-word 32-bit bitwise or. -/
  | orB32 (f : F1)
  /-- XOR_B32 (R357). One-word 32-bit bitwise exclusive or. -/
  | xorB32 (f : F1)
  /-- ANDN_B32 (R357). One-word 32-bit and with inverted B. -/
  | andnB32 (f : F1)
  /-- SHL_B32 (R357). One-word 32-bit shift left. -/
  | shlB32 (f : F1)
  /-- SHR_B32 (R357). One-word 32-bit logical shift right. -/
  | shrB32 (f : F1)
  /-- SRA_B32 (R357). One-word 32-bit arithmetic shift right. -/
  | sraB32 (f : F1)
  /-- MOV_B32 (R357). One-word 32-bit move. -/
  | movB32 (f : F1)
  /-- NOT_B32 (R357). One-word 32-bit bitwise not. -/
  | notB32 (f : F1)
  /-- POPC_B32 (R357). One-word 32-bit population count. -/
  | popcB32 (f : F1)
  /-- MOVI (R357). One-word move of a signed 16-bit immediate A:B. -/
  | movi (f : F1)
  /-- IADD (R358). Integer add of any width with optional saturation. -/
  | iadd (f : F2)
  /-- ISUB (R358). Integer subtract. -/
  | isub (f : F2)
  /-- IMUL (R358). Integer multiply, low part. -/
  | imul (f : F2)
  /-- IMULH (R358). Integer multiply, high part. -/
  | imulh (f : F2)
  /-- IMAD (R358). Integer multiply-add without intermediate reduction. -/
  | imad (f : F2)
  /-- IDIV (R359). Integer divide rounding towards zero. -/
  | idiv (f : F2)
  /-- IREM (R359). Integer remainder with the sign of a. -/
  | irem (f : F2)
  /-- IMIN (R358). Integer minimum. -/
  | imin (f : F2)
  /-- IMAX (R358). Integer maximum. -/
  | imax (f : F2)
  /-- IABS (R358). Integer absolute value. -/
  | iabs (f : F2)
  /-- INEG (R358). Integer negate. -/
  | ineg (f : F2)
  /-- AND (R361). Bitwise and. -/
  | and (f : F2)
  /-- OR (R361). Bitwise or. -/
  | or (f : F2)
  /-- XOR (R361). Bitwise exclusive or. -/
  | xor (f : F2)
  /-- ANDN (R361). Bitwise and with inverted B. -/
  | andn (f : F2)
  /-- NOT (R361). Bitwise not. -/
  | not (f : F2)
  /-- SHL (R361). Shift left. -/
  | shl (f : F2)
  /-- SHR (R361). Logical shift right. -/
  | shr (f : F2)
  /-- SRA (R361). Arithmetic shift right. -/
  | sra (f : F2)
  /-- ROL (R361). Rotate left. -/
  | rol (f : F2)
  /-- BFX (R362). Bit-field extract. -/
  | bfx (f : F2)
  /-- BFI (R362). Bit-field insert. -/
  | bfi (f : F2)
  /-- POPC (R363). Population count. -/
  | popc (f : F2)
  /-- CLZ (R363). Count leading zeros. -/
  | clz (f : F2)
  /-- CTZ (R363). Count trailing zeros. -/
  | ctz (f : F2)
  /-- BREV (R363). Bit reverse. -/
  | brev (f : F2)
  /-- ICMP (R364). Integer compare writing a predicate. -/
  | icmp (f : F2)
  /-- MOV (R365). Two-word move. -/
  | mov (f : F2)
  /-- SEL (R365). Select by predicate. -/
  | sel (f : F2)
  /-- LEA (R366). 64-bit address computation. -/
  | lea (f : F2)
  /-- XSET (R367). Write fields of an index register. -/
  | xset (f : F2)
  /-- XADD (R367). Add to an index register's offset. -/
  | xadd (f : F2)
  /-- MOVI_IMM32 (R360). Three-word move of a 32-bit immediate. -/
  | moviImm32 (f : F3)
  /-- IADD_IMM32 (R360). Three-word add of a 32-bit immediate. -/
  | iaddImm32 (f : F3)
  /-- PAND (R368). Predicate and. -/
  | pand (f : F2)
  /-- POR (R368). Predicate or. -/
  | por (f : F2)
  /-- PXOR (R368). Predicate exclusive or. -/
  | pxor (f : F2)
  /-- PNOT (R368). Predicate not. -/
  | pnot (f : F2)
  /-- VOTE (R370). Wave vote over a predicate. -/
  | vote (f : F2)
  /-- BALLOT (R370). Wave ballot mask of a predicate. -/
  | ballot (f : F2)
  /-- SHFL (R371). Shuffle values between lanes. -/
  | shfl (f : F2)
  /-- REDUX (R372). Wave reduction over active lanes. -/
  | redux (f : F2)
  /-- BRA (R374). Relative branch splitting the entry by guard. -/
  | bra (f : F3)
  /-- BRX (R375). Indirect branch per lane. -/
  | brx (f : F2)
  /-- CALL (R376). Relative call writing a return word and raising depth. -/
  | call (f : F3)
  /-- CALLX (R376). Indirect call. -/
  | callx (f : F2)
  /-- RET (R377). Return through a return word, lowering depth. -/
  | ret (f : F2)
  /-- EXIT (R379). Release and end the threads of the active lanes. -/
  | exit (f : F2)
  /-- RGIVE (R204). Give registers to the group's pool on the partition. -/
  | rgive (f : F2)
  /-- RCLAIM (R204). Claim registers from the pool, waiting if short. -/
  | rclaim (f : F2)
  /-- REPACK (R197). Arrive at a repack of the role's waves with a sort key. -/
  | repack (f : F2)
  /-- KRN_LAUNCH (R382). Device-side launch of one grid per active lane. -/
  | krnLaunch (f : F2)
  /-- FADD (R387). Floating add in FP32, BF16 or H16. -/
  | fadd (f : F2)
  /-- FSUB (R387). Floating subtract. -/
  | fsub (f : F2)
  /-- FMUL (R387). Floating multiply. -/
  | fmul (f : F2)
  /-- FMA (R387). Fused multiply-add with one rounding. -/
  | fma (f : F2)
  /-- FMIN (R388). Floating minimum. -/
  | fmin (f : F2)
  /-- FMAX (R388). Floating maximum. -/
  | fmax (f : F2)
  /-- FCMP (R389). Floating compare writing a predicate. -/
  | fcmp (f : F2)
  /-- FCLASS (R390). Floating class mask. -/
  | fclass (f : F2)
  /-- FRND (R391). Round to integral value. -/
  | frnd (f : F2)
  /-- FDIV (R392). Correctly rounded division. -/
  | fdiv (f : F2)
  /-- FSQRT (R392). Correctly rounded square root. -/
  | fsqrt (f : F2)
  /-- FRCP (R392). Correctly rounded reciprocal. -/
  | frcp (f : F2)
  /-- FRSQ (R392). Correctly rounded reciprocal square root. -/
  | frsq (f : F2)
  /-- FEXP2 (R393). Correctly rounded exp2. -/
  | fexp2 (f : F2)
  /-- FLOG2 (R393). Correctly rounded log2. -/
  | flog2 (f : F2)
  /-- FSIN (R393). Correctly rounded sinPi. -/
  | fsin (f : F2)
  /-- FCOS (R393). Correctly rounded cosPi. -/
  | fcos (f : F2)
  /-- FSCALE (R394). Multiply by a power of two. -/
  | fscale (f : F2)
  /-- FEXPO (R395). Extract the exponent as an integer. -/
  | fexpo (f : F2)
  /-- FADD_F64 (R387). FP64 add on the residue-checked datapath. -/
  | faddF64 (f : F2)
  /-- FSUB_F64 (R387). FP64 subtract. -/
  | fsubF64 (f : F2)
  /-- FMUL_F64 (R387). FP64 multiply. -/
  | fmulF64 (f : F2)
  /-- FMA_F64 (R387). FP64 fused multiply-add. -/
  | fmaF64 (f : F2)
  /-- FMIN_F64 (R388). FP64 minimum. -/
  | fminF64 (f : F2)
  /-- FMAX_F64 (R388). FP64 maximum. -/
  | fmaxF64 (f : F2)
  /-- FCMP_F64 (R389). FP64 compare. -/
  | fcmpF64 (f : F2)
  /-- FCLASS_F64 (R390). FP64 class mask. -/
  | fclassF64 (f : F2)
  /-- FRND_F64 (R391). FP64 round to integral. -/
  | frndF64 (f : F2)
  /-- FDIV_F64 (R392). FP64 division. -/
  | fdivF64 (f : F2)
  /-- FSQRT_F64 (R392). FP64 square root. -/
  | fsqrtF64 (f : F2)
  /-- FRCP_F64 (R392). FP64 reciprocal. -/
  | frcpF64 (f : F2)
  /-- FRSQ_F64 (R392). FP64 reciprocal square root. -/
  | frsqF64 (f : F2)
  /-- FSCALE_F64 (R394). FP64 scale by a power of two. -/
  | fscaleF64 (f : F2)
  /-- FEXPO_F64 (R395). FP64 exponent extraction. -/
  | fexpoF64 (f : F2)
  /-- CVT (R398). Convert between integer and floating types. -/
  | cvt (f : F2)
  /-- QNT (R402). Quantise the active lanes as one block. -/
  | qnt (f : F2)
  /-- DQNT (R403). Decode block element qwords. -/
  | dqnt (f : F2)
  /-- BMAX (R401). Block maximum magnitude or scale. -/
  | bmax (f : F2)
  /-- PACK (R404). Build the byte image of a block. -/
  | pack (f : F2)
  /-- UNPACK (R405). Unpack a block image into qwords. -/
  | unpack (f : F2)
  /-- MMA (R416). Matrix multiply-accumulate into a tile. -/
  | mma (f : F2)
  /-- MMAS (R416). Sparse matrix multiply-accumulate. -/
  | mmas (f : F2)
  /-- MZERO (R418). Set a tile's tag and zero it. -/
  | mzero (f : F2)
  /-- MDRAIN (R419). Check and drain part of a tile into registers. -/
  | mdrain (f : F2)
  /-- MDRAIN_SP (R420). Check and drain a tile into scratchpad. -/
  | mdrainSp (f : F2)
  /-- MMETA (R421). Prune a dense A to sparse form with metadata. -/
  | mmeta (f : F2)
  /-- MSTAT (R422). Read a tile's status word. -/
  | mstat (f : F2)
  /-- LD_G (R436). Global load. -/
  | ldG (f : F3)
  /-- ST_G (R436). Global store. -/
  | stG (f : F3)
  /-- LD_SP (R436). Scratchpad load or FIFO pop. -/
  | ldSp (f : F3)
  /-- ST_SP (R436). Scratchpad store or FIFO push. -/
  | stSp (f : F3)
  /-- LD_RO (R436). Read-only-space load. -/
  | ldRo (f : F3)
  /-- LD_ACQ (R436). Acquire load from the home. -/
  | ldAcq (f : F3)
  /-- ST_REL (R436). Release store. -/
  | stRel (f : F3)
  /-- LDV (R440). Gather load with scaled index. -/
  | ldv (f : F3)
  /-- STV (R440). Scatter store with scaled index. -/
  | stv (f : F3)
  /-- PREF (R441). Prefetch lines into L1. -/
  | pref (f : F3)
  /-- INV_L1 (R442). Invalidate unowned L1 words as an acquire. -/
  | invL1 (f : F2)
  /-- WB_L1 (R442). Write back dirty owned L1 words. -/
  | wbL1 (f : F2)
  /-- ATOM_ADD (R443). Atomic add at the home. -/
  | atomAdd (f : F3)
  /-- ATOM_MIN (R443). Atomic minimum. -/
  | atomMin (f : F3)
  /-- ATOM_MAX (R443). Atomic maximum. -/
  | atomMax (f : F3)
  /-- ATOM_AND (R443). Atomic and. -/
  | atomAnd (f : F3)
  /-- ATOM_OR (R443). Atomic or. -/
  | atomOr (f : F3)
  /-- ATOM_XOR (R443). Atomic exclusive or. -/
  | atomXor (f : F3)
  /-- ATOM_XCH (R443). Atomic exchange. -/
  | atomXch (f : F3)
  /-- ATOM_CAS (R443). Atomic compare and swap. -/
  | atomCas (f : F3)
  /-- FATOM_ADD (R445). Floating atomic add. -/
  | fatomAdd (f : F3)
  /-- RED_ADD (R446). Combined reduction add without return. -/
  | redAdd (f : F3)
  /-- RED_MIN (R446). Reduction minimum. -/
  | redMin (f : F3)
  /-- RED_MAX (R446). Reduction maximum. -/
  | redMax (f : F3)
  /-- RED_AND (R446). Reduction and. -/
  | redAnd (f : F3)
  /-- RED_OR (R446). Reduction or. -/
  | redOr (f : F3)
  /-- RED_XOR (R446). Reduction exclusive or. -/
  | redXor (f : F3)
  /-- HGAT (R447). Gather of current values at the home. -/
  | hgat (f : F3)
  /-- CPY (R449). Start an asynchronous copy. -/
  | cpy (f : F3)
  /-- CPY_MX (R452). Copy into scratchpad with a follow-on mma. -/
  | cpyMx (f : F3)
  /-- CPY_CK (R453). Copy to or from the checkpoint-tier window. -/
  | cpyCk (f : F3)
  /-- WAIT (R454). Wait until named counters fall to a threshold. -/
  | wait (f : F2)
  /-- SEM_INC (R455). Release and increment a semaphore. -/
  | semInc (f : F2)
  /-- SEM_WAIT (R455). Wait in order on a semaphore. -/
  | semWait (f : F2)
  /-- SEM_SET (R455). Release and set a semaphore. -/
  | semSet (f : F2)
  /-- BAR_ARRIVE (R456). Arrive at a group or gang barrier. -/
  | barArrive (f : F2)
  /-- BAR_WAIT (R456). Wait for the barrier phase to release. -/
  | barWait (f : F2)
  /-- BAR_SYNC (R456). Arrive and wait as one instruction. -/
  | barSync (f : F2)
  /-- FENCE_ACQ (R457). Acquire fence. -/
  | fenceAcq (f : F2)
  /-- FENCE_REL (R457). Release fence. -/
  | fenceRel (f : F2)
  /-- FENCE_AR (R457). Release then acquire fence. -/
  | fenceAr (f : F2)
  /-- SRAM_MODE (R458). Claim, release or convert the group's SRAM banks. -/
  | sramMode (f : F2)
  /-- TSK_SPAWN (R462). Spawn a task record per active lane. -/
  | tskSpawn (f : F2)
  /-- TSK_SPAWNP (R462). Spawn a pure task with reuse lookup. -/
  | tskSpawnp (f : F2)
  /-- TSK_JOIN (R464). Continue if the join count is zero, otherwise park. -/
  | tskJoin (f : F2)
  /-- TSK_PARK (R465). Park until a set of operations completes. -/
  | tskPark (f : F2)
  /-- TSK_EXIT (R466). End a task thread. -/
  | tskExit (f : F2)
  /-- REU_INV (R467). Invalidate reuse entries of the tenant. -/
  | reuInv (f : F2)
  /-- REU_STAT (R468). Read a reuse counter. -/
  | reuStat (f : F2)
  /-- RAY_CAST (R469). Append ray records to the scene's ROOT queue. -/
  | rayCast (f : F2)
  /-- RAY_BEAM (R469). Append beam records. -/
  | rayBeam (f : F2)
  /-- RAY_ACCEPT (R471). Send an accept verdict to a pass slot. -/
  | rayAccept (f : F2)
  /-- RAY_IGNORE (R471). Send an ignore verdict. -/
  | rayIgnore (f : F2)
  /-- RAY_TERM (R471). Send a terminate verdict. -/
  | rayTerm (f : F2)
  /-- RAY_RD (R472). Read a word of the lane's record tail. -/
  | rayRd (f : F2)
  /-- RGN_OPEN (R473). Arrive at a region open with a live-in count. -/
  | rgnOpen (f : F2)
  /-- RGN_COMMIT (R474). Arrive at the region commit. -/
  | rgnCommit (f : F2)
  /-- RGN_ABORT (R475). Roll the region back and resume at a target. -/
  | rgnAbort (f : F3)
  /-- RGN_STAT (R476). Read region state or counts. -/
  | rgnStat (f : F2)
  /-- COL_START (R480). Join a collective as a rank. -/
  | colStart (f : F2)
  /-- COL_REFORM (R484). Build a new member table from the survivors. -/
  | colReform (f : F2)
  /-- COL_STAT (R485). Read the last collective's record. -/
  | colStat (f : F2)
  /-- MAP_RD (R488). Read a resource-map word with its version. -/
  | mapRd (f : F2)
  /-- MAP_ACK_INSTR (R489). Acknowledge a map version for the context. -/
  | mapAckInstr (f : F2)
  /-- SR_GET (R490). Read a special or trap register. -/
  | srGet (f : F2)
  /-- SR_SET (R490). Write a trap, debug or monitor register. -/
  | srSet (f : F2)
  /-- TRAP (R491). Raise the software-trap cause. -/
  | trap (f : F2)
  /-- TRET (R318). Return from a trap handler. -/
  | tret (f : F2)
  /-- BRK (R491). Raise the breakpoint cause. -/
  | brk (f : F1)
  /-- NOP (R492). No operation, of every clause class. -/
  | nop (f : F1)
  /-- HALT (R493). Suspend every gang of the context and report the code. -/
  | halt (f : F2)
  /-- PROF_RD (R494). Read a monitor, stall counter or instruction count. -/
  | profRd (f : F2)
  /-- CTX_CREATE (R69). Host command creating a context with class, tenant, salt, policies and task area, taking its root node from the free pool. -/
  | ctxCreate (m : Msg)
  /-- CTX_DESTROY (R68). Host command killing every gang of the context, dropping its queues and sending its unshared pages to the Groom. -/
  | ctxDestroy (m : Msg)
  /-- CTX_POLICY (R74). Host command changing the selected policies of a context for later placements. -/
  | ctxPolicy (m : Msg)
  /-- MEM_MAP (R70). Host command writing page-table entries, allocating, sharing, mapping remote or changing protection, unblocking parked entries. -/
  | memMap (m : Msg)
  /-- MEM_UNMAP (R70). Host command removing page-table entries and freeing pages no live context then maps. -/
  | memUnmap (m : Msg)
  /-- LAUNCH (R77). Host command carrying a launch record, validated at acceptance and queued in the context's class queue. -/
  | launch (m : Msg)
  /-- CTX_HALT (R68). Host command suspending every gang of the context as a map-stale suspension does, with event code 2. -/
  | ctxHalt (m : Msg)
  /-- CTX_RESUME (R68). Host command making a halted or restored context runnable again. -/
  | ctxResume (m : Msg)
  /-- MAP_ACK (R71). Host command acknowledging a map version on behalf of a context. -/
  | mapAck (m : Msg)
  /-- CKPT (R83). Host command ordering a full or incremental checkpoint of the contexts in its mask. -/
  | ckpt (m : Msg)
  /-- RESTORE (R86). Host command verifying a checkpoint chain and rebuilding its contexts suspended. -/
  | restore (m : Msg)
  /-- CK_WINDOW (R82). Host command granting or revoking the context's checkpoint-tier window. -/
  | ckWindow (m : Msg)
  /-- ATTEST (R88). Host command returning a signed attestation report before its completion. -/
  | attest (m : Msg)
  /-- MAP_SNAP (R66). Host command returning the whole map at one version as eleven 0x86 parts before its completion. -/
  | mapSnap (m : Msg)
  /-- POWER_LIMIT (R33). Host command setting the power limit, recorded with cause 0x02 and enforced within 1 ms. -/
  | powerLimit (m : Msg)
  /-- RELAY_SET (R71). Host command writing a relay-table entry and/or port relay flags, one version each. -/
  | relaySet (m : Msg)
  /-- PEER_CLEAR (R71). Host command clearing one lost-peer entry with cause 0x14. -/
  | peerClear (m : Msg)
  /-- MAP_REBUILD (R36). Host command rebuilding the Farrier's durable copy from a fresh survey and publishing a map. -/
  | mapRebuild (m : Msg)
  /-- GEOM_IN (R179). Host command delivering geometry page-in data; with the last bit set it makes the Wrangler recheck residency. -/
  | geomIn (m : Msg)
  /-- FW_WRITE (R89). Host command writing part of a non-running firmware slot, clearing its GEN first. -/
  | fwWrite (m : Msg)
  /-- FW_COMMIT (R89). Host command verifying a firmware slot and durably setting its GEN for the next boot. -/
  | fwCommit (m : Msg)
  /-- LOAD_DATA_LANDS (R433). A load's data lands in its destination registers or queue and the ld counter decrements when all lanes have landed. -/
  | loadDataLands (op : Nat) (fresh : Bool)
  /-- STORE_PERFORMED (R269). A store's ownership registration is recorded at the home, the store is performed and st decrements. -/
  | storePerformed (op : Nat)
  /-- ATOMIC_AT_HOME (R256). The near-data ALU applies an atomic or reduction at the word's home after recalling any owner. -/
  | atomicAtHome (op : Nat)
  /-- COPY_COMPLETE (R449). A copy's last write is performed: cp decrements and a named semaphore increments. -/
  | copyComplete (op : Nat)
  /-- CPY_MX_FOLLOW_ON (R452). When cpy.mx's last byte is performed the copy engine issues the follow-on mma into engine order. -/
  | cpyMxFollowOn (op : Nat)
  /-- MATRIX_CMD_START (R408). An engine starts its next queued command once the previous one finishes. -/
  | matrixCmdStart (core engine : Nat)
  /-- MATRIX_CMD_COMPLETE (R411). A matrix command completes, results become readable and mx decrements. -/
  | matrixCmdComplete (core engine : Nat)
  /-- QUEUE_DELIVERY_PUSH (R223). A delivery that waited for room pushes its word into each lane's queue register. -/
  | queueDeliveryPush (op : Nat)
  /-- BARRIER_RELEASE (R456). The last live participant arrives or ends and the barrier releases every waiting entry. -/
  | barrierRelease (gang : Nat) (bar : BarId)
  /-- SEM_WAIT_PASS (R455). A blocked sem.wait finds no earlier waiter and enough count, takes v and acquires. -/
  | semWaitPass (ctx core sem : Nat)
  /-- RCLAIM_GRANT (R204). A waiting rclaim is met from the pool in order of claims. -/
  | rclaimGrant (gang group core partition : Nat)
  /-- REPACK_MOVE (R198). When every participating wave has arrived and pending writes have landed, the threads are sorted by key and moved. -/
  | repackMove (wave : Nat)
  /-- REGION_OPEN_RELEASE (R292). The last arrival at rgn.open releases the gang, zeroes registers above n and starts the snapshot. -/
  | regionOpenRelease (gang : Nat)
  /-- REGION_SNAPSHOT_DONE (R292). The copy engine finishes writing the snapshot slots of an opened region, releasing waves stalled on live-ins and letting the cores report clean. -/
  | regionSnapshotDone (gang : Nat)
  /-- COMMIT_POINT (R294). Every core reports clean and the gang is granted a commit token: STATE becomes 5 and REGION increments. -/
  | commitPoint (gang : Nat)
  /-- COMMIT_DRAIN_DONE (R294). Pinned, spilled and deferred effects are applied, STATE becomes 0 and the waves pass rgn.commit. -/
  | commitDrainDone (gang : Nat)
  /-- COMMIT_TOKEN_RETURN (R294). A core's pinned-line drain of step 4 ends within 2,048 cycles of the commit point, the commit token returns to the die, and a waiting swap may proceed while steps 5 to 8 continue. -/
  | commitTokenReturn (gang core : Nat)
  /-- ROLLBACK (R298). An error, abort or forced rollback stops the gang, discards region effects, applies the journal and restores waves. -/
  | rollback (gang : Nat)
  /-- REMOUNT_REPLAY_START (R300). The Remount sequencer takes spare cores, copies scratchpad and starts the replay within 60 µs of detection. -/
  | remountReplayStart (gang : Nat)
  /-- GANG_KILL (R303). A gang is killed: waves stop, region effects are discarded, collectives end, operations run out and resources free. -/
  | gangKill (gang : Nat)
  /-- GANG_RELAUNCH (R304). After a kill completes, a permitted gang returns to pending with its original age. -/
  | gangRelaunch (gang : Nat)
  /-- LAUNCH_COMPLETE (R78). Every gang has exited or been killed: deterministic atomics are applied, DONE is written and the completion is sent. -/
  | launchComplete (launch : Nat)
  /-- TRAP_ENTRY (R316). A cause taken by a handler broadcasts a group halt and starts the handler within 12 cycles. -/
  | trapEntry (wave : Nat)
  /-- SIBLING_STOP (R314). A sibling wave reached by the halt broadcast stops within 32 cycles after at most 8 skid instructions. -/
  | siblingStop (wave : Nat)
  /-- POISON_CONTAINMENT (R313). A nonzero poison-consumed mask writes the trap registers and hands the gang to containment under R307. -/
  | poisonContainment (wave : Nat)
  /-- DISPATCHER_STEP (R95). The dispatcher applies map changes, frees resources and places pending gangs whole in the order of R92. -/
  | dispatcherStep
  /-- TASK_WAVE_ISSUE (R131). The task dispatcher issues a packed wave when full, after 64 cycles, or when a ninth key is needed and room exists. -/
  | taskWaveIssue (core partition : Nat)
  /-- REUSE_LOOKUP (R138). The near-data ALU finishes a pure spawn's digest and the table is probed: hit copy, or miss with or without a pending way. -/
  | reuseLookup (spawn : Nat)
  /-- REUSE_HIT_COPY_DONE (R138). A hit's copy ends; if the entry stayed valid the task retires with release and join decrement, otherwise it runs as a miss. -/
  | reuseHitCopyDone (spawn : Nat)
  /-- PASS_START (R159). The Wrangler starts a treelet pass on a chosen eligible queue as a single-core gang. -/
  | passStart (ctx : Nat)
  /-- TREELET_LOADED (R161). A pass finishes loading its treelet image into scratchpad and begins streaming segments. -/
  | treeletLoaded (pass : Nat)
  /-- SEGMENT_COMMIT (R162). Once every record of a source segment has finished or left, the pass links, releases records, decrements joins and frees the segment. -/
  | segmentCommit (pass segment : Nat)
  /-- PASS_CLOSE (R163). A pass closes once its awaited verdicts arrive, or after 1 ms of waiting. -/
  | passClose (pass : Nat)
  /-- RAY_APPEND_COMPLETE (R469). Every active lane's ray or beam record has been appended or refused, so D lands with the status and the ry counter decrements. -/
  | rayAppendComplete (op : Nat)
  /-- ANY_HIT_CANDIDATE (R171). During traversal a ray meets a non-opaque candidate, halts in the pass, takes a verdict slot and releases a kind-4 record at once. -/
  | anyHitCandidate (pass segment ray : Nat)
  /-- COLLECTIVE_COMPLETE (R480). Every DST write of a rank is performed, D lands and co decrements. -/
  | collectiveComplete (op : Nat)
  /-- MODULE_RESET (R36). CARRIER_RESET_N releases the module: the boot ROM verifies and boots a firmware slot, the Farrier surveys the construction, applies the durable retirements and publishes the map at version 1. -/
  | moduleReset (survey : Survey)
  /-- MAIN_INPUT_OUT_OF_RANGE (R34). The 48 V input leaves its range: MODULE_PG deasserts, the module stops within 20 µs and all state except completed checkpoint-tier pages is lost. -/
  | mainInputOutOfRange
  /-- CLOCK_LOWER (R9). A power or thermal condition lowers the arithmetic clock by one or more 100 MHz steps within 1 ms, recorded as one map change of cause 0x01. -/
  | clockLower (mhz : Nat)
  /-- CLOCK_RAISE (R9). After the clock has held its value for at least 10 ms, it is raised by one or more 100 MHz steps, recorded as one map change of cause 0x01. -/
  | clockRaise (mhz : Nat)
  /-- TELEMETRY (R66). Every 100 ms, and within 1 ms of a clock change, the device sends message 0x84 with time, clock, power, limit and temperatures. -/
  | telemetry (power : Nat) (temps : List Half)
  /-- TIMESTAMP_SYNC_SEND (R11). Every 1 ms the package sends a timestamp sync message in the collective message class to its pod. -/
  | timestampSyncSend
  /-- TIMESTAMP_SYNC (R11). A received sync message (MTYPE 7) makes the package slew its timestamp, or adopt the lowest-ID member's count when joining a pod, never stepping back. -/
  | timestampSync (sync : SyncMsg)
  /-- PORT_DOWN (R17). A lane of a UALink port fails, or eight consecutive replays of one flit fail, and the port is recorded down with cause 0x0F. -/
  | portDown (port : Nat)
  /-- PORT_UP (R45). A UALink port trains up at x4 and the map records it up with cause 0x10. -/
  | portUp (port : Nat)
  /-- FLIT_CRC_FAIL (R18). A flit fails its CRC and the data link layer requests a replay, counting consecutive failures of the same flit. -/
  | flitCrcFail (port flit : Nat)
  /-- REMOTE_RESPONSE (R258). A response to a remote load, store or atomic returns, performing the access and decrementing the issuing wave's counter. -/
  | remoteResponse (op : Nat) (words : List WireWord)
  /-- REMOTE_TIMEOUT (R19). A remote access's 50 µs time-out expires: returned words are delivered poisoned or the store is recorded lost, and the counter decrements. -/
  | remoteTimeout (op : Nat)
  /-- PEER_REQUEST (R258). A read, write or atomic request arriving from a UALink peer is executed at the home slice of the local address and answered. -/
  | peerRequest (req : PeerReq)
  /-- UNSUPPORTED_REQUEST (R20). A received request outside the supported set is answered with the unsupported-request response and has no other effect. -/
  | unsupportedRequest (port tag : Nat)
  /-- UNKNOWN_VENDOR_MESSAGE (R20). A vendor-defined message with an unrecognised Wewyn tag is discarded and counted in the port's error counter. -/
  | unknownVendorMessage (port tag : Nat)
  /-- RELAY_FORWARD (R23). A relay package forwards a request or response arriving for another pod out of a relay port, in arrival order per package pair. -/
  | relayForward (msg : RelayMsg)
  /-- UTENAURN_FRAME (R31). A Utenaurn frame arrives; a CRC failure or out-of-sequence number makes the receiver ask for it again, otherwise its messages are delivered in order. -/
  | utenaurnFrame (frame : Frame)
  /-- UTENAURN_LANE_DOWN (R32). A Utenaurn lane fails or returns, the map records it with cause 0x11, and with both lanes down completions are held until the port returns. -/
  | utenaurnLaneDown (lane : Nat) (up : Bool)
  /-- STACK_LOST (R8). An HBM stack is lost: cause 0x0E, its resident pages read poisoned and large-page allocation stops. -/
  | stackLost (stack : Nat)
  /-- DIE_LOST (R39). A compute die is lost: cause 0x15, its home slices are lost, its gangs are killed without relaunch and no new launch is accepted. -/
  | dieLost (die : Nat)
  /-- CKPT_QUIESCE_TIMEOUT (R83). The checkpoint quiesce limit expires: replayable gangs are rolled back and suspended, or the order fails with 0x0A if one is not replayable. -/
  | ckptQuiesceTimeout
  /-- CKPT_WRITE_DONE (R84). The image pages are durable, the descriptor is written last, contexts resume and the completion returns the sequence number. -/
  | ckptWriteDone
  /-- MAP_ACK_DEADLINE (R48). The deadline for an owed version passes and the context becomes overdue: event 1 is sent and its gangs are suspended under R49. -/
  | mapAckDeadline (ctx : Nat)
  /-- MAP_STALE_FORCED_ROLLBACK (R49). Twice the grace period after the deadline, a gang still inside a replayable region is rolled back and suspended. -/
  | mapStaleForcedRollback (gang : Nat)
  /-- FARRIER_LANE_SWAP (R52). After the erring gang is rolled back or killed, the Farrier holds the core, writes LANE_MAP and returns it to enabled. -/
  | farrierLaneSwap (core group lane : Nat)
  /-- FARRIER_CORE_RETIRE (R52). When no gang remains on a held core, the Farrier sets it retired with cause 0x06. -/
  | farrierCoreRetire (core : Nat)
  /-- FARRIER_UNIT_RETIRE (R52). At the next moment a bank, quarter or way is not in use, the Farrier retires it, making a slice home-only at the fifth way. -/
  | farrierUnitRetire (unit : HwUnit)
  /-- ERROR_WINDOW_EXPIRY (R51). An error count leaves the 3,600 s sliding window of a unit's threshold. -/
  | errorWindowExpiry (unit : HwUnit)
  /-- ROW_SCORE_HALVE (R54). Every 24 h the Groom halves every HBM row score. -/
  | rowScoreHalve
  /-- GROOM_CLEAR_PAGE (R56). The Groom takes a freed page, writes zeros with fresh ECC, reads back, and returns or retires it. -/
  | groomClearPage (readback : Readback)
  /-- PREEMPTION (R109). A gang is pre-empted whole for a higher class, suspension, halt, checkpoint, hold or debugger order. -/
  | preemption (gang : Nat)
  /-- SHADOW_BANK_SWAP (R110). A core swaps active and shadow banks in a fixed 48 cycles from the instruction boundary at which it takes the order. -/
  | shadowBankSwap (core : Nat)
  /-- SPILL_COMPLETE (R114). The background engine finishes spilling the outgoing bank, SRAM and pinned lines and loading the incoming banks. -/
  | spillComplete (core : Nat)
  /-- SAVE_SPACE_EXHAUSTED (R115). A spill waiting for pages sends event 11 when it starts waiting and every 100 ms while it lasts. -/
  | saveSpaceExhausted (core : Nat)
  /-- RESTORE_PLACEMENT (R323). At a map change or CTX_RESUME the dispatcher retries restoring a suspended gang onto a same-shape core set, sending event 8 if none. -/
  | restorePlacement (gang : Nat)
  /-- WAVE_FORCED (R108). A wave ready and unissued for 256 cycles becomes forced and takes precedence. -/
  | waveForced (wave : Nat)
  /-- ENTRY_FORCED (R192). An unblocked frontier entry passed over by 512 issues is issued next. -/
  | entryForced (wave pc depth : Nat)
  /-- TASK_GANG_QUEUE (R132). Records waiting 10 µs without room queue a task gang for the context. -/
  | taskGangQueue (ctx : Nat)
  /-- TASK_GANG_RELEASE (R132). A task gang releases its core after 100 µs with no records waiting. -/
  | taskGangRelease (gang : Nat)
  /-- TASK_REFILL (R134). A task FIFO below 128 records is refilled from the spill ring, discarding malformed records. -/
  | taskRefill (core : Nat)
  /-- SCENE_RELEASE (R147). A scene whose queues have been empty and without a pass for 10 ms is released. -/
  | sceneRelease (ctx scene : Nat)
  /-- PASS_STREAM_STOP (R160). 200 µs after a pass starts it stops taking segments. -/
  | passStreamStop (pass : Nat)
  /-- GEOM_PAGE_REQUEST (R178). A chosen treelet's page is absent: message 0x82 is sent, and again every 50 ms while the queue is non-empty. -/
  | geomPageRequest (ctx scene treelet : Nat)
  /-- PARK_TIMEOUT (R265). An entry still blocked 100 ms after it parked raises the translation cause. -/
  | parkTimeout (wave pc depth : Nat)
  /-- ENGINE_PAGE_TIMEOUT (R266). An engine's page still invalid after 100 ms ends the operation, poisons unwritten bytes and records the loss. -/
  | enginePageTimeout (op : Nat)
  /-- FREEZE_TIMEOUT (R327). A freeze ends 10 ms after F if no thaw came first. -/
  | freezeTimeout (core partition : Nat)
  /-- MONITOR_SAMPLE (R331). Every 1,024 cycles the task FIFO depth is sampled into monitors of source 11. -/
  | monitorSample
  /-- COL_MSG_START (R481). A collective start message arrives and is acknowledged and recorded for its rank. -/
  | colMsgStart (m : ColMsg)
  /-- COL_MSG_DATA (R481). A collective data message arrives, is decompressed and checked, and is acknowledged. -/
  | colMsgData (m : ColMsg)
  /-- COL_MSG_RESULT (R481). A collective result message arrives and is written to the rank's destination. -/
  | colMsgResult (m : ColMsg)
  /-- COL_MSG_ACK (R482). An acknowledgement of a sent collective message arrives. -/
  | colMsgAck (m : ColMsg)
  /-- COL_MSG_ABORT (R482). An abort arrives: the collective ends for local ranks and listed packages are recorded lost. -/
  | colMsgAbort (m : ColMsg)
  /-- COL_MSG_REFORM (R484). A reform message carrying a lost-package list arrives and is merged into the exchange. -/
  | colMsgReform (m : ColMsg)
  /-- COL_ACK_TIMEOUT (R482). A message has no acknowledgement after ROUND, so its receiving package is treated as lost and an abort is sent. -/
  | colAckTimeout (msg : Nat)
  /-- COL_START_TIMEOUT (R482). A rank lacks another rank's start ROUND after its own, treating it as late and aborting. -/
  | colStartTimeout (op : Nat)
  /-- ABORT_RECORD_EXPIRY (R482). An aborted (SETID, SEQ) is forgotten 1 s after the abort. -/
  | abortRecordExpiry (tenant : Nat) (setId seq : Nat)
  /-- DEBUG_ATTACH (R324). Debug order 1 sends the target context's breakpoints and watchpoints to the debugger. -/
  | debugAttach (wave : Nat)
  /-- DEBUG_DETACH (R324). Debug order 2 undoes attach and resumes debug-halted waves. -/
  | debugDetach (wave : Nat)
  /-- DEBUG_FREEZE (R327). Debug order 3 freezes the target partition and writes the dump. -/
  | debugFreeze (wave : Nat)
  /-- DEBUG_THAW (R324). Debug order 4 releases a freeze. -/
  | debugThaw (wave : Nat)
  /-- DEBUG_RESUME (R324). Debug order 5 releases a debug-halted wave. -/
  | debugResume (wave : Nat)
  /-- DEBUG_STEP (R324). Debug order 6 releases a debug-halted wave for one instruction. -/
  | debugStep (wave : Nat)
  /-- DEBUG_HALT_GROUP (R324). Debug order 7 stops the target wave's group with cause 0x10 and no handler. -/
  | debugHaltGroup (wave : Nat)
  /-- MONITOR_CONFIGURE (R331). A write of sr.mcfg configures a die monitor's source, shift and base. -/
  | monitorConfigure (wave : Nat) (value : Dword)
  /-- MONITOR_CLEAR (R331). A write of sr.mcfg with bit 63 set clears the monitor. -/
  | monitorClear (wave : Nat) (value : Dword)
  /-- SRAM_MODE_CHANGE_DONE (R458). A bank-mode change completes within 64 + ceil(dirty lines / 4) cycles, writing the status into D and releasing waves stalled on the changing bank. -/
  | sramModeChangeDone (op : Nat)
  deriving DecidableEq, Repr

end Sys2Proof
end

