-- ==== Sys2Proof/Decode.lean ====
section
/-! DEFINITION. From bits to an instruction and back: the words of Glezu's instructions (R339, R346) and the messages of
the host's commands (R61, R68). Events have no encoding. Decoding is total and rejects by name; what an encoding's
reserved fields make of it is its meaning's (R347). -/

namespace Sys2Proof
open Machine

/-- Why bits are no instruction. -/
inductive Reject where
  /-- Fewer bytes than the instruction or message has. -/
  | truncated
  /-- An opcode from 0xF0 to 0xFF: a clause header (R347). -/
  | clauseHeader (op : Nat)
  /-- R346 lists no form under the opcode. -/
  | unassignedOpcode (op : Nat)
  /-- R346 lists the opcode without that sub-opcode. -/
  | unassignedSub (op sub : Nat)
  /-- A message whose TYPE R68 does not list. -/
  | unknownCommand (type : Nat)
  deriving DecidableEq, Repr

/-! ## Lengths (R346) -/

/-- One-word forms: 0x00 to 0x0F, brk and nop. -/
def oneWordOp (op : Nat) : Bool := decide (op < 0x10) || op == 0xE6 || op == 0xE7

/-- Three-word forms. -/
def threeWordOp (op : Nat) : Bool :=
  op == 0x1E || op == 0x1F || op == 0x30 || op == 0x32 || (decide (0x80 ≤ op) && decide (op ≤ 0x89)) ||
    (decide (0x90 ≤ op) && decide (op ≤ 0x93)) || (decide (0xA0 ≤ op) && decide (op ≤ 0xA2)) || op == 0xD2

/-- Is the major opcode assigned? -/
def assignedOp (op : Nat) : Bool :=
  decide (op ≤ 0x27) || (decide (0x30 ≤ op) && decide (op ≤ 0x39)) || (decide (0x40 ≤ op) && decide (op ≤ 0x4E)) ||
  (decide (0x50 ≤ op) && decide (op ≤ 0x5A)) || op == 0x5D || op == 0x5E ||
  (decide (0x60 ≤ op) && decide (op ≤ 0x65)) || (decide (0x70 ≤ op) && decide (op ≤ 0x76)) ||
  (decide (0x80 ≤ op) && decide (op ≤ 0x8B)) || (decide (0x90 ≤ op) && decide (op ≤ 0x93)) ||
  (decide (0xA0 ≤ op) && decide (op ≤ 0xA7)) || (decide (0xB0 ≤ op) && decide (op ≤ 0xB6)) ||
  (decide (0xC0 ≤ op) && decide (op ≤ 0xC3)) || (decide (0xD0 ≤ op) && decide (op ≤ 0xD3)) ||
  (decide (0xD8 ≤ op) && decide (op ≤ 0xDA)) || (decide (0xE0 ≤ op) && decide (op ≤ 0xE9))

/-- Words of an instruction. An unassigned opcode counts as one word (log 24). -/
def wordsOfOp (op : Nat) : Nat :=
  if oneWordOp op || !assignedOp op then 1 else if threeWordOp op then 3 else 2

/-! ## Fields (R339) -/

/-- Bits of a word as a field of width w. -/
def bitsOf (x : Word) (lo w : Nat) : BitVec w := x.extractLsb' lo w

def fieldsOne (w0 : Word) : F1 := { d := bitsOf w0 16 8, a := bitsOf w0 8 8, b := bitsOf w0 0 8 }

def fieldsTwo (w0 w1 : Word) : F2 :=
  { d := bitsOf w0 16 8, a := bitsOf w0 8 8, b := bitsOf w0 0 8
    pidx := bitsOf w1 25 3, pneg := w1.getLsbD 24, la := bitsOf w1 20 4, ty := bitsOf w1 17 3, mod := bitsOf w1 8 9
    c := bitsOf w1 0 8 }

def fieldsThree (w0 w1 w2 : Word) : F3 := { w := fieldsTwo w0 w1, imm := w2 }

/-! ## Opcodes (R346) -/

/-- The form of a sub-opcode among those an opcode lists. -/
def pick (op sub : Nat) (l : List Instr) : Except Reject Instr :=
  match l[sub]? with
  | some i => .ok i
  | none => .error (.unassignedSub op sub)

def opcodeOne (op : Nat) (f : F1) : Except Reject Instr :=
  match op with
  | 0x00 => .ok (.iaddI32 f)
  | 0x01 => .ok (.isubI32 f)
  | 0x02 => .ok (.imulI32 f)
  | 0x03 => .ok (.iminI32 f)
  | 0x04 => .ok (.imaxI32 f)
  | 0x05 => .ok (.andB32 f)
  | 0x06 => .ok (.orB32 f)
  | 0x07 => .ok (.xorB32 f)
  | 0x08 => .ok (.andnB32 f)
  | 0x09 => .ok (.shlB32 f)
  | 0x0A => .ok (.shrB32 f)
  | 0x0B => .ok (.sraB32 f)
  | 0x0C => .ok (.movB32 f)
  | 0x0D => .ok (.notB32 f)
  | 0x0E => .ok (.popcB32 f)
  | 0x0F => .ok (.movi f)
  | 0xE6 => .ok (.brk f)
  | 0xE7 => .ok (.nop f)
  | _ => .error (.unassignedOpcode op)

def opcodeTwo (op sub : Nat) (f : F2) : Except Reject Instr :=
  match op with
  | 0x10 => pick op sub [.iadd f]
  | 0x11 => pick op sub [.isub f]
  | 0x12 => pick op sub [.imul f, .imulh f]
  | 0x13 => pick op sub [.imad f]
  | 0x14 => pick op sub [.idiv f, .irem f]
  | 0x15 => pick op sub [.imin f, .imax f]
  | 0x16 => pick op sub [.iabs f, .ineg f]
  | 0x17 => pick op sub [.and f, .or f, .xor f, .andn f, .not f]
  | 0x18 => pick op sub [.shl f, .shr f, .sra f, .rol f]
  | 0x19 => pick op sub [.bfx f, .bfi f, .popc f, .clz f, .ctz f, .brev f]
  | 0x1A => pick op sub [.icmp f]
  | 0x1B => pick op sub [.mov f, .sel f]
  | 0x1C => pick op sub [.lea f]
  | 0x1D => pick op sub [.xset f, .xadd f]
  | 0x20 => pick op sub [.pand f]
  | 0x21 => pick op sub [.por f]
  | 0x22 => pick op sub [.pxor f]
  | 0x23 => pick op sub [.pnot f]
  | 0x24 => pick op sub [.vote f]
  | 0x25 => pick op sub [.ballot f]
  | 0x26 => pick op sub [.shfl f]
  | 0x27 => pick op sub [.redux f]
  | 0x31 => pick op sub [.brx f]
  | 0x33 => pick op sub [.callx f]
  | 0x34 => pick op sub [.ret f]
  | 0x35 => pick op sub [.exit f]
  | 0x36 => pick op sub [.rgive f]
  | 0x37 => pick op sub [.rclaim f]
  | 0x38 => pick op sub [.repack f]
  | 0x39 => pick op sub [.krnLaunch f]
  | 0x40 => pick op sub [.fadd f]
  | 0x41 => pick op sub [.fsub f]
  | 0x42 => pick op sub [.fmul f]
  | 0x43 => pick op sub [.fma f]
  | 0x44 => pick op sub [.fmin f, .fmax f]
  | 0x45 => pick op sub [.fcmp f]
  | 0x46 => pick op sub [.fclass f]
  | 0x47 => pick op sub [.frnd f]
  | 0x48 => pick op sub [.fdiv f]
  | 0x49 => pick op sub [.fsqrt f]
  | 0x4A => pick op sub [.frcp f, .frsq f]
  | 0x4B => pick op sub [.fexp2 f, .flog2 f]
  | 0x4C => pick op sub [.fsin f, .fcos f]
  | 0x4D => pick op sub [.fscale f]
  | 0x4E => pick op sub [.fexpo f]
  | 0x50 => pick op sub [.faddF64 f]
  | 0x51 => pick op sub [.fsubF64 f]
  | 0x52 => pick op sub [.fmulF64 f]
  | 0x53 => pick op sub [.fmaF64 f]
  | 0x54 => pick op sub [.fminF64 f, .fmaxF64 f]
  | 0x55 => pick op sub [.fcmpF64 f]
  | 0x56 => pick op sub [.fclassF64 f]
  | 0x57 => pick op sub [.frndF64 f]
  | 0x58 => pick op sub [.fdivF64 f]
  | 0x59 => pick op sub [.fsqrtF64 f]
  | 0x5A => pick op sub [.frcpF64 f, .frsqF64 f]
  | 0x5D => pick op sub [.fscaleF64 f]
  | 0x5E => pick op sub [.fexpoF64 f]
  | 0x60 => pick op sub [.cvt f]
  | 0x61 => pick op sub [.qnt f]
  | 0x62 => pick op sub [.dqnt f]
  | 0x63 => pick op sub [.bmax f]
  | 0x64 => pick op sub [.pack f]
  | 0x65 => pick op sub [.unpack f]
  | 0x70 => pick op sub [.mma f]
  | 0x71 => pick op sub [.mmas f]
  | 0x72 => pick op sub [.mzero f]
  | 0x73 => pick op sub [.mdrain f]
  | 0x74 => pick op sub [.mdrainSp f]
  | 0x75 => pick op sub [.mmeta f]
  | 0x76 => pick op sub [.mstat f]
  | 0x8A => pick op sub [.invL1 f]
  | 0x8B => pick op sub [.wbL1 f]
  | 0xA3 => pick op sub [.wait f]
  | 0xA4 => pick op sub [.semInc f, .semWait f, .semSet f]
  | 0xA5 => pick op sub [.barArrive f, .barWait f, .barSync f]
  | 0xA6 => pick op sub [.fenceAcq f, .fenceRel f, .fenceAr f]
  | 0xA7 => pick op sub [.sramMode f]
  | 0xB0 => pick op sub [.tskSpawn f]
  | 0xB1 => pick op sub [.tskSpawnp f]
  | 0xB2 => pick op sub [.tskJoin f]
  | 0xB3 => pick op sub [.tskPark f]
  | 0xB4 => pick op sub [.tskExit f]
  | 0xB5 => pick op sub [.reuInv f]
  | 0xB6 => pick op sub [.reuStat f]
  | 0xC0 => pick op sub [.rayCast f]
  | 0xC1 => pick op sub [.rayBeam f]
  | 0xC2 => pick op sub [.rayAccept f, .rayIgnore f, .rayTerm f]
  | 0xC3 => pick op sub [.rayRd f]
  | 0xD0 => pick op sub [.rgnOpen f]
  | 0xD1 => pick op sub [.rgnCommit f]
  | 0xD3 => pick op sub [.rgnStat f]
  | 0xD8 => pick op sub [.colStart f]
  | 0xD9 => pick op sub [.colReform f]
  | 0xDA => pick op sub [.colStat f]
  | 0xE0 => pick op sub [.mapRd f]
  | 0xE1 => pick op sub [.mapAckInstr f]
  | 0xE2 => pick op sub [.srGet f]
  | 0xE3 => pick op sub [.srSet f]
  | 0xE4 => pick op sub [.trap f]
  | 0xE5 => pick op sub [.tret f]
  | 0xE8 => pick op sub [.halt f]
  | 0xE9 => pick op sub [.profRd f]
  | _ => .error (.unassignedOpcode op)

def opcodeThree (op sub : Nat) (f : F3) : Except Reject Instr :=
  match op with
  | 0x1E => pick op sub [.moviImm32 f]
  | 0x1F => pick op sub [.iaddImm32 f]
  | 0x30 => pick op sub [.bra f]
  | 0x32 => pick op sub [.call f]
  | 0x80 => pick op sub [.ldG f]
  | 0x81 => pick op sub [.stG f]
  | 0x82 => pick op sub [.ldSp f]
  | 0x83 => pick op sub [.stSp f]
  | 0x84 => pick op sub [.ldRo f]
  | 0x85 => pick op sub [.ldAcq f]
  | 0x86 => pick op sub [.stRel f]
  | 0x87 => pick op sub [.ldv f]
  | 0x88 => pick op sub [.stv f]
  | 0x89 => pick op sub [.pref f]
  | 0x90 => pick op sub [.atomAdd f, .atomMin f, .atomMax f, .atomAnd f, .atomOr f, .atomXor f, .atomXch f, .atomCas f]
  | 0x91 => pick op sub [.fatomAdd f]
  | 0x92 => pick op sub [.redAdd f, .redMin f, .redMax f, .redAnd f, .redOr f, .redXor f]
  | 0x93 => pick op sub [.hgat f]
  | 0xA0 => pick op sub [.cpy f]
  | 0xA1 => pick op sub [.cpyMx f]
  | 0xA2 => pick op sub [.cpyCk f]
  | 0xD2 => pick op sub [.rgnAbort f]
  | _ => .error (.unassignedOpcode op)

/-- The instruction three words begin with. -/
def decodeWords (w0 w1 w2 : Word) : Except Reject Instr :=
  let op := (bitsOf w0 24 8).toNat
  let sub := (bitsOf w1 28 4).toNat
  if op ≥ 0xF0 then .error (.clauseHeader op)
  else if !assignedOp op then .error (.unassignedOpcode op)
  else if oneWordOp op then opcodeOne op (fieldsOne w0)
  else if threeWordOp op then opcodeThree op sub (fieldsThree w0 w1 w2)
  else opcodeTwo op sub (fieldsTwo w0 w1)

/-- Word i of bytes laid out little-endian (R3). -/
def wordOfBytes (bs : List Byte) (i : Nat) : Word := BitVec.ofNat 32 (numAt bs (4 * i) 4)

/-- The instruction a string of bytes begins with, and the bytes after it. -/
def decodeBytes (bs : List Byte) : Except Reject (Instr × List Byte) :=
  if bs.length < 4 then .error .truncated
  else
    let n := 4 * wordsOfOp (bitsOf (wordOfBytes bs 0) 24 8).toNat
    if bs.length < n then .error .truncated
    else match decodeWords (wordOfBytes bs 0) (wordOfBytes bs 1) (wordOfBytes bs 2) with
      | .ok i => .ok (i, bs.drop n)
      | .error r => .error r

/-! ## Host commands (R61, R68) -/

/-- TYPE, and the command. -/
def commandOf (type : Nat) (m : Msg) : Except Reject Instr :=
  match type with
  | 0x01 => .ok (.ctxCreate m)
  | 0x02 => .ok (.ctxDestroy m)
  | 0x03 => .ok (.ctxPolicy m)
  | 0x04 => .ok (.memMap m)
  | 0x05 => .ok (.memUnmap m)
  | 0x06 => .ok (.launch m)
  | 0x07 => .ok (.ctxHalt m)
  | 0x08 => .ok (.ctxResume m)
  | 0x09 => .ok (.mapAck m)
  | 0x0A => .ok (.ckpt m)
  | 0x0B => .ok (.restore m)
  | 0x0C => .ok (.ckWindow m)
  | 0x0D => .ok (.attest m)
  | 0x0E => .ok (.mapSnap m)
  | 0x0F => .ok (.powerLimit m)
  | 0x10 => .ok (.relaySet m)
  | 0x11 => .ok (.peerClear m)
  | 0x12 => .ok (.mapRebuild m)
  | 0x13 => .ok (.geomIn m)
  | 0x14 => .ok (.fwWrite m)
  | 0x15 => .ok (.fwCommit m)
  | _ => .error (.unknownCommand type)

/-- The fields of a message's 16-byte header, and its body. -/
def msgOf (bs : List Byte) : Msg :=
  { ctx := numAt bs 1 1, len := numAt bs 2 2, seq := numAt bs 4 4, tag := numAt bs 8 8, body := bs.drop 16 }

def decodeMsg (bs : List Byte) : Except Reject Instr :=
  if bs.length < 16 then .error .truncated else commandOf (numAt bs 0 1) (msgOf bs)

/-! ## The encoder -/

/-- The words of an instruction of one word. -/
def wordsOne (op : Nat) (f : F1) : List Word := [BitVec.ofNat 8 op ++ f.d ++ f.a ++ f.b]

/-- Word 0 and word 1 of a longer instruction. -/
def wordsTwo (op sub : Nat) (f : F2) : List Word :=
  [BitVec.ofNat 8 op ++ f.d ++ f.a ++ f.b,
   BitVec.ofNat 4 sub ++ f.pidx ++ BitVec.ofBool f.pneg ++ f.la ++ f.ty ++ f.mod ++ f.c]

def wordsThree (op sub : Nat) (f : F3) : List Word := wordsTwo op sub f.w ++ [f.imm]

/-- The words of an instruction of Glezu, none for a command or an event. -/
def encodeWords : Instr → List Word
  | .iaddI32 f => wordsOne 0x00 f
  | .isubI32 f => wordsOne 0x01 f
  | .imulI32 f => wordsOne 0x02 f
  | .iminI32 f => wordsOne 0x03 f
  | .imaxI32 f => wordsOne 0x04 f
  | .andB32 f => wordsOne 0x05 f
  | .orB32 f => wordsOne 0x06 f
  | .xorB32 f => wordsOne 0x07 f
  | .andnB32 f => wordsOne 0x08 f
  | .shlB32 f => wordsOne 0x09 f
  | .shrB32 f => wordsOne 0x0A f
  | .sraB32 f => wordsOne 0x0B f
  | .movB32 f => wordsOne 0x0C f
  | .notB32 f => wordsOne 0x0D f
  | .popcB32 f => wordsOne 0x0E f
  | .movi f => wordsOne 0x0F f
  | .iadd f => wordsTwo 0x10 0 f
  | .isub f => wordsTwo 0x11 0 f
  | .imul f => wordsTwo 0x12 0 f
  | .imulh f => wordsTwo 0x12 1 f
  | .imad f => wordsTwo 0x13 0 f
  | .idiv f => wordsTwo 0x14 0 f
  | .irem f => wordsTwo 0x14 1 f
  | .imin f => wordsTwo 0x15 0 f
  | .imax f => wordsTwo 0x15 1 f
  | .iabs f => wordsTwo 0x16 0 f
  | .ineg f => wordsTwo 0x16 1 f
  | .and f => wordsTwo 0x17 0 f
  | .or f => wordsTwo 0x17 1 f
  | .xor f => wordsTwo 0x17 2 f
  | .andn f => wordsTwo 0x17 3 f
  | .not f => wordsTwo 0x17 4 f
  | .shl f => wordsTwo 0x18 0 f
  | .shr f => wordsTwo 0x18 1 f
  | .sra f => wordsTwo 0x18 2 f
  | .rol f => wordsTwo 0x18 3 f
  | .bfx f => wordsTwo 0x19 0 f
  | .bfi f => wordsTwo 0x19 1 f
  | .popc f => wordsTwo 0x19 2 f
  | .clz f => wordsTwo 0x19 3 f
  | .ctz f => wordsTwo 0x19 4 f
  | .brev f => wordsTwo 0x19 5 f
  | .icmp f => wordsTwo 0x1A 0 f
  | .mov f => wordsTwo 0x1B 0 f
  | .sel f => wordsTwo 0x1B 1 f
  | .lea f => wordsTwo 0x1C 0 f
  | .xset f => wordsTwo 0x1D 0 f
  | .xadd f => wordsTwo 0x1D 1 f
  | .moviImm32 f => wordsThree 0x1E 0 f
  | .iaddImm32 f => wordsThree 0x1F 0 f
  | .pand f => wordsTwo 0x20 0 f
  | .por f => wordsTwo 0x21 0 f
  | .pxor f => wordsTwo 0x22 0 f
  | .pnot f => wordsTwo 0x23 0 f
  | .vote f => wordsTwo 0x24 0 f
  | .ballot f => wordsTwo 0x25 0 f
  | .shfl f => wordsTwo 0x26 0 f
  | .redux f => wordsTwo 0x27 0 f
  | .bra f => wordsThree 0x30 0 f
  | .brx f => wordsTwo 0x31 0 f
  | .call f => wordsThree 0x32 0 f
  | .callx f => wordsTwo 0x33 0 f
  | .ret f => wordsTwo 0x34 0 f
  | .exit f => wordsTwo 0x35 0 f
  | .rgive f => wordsTwo 0x36 0 f
  | .rclaim f => wordsTwo 0x37 0 f
  | .repack f => wordsTwo 0x38 0 f
  | .krnLaunch f => wordsTwo 0x39 0 f
  | .fadd f => wordsTwo 0x40 0 f
  | .fsub f => wordsTwo 0x41 0 f
  | .fmul f => wordsTwo 0x42 0 f
  | .fma f => wordsTwo 0x43 0 f
  | .fmin f => wordsTwo 0x44 0 f
  | .fmax f => wordsTwo 0x44 1 f
  | .fcmp f => wordsTwo 0x45 0 f
  | .fclass f => wordsTwo 0x46 0 f
  | .frnd f => wordsTwo 0x47 0 f
  | .fdiv f => wordsTwo 0x48 0 f
  | .fsqrt f => wordsTwo 0x49 0 f
  | .frcp f => wordsTwo 0x4A 0 f
  | .frsq f => wordsTwo 0x4A 1 f
  | .fexp2 f => wordsTwo 0x4B 0 f
  | .flog2 f => wordsTwo 0x4B 1 f
  | .fsin f => wordsTwo 0x4C 0 f
  | .fcos f => wordsTwo 0x4C 1 f
  | .fscale f => wordsTwo 0x4D 0 f
  | .fexpo f => wordsTwo 0x4E 0 f
  | .faddF64 f => wordsTwo 0x50 0 f
  | .fsubF64 f => wordsTwo 0x51 0 f
  | .fmulF64 f => wordsTwo 0x52 0 f
  | .fmaF64 f => wordsTwo 0x53 0 f
  | .fminF64 f => wordsTwo 0x54 0 f
  | .fmaxF64 f => wordsTwo 0x54 1 f
  | .fcmpF64 f => wordsTwo 0x55 0 f
  | .fclassF64 f => wordsTwo 0x56 0 f
  | .frndF64 f => wordsTwo 0x57 0 f
  | .fdivF64 f => wordsTwo 0x58 0 f
  | .fsqrtF64 f => wordsTwo 0x59 0 f
  | .frcpF64 f => wordsTwo 0x5A 0 f
  | .frsqF64 f => wordsTwo 0x5A 1 f
  | .fscaleF64 f => wordsTwo 0x5D 0 f
  | .fexpoF64 f => wordsTwo 0x5E 0 f
  | .cvt f => wordsTwo 0x60 0 f
  | .qnt f => wordsTwo 0x61 0 f
  | .dqnt f => wordsTwo 0x62 0 f
  | .bmax f => wordsTwo 0x63 0 f
  | .pack f => wordsTwo 0x64 0 f
  | .unpack f => wordsTwo 0x65 0 f
  | .mma f => wordsTwo 0x70 0 f
  | .mmas f => wordsTwo 0x71 0 f
  | .mzero f => wordsTwo 0x72 0 f
  | .mdrain f => wordsTwo 0x73 0 f
  | .mdrainSp f => wordsTwo 0x74 0 f
  | .mmeta f => wordsTwo 0x75 0 f
  | .mstat f => wordsTwo 0x76 0 f
  | .ldG f => wordsThree 0x80 0 f
  | .stG f => wordsThree 0x81 0 f
  | .ldSp f => wordsThree 0x82 0 f
  | .stSp f => wordsThree 0x83 0 f
  | .ldRo f => wordsThree 0x84 0 f
  | .ldAcq f => wordsThree 0x85 0 f
  | .stRel f => wordsThree 0x86 0 f
  | .ldv f => wordsThree 0x87 0 f
  | .stv f => wordsThree 0x88 0 f
  | .pref f => wordsThree 0x89 0 f
  | .invL1 f => wordsTwo 0x8A 0 f
  | .wbL1 f => wordsTwo 0x8B 0 f
  | .atomAdd f => wordsThree 0x90 0 f
  | .atomMin f => wordsThree 0x90 1 f
  | .atomMax f => wordsThree 0x90 2 f
  | .atomAnd f => wordsThree 0x90 3 f
  | .atomOr f => wordsThree 0x90 4 f
  | .atomXor f => wordsThree 0x90 5 f
  | .atomXch f => wordsThree 0x90 6 f
  | .atomCas f => wordsThree 0x90 7 f
  | .fatomAdd f => wordsThree 0x91 0 f
  | .redAdd f => wordsThree 0x92 0 f
  | .redMin f => wordsThree 0x92 1 f
  | .redMax f => wordsThree 0x92 2 f
  | .redAnd f => wordsThree 0x92 3 f
  | .redOr f => wordsThree 0x92 4 f
  | .redXor f => wordsThree 0x92 5 f
  | .hgat f => wordsThree 0x93 0 f
  | .cpy f => wordsThree 0xA0 0 f
  | .cpyMx f => wordsThree 0xA1 0 f
  | .cpyCk f => wordsThree 0xA2 0 f
  | .wait f => wordsTwo 0xA3 0 f
  | .semInc f => wordsTwo 0xA4 0 f
  | .semWait f => wordsTwo 0xA4 1 f
  | .semSet f => wordsTwo 0xA4 2 f
  | .barArrive f => wordsTwo 0xA5 0 f
  | .barWait f => wordsTwo 0xA5 1 f
  | .barSync f => wordsTwo 0xA5 2 f
  | .fenceAcq f => wordsTwo 0xA6 0 f
  | .fenceRel f => wordsTwo 0xA6 1 f
  | .fenceAr f => wordsTwo 0xA6 2 f
  | .sramMode f => wordsTwo 0xA7 0 f
  | .tskSpawn f => wordsTwo 0xB0 0 f
  | .tskSpawnp f => wordsTwo 0xB1 0 f
  | .tskJoin f => wordsTwo 0xB2 0 f
  | .tskPark f => wordsTwo 0xB3 0 f
  | .tskExit f => wordsTwo 0xB4 0 f
  | .reuInv f => wordsTwo 0xB5 0 f
  | .reuStat f => wordsTwo 0xB6 0 f
  | .rayCast f => wordsTwo 0xC0 0 f
  | .rayBeam f => wordsTwo 0xC1 0 f
  | .rayAccept f => wordsTwo 0xC2 0 f
  | .rayIgnore f => wordsTwo 0xC2 1 f
  | .rayTerm f => wordsTwo 0xC2 2 f
  | .rayRd f => wordsTwo 0xC3 0 f
  | .rgnOpen f => wordsTwo 0xD0 0 f
  | .rgnCommit f => wordsTwo 0xD1 0 f
  | .rgnAbort f => wordsThree 0xD2 0 f
  | .rgnStat f => wordsTwo 0xD3 0 f
  | .colStart f => wordsTwo 0xD8 0 f
  | .colReform f => wordsTwo 0xD9 0 f
  | .colStat f => wordsTwo 0xDA 0 f
  | .mapRd f => wordsTwo 0xE0 0 f
  | .mapAckInstr f => wordsTwo 0xE1 0 f
  | .srGet f => wordsTwo 0xE2 0 f
  | .srSet f => wordsTwo 0xE3 0 f
  | .trap f => wordsTwo 0xE4 0 f
  | .tret f => wordsTwo 0xE5 0 f
  | .brk f => wordsOne 0xE6 f
  | .nop f => wordsOne 0xE7 f
  | .halt f => wordsTwo 0xE8 0 f
  | .profRd f => wordsTwo 0xE9 0 f
  | .moduleReset _
  | .mainInputOutOfRange
  | .clockLower _
  | .clockRaise _
  | .telemetry _ _
  | .timestampSyncSend
  | .timestampSync _
  | .portDown _
  | .portUp _
  | .flitCrcFail _ _
  | .remoteResponse _ _
  | .remoteTimeout _
  | .peerRequest _
  | .unsupportedRequest _ _
  | .unknownVendorMessage _ _
  | .relayForward _
  | .utenaurnFrame _
  | .utenaurnLaneDown _ _
  | .stackLost _
  | .dieLost _
  | .ctxCreate _
  | .ctxDestroy _
  | .ctxPolicy _
  | .memMap _
  | .memUnmap _
  | .launch _
  | .ctxHalt _
  | .ctxResume _
  | .mapAck _
  | .ckpt _
  | .ckptQuiesceTimeout
  | .ckptWriteDone
  | .restore _
  | .ckWindow _
  | .attest _
  | .mapSnap _
  | .powerLimit _
  | .relaySet _
  | .peerClear _
  | .mapRebuild _
  | .geomIn _
  | .fwWrite _
  | .fwCommit _
  | .mapAckDeadline _
  | .mapStaleForcedRollback _
  | .farrierLaneSwap _ _ _
  | .farrierCoreRetire _
  | .farrierUnitRetire _
  | .errorWindowExpiry _
  | .rowScoreHalve
  | .groomClearPage _
  | .dispatcherStep
  | .preemption _
  | .shadowBankSwap _
  | .spillComplete _
  | .saveSpaceExhausted _
  | .restorePlacement _
  | .waveForced _
  | .entryForced _ _ _
  | .taskWaveIssue _ _
  | .taskGangQueue _
  | .taskGangRelease _
  | .taskRefill _
  | .reuseLookup _
  | .reuseHitCopyDone _
  | .sceneRelease _ _
  | .passStart _
  | .treeletLoaded _
  | .segmentCommit _ _
  | .passStreamStop _
  | .passClose _
  | .geomPageRequest _ _ _
  | .parkTimeout _ _ _
  | .enginePageTimeout _
  | .loadDataLands _ _
  | .storePerformed _
  | .atomicAtHome _
  | .queueDeliveryPush _
  | .copyComplete _
  | .cpyMxFollowOn _
  | .matrixCmdStart _ _
  | .matrixCmdComplete _ _
  | .barrierRelease _ _
  | .semWaitPass _ _ _
  | .rclaimGrant _ _ _ _
  | .repackMove _
  | .regionOpenRelease _
  | .commitPoint _
  | .commitDrainDone _
  | .rollback _
  | .remountReplayStart _
  | .gangKill _
  | .gangRelaunch _
  | .launchComplete _
  | .trapEntry _
  | .siblingStop _
  | .poisonContainment _
  | .freezeTimeout _ _
  | .monitorSample
  | .colMsgStart _
  | .colMsgData _
  | .colMsgResult _
  | .colMsgAck _
  | .colMsgAbort _
  | .colMsgReform _
  | .colAckTimeout _
  | .colStartTimeout _
  | .abortRecordExpiry _ _ _
  | .collectiveComplete _
  | .debugAttach _
  | .debugDetach _
  | .debugFreeze _
  | .debugThaw _
  | .debugResume _
  | .debugStep _
  | .debugHaltGroup _
  | .monitorConfigure _ _
  | .monitorClear _ _
  | .regionSnapshotDone _
  | .commitTokenReturn _ _
  | .sramModeChangeDone _
  | .rayAppendComplete _
  | .anyHitCandidate _ _ _ => []

/-- The bytes of a message. -/
def bytesOfMsg (type : Nat) (m : Msg) : List Byte :=
  toBytes 1 type ++ toBytes 1 m.ctx ++ toBytes 2 m.len ++ toBytes 4 m.seq ++ toBytes 8 m.tag ++ m.body

/-- The message of a host command, none for another instruction. -/
def encodeMsg : Instr → List Byte
  | .ctxCreate m => bytesOfMsg 0x01 m
  | .ctxDestroy m => bytesOfMsg 0x02 m
  | .ctxPolicy m => bytesOfMsg 0x03 m
  | .memMap m => bytesOfMsg 0x04 m
  | .memUnmap m => bytesOfMsg 0x05 m
  | .launch m => bytesOfMsg 0x06 m
  | .ctxHalt m => bytesOfMsg 0x07 m
  | .ctxResume m => bytesOfMsg 0x08 m
  | .mapAck m => bytesOfMsg 0x09 m
  | .ckpt m => bytesOfMsg 0x0A m
  | .restore m => bytesOfMsg 0x0B m
  | .ckWindow m => bytesOfMsg 0x0C m
  | .attest m => bytesOfMsg 0x0D m
  | .mapSnap m => bytesOfMsg 0x0E m
  | .powerLimit m => bytesOfMsg 0x0F m
  | .relaySet m => bytesOfMsg 0x10 m
  | .peerClear m => bytesOfMsg 0x11 m
  | .mapRebuild m => bytesOfMsg 0x12 m
  | .geomIn m => bytesOfMsg 0x13 m
  | .fwWrite m => bytesOfMsg 0x14 m
  | .fwCommit m => bytesOfMsg 0x15 m
  | .moduleReset _
  | .mainInputOutOfRange
  | .clockLower _
  | .clockRaise _
  | .telemetry _ _
  | .timestampSyncSend
  | .timestampSync _
  | .portDown _
  | .portUp _
  | .flitCrcFail _ _
  | .remoteResponse _ _
  | .remoteTimeout _
  | .peerRequest _
  | .unsupportedRequest _ _
  | .unknownVendorMessage _ _
  | .relayForward _
  | .utenaurnFrame _
  | .utenaurnLaneDown _ _
  | .stackLost _
  | .dieLost _
  | .ckptQuiesceTimeout
  | .ckptWriteDone
  | .mapAckDeadline _
  | .mapStaleForcedRollback _
  | .farrierLaneSwap _ _ _
  | .farrierCoreRetire _
  | .farrierUnitRetire _
  | .errorWindowExpiry _
  | .rowScoreHalve
  | .groomClearPage _
  | .dispatcherStep
  | .preemption _
  | .shadowBankSwap _
  | .spillComplete _
  | .saveSpaceExhausted _
  | .restorePlacement _
  | .waveForced _
  | .entryForced _ _ _
  | .taskWaveIssue _ _
  | .taskGangQueue _
  | .taskGangRelease _
  | .taskRefill _
  | .reuseLookup _
  | .reuseHitCopyDone _
  | .sceneRelease _ _
  | .passStart _
  | .treeletLoaded _
  | .segmentCommit _ _
  | .passStreamStop _
  | .passClose _
  | .geomPageRequest _ _ _
  | .parkTimeout _ _ _
  | .enginePageTimeout _
  | .loadDataLands _ _
  | .storePerformed _
  | .atomicAtHome _
  | .queueDeliveryPush _
  | .copyComplete _
  | .cpyMxFollowOn _
  | .matrixCmdStart _ _
  | .matrixCmdComplete _ _
  | .barrierRelease _ _
  | .semWaitPass _ _ _
  | .rclaimGrant _ _ _ _
  | .repackMove _
  | .regionOpenRelease _
  | .commitPoint _
  | .commitDrainDone _
  | .rollback _
  | .remountReplayStart _
  | .gangKill _
  | .gangRelaunch _
  | .launchComplete _
  | .trapEntry _
  | .siblingStop _
  | .poisonContainment _
  | .freezeTimeout _ _
  | .monitorSample
  | .colMsgStart _
  | .colMsgData _
  | .colMsgResult _
  | .colMsgAck _
  | .colMsgAbort _
  | .colMsgReform _
  | .colAckTimeout _
  | .colStartTimeout _
  | .abortRecordExpiry _ _ _
  | .collectiveComplete _
  | .debugAttach _
  | .debugDetach _
  | .debugFreeze _
  | .debugThaw _
  | .debugResume _
  | .debugStep _
  | .debugHaltGroup _
  | .monitorConfigure _ _
  | .monitorClear _ _
  | .iaddI32 _
  | .isubI32 _
  | .imulI32 _
  | .iminI32 _
  | .imaxI32 _
  | .andB32 _
  | .orB32 _
  | .xorB32 _
  | .andnB32 _
  | .shlB32 _
  | .shrB32 _
  | .sraB32 _
  | .movB32 _
  | .notB32 _
  | .popcB32 _
  | .movi _
  | .iadd _
  | .isub _
  | .imul _
  | .imulh _
  | .imad _
  | .idiv _
  | .irem _
  | .imin _
  | .imax _
  | .iabs _
  | .ineg _
  | .and _
  | .or _
  | .xor _
  | .andn _
  | .not _
  | .shl _
  | .shr _
  | .sra _
  | .rol _
  | .bfx _
  | .bfi _
  | .popc _
  | .clz _
  | .ctz _
  | .brev _
  | .icmp _
  | .mov _
  | .sel _
  | .lea _
  | .xset _
  | .xadd _
  | .moviImm32 _
  | .iaddImm32 _
  | .pand _
  | .por _
  | .pxor _
  | .pnot _
  | .vote _
  | .ballot _
  | .shfl _
  | .redux _
  | .bra _
  | .brx _
  | .call _
  | .callx _
  | .ret _
  | .exit _
  | .rgive _
  | .rclaim _
  | .repack _
  | .krnLaunch _
  | .fadd _
  | .fsub _
  | .fmul _
  | .fma _
  | .fmin _
  | .fmax _
  | .fcmp _
  | .fclass _
  | .frnd _
  | .fdiv _
  | .fsqrt _
  | .frcp _
  | .frsq _
  | .fexp2 _
  | .flog2 _
  | .fsin _
  | .fcos _
  | .fscale _
  | .fexpo _
  | .faddF64 _
  | .fsubF64 _
  | .fmulF64 _
  | .fmaF64 _
  | .fminF64 _
  | .fmaxF64 _
  | .fcmpF64 _
  | .fclassF64 _
  | .frndF64 _
  | .fdivF64 _
  | .fsqrtF64 _
  | .frcpF64 _
  | .frsqF64 _
  | .fscaleF64 _
  | .fexpoF64 _
  | .cvt _
  | .qnt _
  | .dqnt _
  | .bmax _
  | .pack _
  | .unpack _
  | .mma _
  | .mmas _
  | .mzero _
  | .mdrain _
  | .mdrainSp _
  | .mmeta _
  | .mstat _
  | .ldG _
  | .stG _
  | .ldSp _
  | .stSp _
  | .ldRo _
  | .ldAcq _
  | .stRel _
  | .ldv _
  | .stv _
  | .pref _
  | .invL1 _
  | .wbL1 _
  | .atomAdd _
  | .atomMin _
  | .atomMax _
  | .atomAnd _
  | .atomOr _
  | .atomXor _
  | .atomXch _
  | .atomCas _
  | .fatomAdd _
  | .redAdd _
  | .redMin _
  | .redMax _
  | .redAnd _
  | .redOr _
  | .redXor _
  | .hgat _
  | .cpy _
  | .cpyMx _
  | .cpyCk _
  | .wait _
  | .semInc _
  | .semWait _
  | .semSet _
  | .barArrive _
  | .barWait _
  | .barSync _
  | .fenceAcq _
  | .fenceRel _
  | .fenceAr _
  | .sramMode _
  | .tskSpawn _
  | .tskSpawnp _
  | .tskJoin _
  | .tskPark _
  | .tskExit _
  | .reuInv _
  | .reuStat _
  | .rayCast _
  | .rayBeam _
  | .rayAccept _
  | .rayIgnore _
  | .rayTerm _
  | .rayRd _
  | .rgnOpen _
  | .rgnCommit _
  | .rgnAbort _
  | .rgnStat _
  | .colStart _
  | .colReform _
  | .colStat _
  | .mapRd _
  | .mapAckInstr _
  | .srGet _
  | .srSet _
  | .trap _
  | .tret _
  | .brk _
  | .nop _
  | .halt _
  | .profRd _
  | .regionSnapshotDone _
  | .commitTokenReturn _ _
  | .sramModeChangeDone _
  | .rayAppendComplete _
  | .anyHitCandidate _ _ _ => []

/-- The encoding of an instruction as bytes in memory. -/
def encode (i : Instr) : List Byte := ((encodeWords i).map (fun w => toBytes 4 w.toNat)).flatten

/-- What the decoder reads from an instruction numbered as the opcode table numbers it: the words little-endian, in order,
zeros above nbits. -/
def decodeTableWord (nbits w : Nat) : Option Instr :=
  match decodeBytes (toBytes 12 (w % 2 ^ nbits)) with
  | .ok (i, _) => some i
  | .error _ => none

end Sys2Proof
end

