-- ==== Sys2Proof/Config.lean ====
section
/-! DEFINITION. The open values: what the spec leaves to the part, as constants without a body. Nothing in Lean can
evaluate them, so what is proved holds whatever they are. -/

namespace Sys2Proof.Config

/-- Values of words the spec does not fix (log 6), drawn by the counter `State.free`. -/
opaque freeWord : Nat → Word

/-- Whether an Ed25519 signature (64 bytes) over an image holds under a fused public key (R87). The scheme is RFC
8032's and the keys are the part's (log 12). -/
opaque signatureHolds : (image signature : List Byte) → Bool

/-- The part's Ed25519 signature over a report, byte by byte (R88; log 12). -/
opaque signatureByte : (report : List Byte) → (i : Nat) → Byte

/-- The bytes of the fused device ID, public keys and other facts the part was made with (R88; log 12). -/
opaque fusedByte : (fact i : Nat) → Byte

end Sys2Proof.Config
end

