-- ==== Sys2Proof/Machine/Crypto.lean ====
section
/-! DEFINITION. The digests of R66, R85, R88, R89 and R135 (SHA-512 and SHA-512/256, FIPS 180-4) and the CRC-32C of R30 and
R31. -/

namespace Sys2Proof.Machine

/-! ## Constants, from their definition (FIPS 180-4): bits of the roots of the first primes -/

/-- The largest r below 2^n, from r0 upwards, whose k-th power stays at or below x: its bits, from the highest down. -/
def rootBits (k x : Nat) : Nat → Nat → Nat
  | 0, r => r
  | n + 1, r => rootBits k x n (if (r + 2 ^ n) ^ k ≤ x then r + 2 ^ n else r)

/-- The first 64 fraction bits of the k-th root of p. -/
def rootFraction (k p : Nat) : Dword := BitVec.ofNat 64 (rootBits k (p * 2 ^ (64 * k)) 69 0)

/-- The first eighty primes: all below 410, whose least divisor, were one composite, would be below 21. -/
def shaPrimes : List Nat := (List.range 410).filter (fun p => 2 ≤ p && (List.range 21).all (fun d => d < 2 || p ≤ d || p % d != 0))

/-- The round constants are those of cube roots, the initial values those of square roots. -/
def shaK : List Dword := shaPrimes.map (rootFraction 3)
def shaInit : List Dword := (shaPrimes.take 8).map (rootFraction 2)

/-! ## Rounds -/

def shaSmall0 (x : Dword) : Dword := x.rotateRight 1 ^^^ x.rotateRight 8 ^^^ x >>> 7
def shaSmall1 (x : Dword) : Dword := x.rotateRight 19 ^^^ x.rotateRight 61 ^^^ x >>> 6
def shaBig0 (x : Dword) : Dword := x.rotateRight 28 ^^^ x.rotateRight 34 ^^^ x.rotateRight 39
def shaBig1 (x : Dword) : Dword := x.rotateRight 14 ^^^ x.rotateRight 18 ^^^ x.rotateRight 41

/-- The rounds of a block: the constants left, the next sixteen schedule words, and the working variables. -/
def shaRounds : List Dword → List Dword → Dword → Dword → Dword → Dword → Dword → Dword → Dword → Dword → List Dword
  | [], _, a, b, c, d, e, f, g, h => [a, b, c, d, e, f, g, h]
  | k :: ks, win, a, b, c, d, e, f, g, h =>
    let w := win.getD 0 0
    let t1 := h + shaBig1 e + ((e &&& f) ^^^ (~~~e &&& g)) + k + w
    let t2 := shaBig0 a + ((a &&& b) ^^^ (a &&& c) ^^^ (b &&& c))
    let next := w + shaSmall0 (win.getD 1 0) + win.getD 9 0 + shaSmall1 (win.getD 14 0)
    shaRounds ks (win.tail ++ [next]) (t1 + t2) a b c (d + t1) e f g

/-- Big-endian words of eight bytes. -/
def shaWords (bs : List Byte) : Nat → List Dword
  | 0 => []
  | n + 1 => BitVec.ofNat 64 (ofBytesBE (bs.take 8)) :: shaWords (bs.drop 8) n

def shaBlock (h : List Dword) (block : List Byte) : List Dword :=
  let r := shaRounds shaK (shaWords block 16) (h.getD 0 0) (h.getD 1 0) (h.getD 2 0) (h.getD 3 0) (h.getD 4 0)
    (h.getD 5 0) (h.getD 6 0) (h.getD 7 0)
  (h.zip r).map (fun x => x.1 + x.2)

/-- The padded message, block by block. -/
def shaBlocks : Nat → List Byte → List Dword → List Dword
  | 0, _, h => h
  | n + 1, bs, h => shaBlocks n (bs.drop 128) (shaBlock h (bs.take 128))

def shaPad (m : List Byte) : List Byte :=
  m ++ [0x80] ++ List.replicate ((239 - m.length % 128) % 128) 0 ++ toBytesBE 16 (8 * m.length)

def shaWith (init : List Dword) (m : List Byte) : List Byte :=
  let bs := shaPad m
  ((shaBlocks (bs.length / 128) bs init).map (fun (w : Dword) => toBytesBE 8 w.toNat)).flatten

def sha512 (m : List Byte) : List Byte := shaWith shaInit m

/-- SHA-512/256 starts from the digest, under altered initial values, of the eleven characters of its own name. -/
def shaInit256 : List Dword :=
  shaWords (shaWith (shaInit.map (· ^^^ 0xA5A5A5A5A5A5A5A5)) ("SHA-512/256".toList.map (fun c => BitVec.ofNat 8 c.toNat))) 8
def sha512t256 (m : List Byte) : List Byte := (shaWith shaInit256 m).take 32

/-- CRC-32C, bit by bit. -/
def crcByte (c : Word) : Nat → Word
  | 0 => c
  | n + 1 => crcByte (if c.getLsbD 0 then (c >>> 1) ^^^ 0x82F63B78#32 else c >>> 1) n
def crc32c (bs : List Byte) : Word :=
  ~~~ (bs.foldl (fun c b => crcByte (c ^^^ BitVec.ofNat 32 b.toNat) 8) 0xFFFFFFFF#32)

end Sys2Proof.Machine
end

