-- ==== Sys2Proof/Machine/State.lean ====
section
/-! DEFINITION. The state of one SX9 package as plain data: the device's own units (resource map, clocks, ports, pools,
checkpoint tier, contexts, launches, gangs, waves, cores, the engines and what is in flight), and what the outside has
sent it. `State.reset` is the machine after a module reset. Numbers that software never sees as bits are `Nat`. -/

namespace Sys2Proof.Machine

/-- Why a step can stop. -/
inductive Fault where
  /-- Raised by `exec` alone, for an instruction of Glezu when no wave of the state is issuing (`State.issue` names
  none): nobody executes it. `step` never reaches it. Safe. -/
  | noIssuer
  deriving DecidableEq, Repr

/-- What the model gives no meaning to. -/
inductive Refusal where
  /-- Raised by `exec` for a row of the opcode table that has no meaning yet. Safe. -/
  | notModelled (mnemonic : String)
  deriving DecidableEq, Repr

/-! ## Registers -/

/-- A 32-bit lane word with its poison mark (R225); `par`: its parity is wrong, which a write of the word puts right. -/
structure PWord where
  val : Word := 0
  mark : Bool := false
  par : Bool := false
  deriving DecidableEq, Repr, Inhabited

/-- A pair or scalar: two marked words, low first (R209, R210). -/
structure PPair where
  lo : PWord := {}
  hi : PWord := {}
  deriving DecidableEq, Repr, Inhabited

/-- The outstanding counters of a wave (R214). -/
inductive Ctr where
  | ld | st | cp | mx | ry | co
  deriving DecidableEq, Repr

/-- Values of the six outstanding counters (R209: 6 bits each). -/
structure Counters where
  ld : Nat := 0
  st : Nat := 0
  cp : Nat := 0
  mx : Nat := 0
  ry : Nat := 0
  co : Nat := 0
  deriving DecidableEq, Repr, Inhabited

/-- The pure block of a pure task (R122) as a lane's thread runs under it: the tiles it may read and write, and
whether it has faulted (R144) or read a retained launch record
(R143). Tiles are (address, length in bytes). -/
structure PureTask where
  args : List (Nat × Nat)
  res : Nat × Nat
  faulted : Bool := false
  drop : Bool := false
  deriving DecidableEq, Repr

/-- A continuation record (R120): its header, sixteen register words with their poison bits, the scene table a record of LAUNCH
0xFFFF runs under (R170), which its 128 bytes have no place for, and the tail's eight
words (R122, R123, R170). -/
structure Rec where
  pc : Nat
  join : Nat
  tenant : Nat
  ctx : Nat
  kind : Nat
  nreg : Nat
  dbase : Nat
  depth : Nat
  launch : Nat
  poison : BitVec 16
  gang : Nat
  regs : List Word
  tail : List Word
  scene : Nat := 0
  deriving DecidableEq, Repr

/-- What a lane position holds (R199, R209): its thread's registers, and the lane's part of the wave's operand file,
last-result latch and queue registers. `rec_` is the record of the task the thread is (R128), `pure_` its purity (R144),
`spoke` whether its candidate has had a verdict (R471); `tail` is the tail of the ray record that started a thread at this
position (R472). -/
structure Lane where
  v : List PWord := []
  x : List Word := [0, 0, 0, 0, 0, 0, 0, 0]
  p : Byte := 1
  o : List PWord := []
  lt : PPair := {}
  q : List (List PWord) := [[], [], [], [], [], [], [], []]
  rec_ : Option Rec := none
  pure_ : Option PureTask := none
  spoke : Bool := false
  tail : List Word := []
  deriving DecidableEq, Repr, Inhabited

/-! ## The frontier -/

/-- Where an entry stands inside a clause (R335, R337): the header's address, the clause's class, how many
instructions are left to issue counting the one at the entry's PC, and the class of the one issued before it. -/
structure Clause where
  hdr : Nat
  cls : Nat
  left : Nat
  prev : Option Nat := none
  deriving DecidableEq, Repr

/-- Why a frontier entry is blocked (R191). -/
inductive Block where
  | none
  | barrier (b : BarId)
  | sem (k : Nat) (v : Nat)
  | repack (keys : List (Nat × Nat))
  | rclaim (n : Nat)
  /-- Since when, and each lane with the address whose page it waits for (R265). -/
  | park (since : Nat) (vas : List (Nat × Nat))
  | regionOpen
  | regionCommit
  deriving DecidableEq, Repr

/-- A frontier entry (R190): its key (PC, depth), priority and lanes; `clause` is none while it stands at a header it
has not entered; `passed` counts the consecutive issues that passed it over (R192), `firstPark` keeps when a lane
merged out of a park first parked (R194). -/
structure Entry where
  pc : Nat
  depth : Nat
  prio : Nat
  mask : Mask
  clause : Option Clause := none
  passed : Nat := 0
  block : Block := .none
  forced : Bool := false
  firstPark : List (Nat × Nat) := []
  deriving DecidableEq, Repr

/-- The trap registers of a wave (R317, 0x40 to 0x5F). `tlm` holds sr.tlm1 to sr.tlm16. -/
structure TrapRegs where
  tvec : Dword := 0
  tcause : Word := 0
  tpc : Dword := 0
  tnpc : Dword := 0
  tentry : Dword := 0
  taddr : Dword := 0
  tinst : Dword := 0
  ttime : Dword := 0
  tsave : Dword := 0
  twp0 : Dword := 0
  twp1 : Dword := 0
  tlm : List Word := [0, 0, 0, 0, 0, 0, 0, 0, 0, 0, 0, 0, 0, 0, 0, 0]
  deriving DecidableEq, Repr, Inhabited

/-- What holds a wave as a whole from issuing (R313 to R325). -/
inductive Hold where
  /-- Nothing holds it. -/
  | none
  /-- A halt broadcast reached it, a handler's or (`debug`) a debugger's; it may still issue that many skid instructions
  (R314, R324). -/
  | skid (left : Nat) (debug : Bool)
  /-- It stopped for a sibling, or holds a cause of its own (R314, R315). -/
  | stopped
  /-- Poison was consumed: it issues nothing until containment (R313). -/
  | contained
  /-- A debugger holds it (R325); with `step` it runs one instruction and halts again (R324). -/
  | debug (step : Bool)
  /-- It issued halt and stops (R493). -/
  | halted
  deriving DecidableEq, Repr

/-- A lookahead window (R341): the operation that opened it, its LA, and the instructions issued since. -/
structure Window where
  op : Nat
  la : Nat
  issued : Nat
  deriving DecidableEq, Repr

/-- The reuse latch (R222): the A selector and lanes it is tagged with, each lane's register, and the values. -/
structure Latch where
  sel : Byte
  words : Nat
  mask : Mask
  regs : List Nat
  vals : List PPair
  deriving DecidableEq, Repr

/-- The A buffer of an engine (R417) that a wave filled: the first register, range length, slot, shape and pattern it is
tagged with. Its contents are those of the registers, or it is invalid; `bad` are the lanes' registers whose parity was wrong
at the fill. -/
structure ABuf where
  engine : Nat
  reg : Nat
  len : Nat
  slot : Nat
  shape : Nat
  pattern : Nat
  bad : List (Nat × Nat) := []
  deriving DecidableEq, Repr

/-- The record of the wave's last completed collective (R485). -/
structure ColRecord where
  status : Word := 0
  lost : Nat := 0
  first : Word := 0xFFFFFFFF
  rank : Word := 0xFFFFFFFF
  seq : Word := 0
  deriving DecidableEq, Repr, Inhabited

/-- A wave (R181). `gang` is the id of its gang (none for a task wave that runs for the context); `index`, `role` are
its place in the group; `core` and `partition` where it is resident, `seat` its wave slot there (R324, log 31). A wave of ray records keeps its kernel's header map
in `headers`; every other wave's is its launch's. `spare` are the registers a task wave gave back (log 23); `forced` since when
the wave counts as forced (R108); `consumed`: what its containment takes is a parity error (R307, source 0x02). -/
structure Wave where
  id : Nat
  ctx : Nat
  launch : Nat
  gang : Option Nat
  group : Nat
  index : Nat
  role : Nat
  task : Bool
  core : Nat
  partition : Nat
  seat : Nat := 0
  age : Nat
  lanes : List Lane
  scalars : List PPair
  nscalars : Nat
  regs : Nat
  maxEntries : Nat
  slots : List Dword
  ctrs : Counters := {}
  frontier : List Entry
  heldEntries : List Entry := []
  trapped : Option Entry := none
  trap : TrapRegs := {}
  trapMode : Bool := false
  haltPending : Bool := false
  hold : Hold := .none
  ownCause : Bool := false
  skid : Nat := 0
  latch : Option Latch := none
  abufs : List ABuf := []
  windows : List Window := []
  lastCol : ColRecord := {}
  issued : Nat := 0
  forced : Option Nat := none
  resident : Bool := true
  ended : Bool := false
  headers : List Nat := []
  spare : Nat := 0
  consumed : Bool := false
  deriving DecidableEq, Repr

/-! ## Operations in flight -/

/-- Where a lane's access goes: a local fabric-physical address, another package, or a pair of group and core of the
gang with a byte offset into its scratchpad banks (R248). -/
inductive Loc where
  | home (pa : Nat)
  | remote (pkg pa : Nat)
  | sp (gang place off : Nat)
  deriving DecidableEq, Repr

/-- One lane's access: the lane, its virtual address, where it goes, and whether the page is poison-tolerant and the
policy on (R309). -/
structure Acc where
  lane : Nat
  va : Nat
  loc : Loc
  pt : Bool := false
  deriving DecidableEq, Repr

/-- Where a landing word goes. -/
inductive Slot where
  | v (n : Nat)
  | o (n : Nat)
  | q (n : Nat)
  | discard
  deriving DecidableEq, Repr

/-- The destination of an operation: for each lane the first register, and the words each receives. -/
structure Dst where
  lanes : List (Nat × Slot)
  words : Nat
  deriving DecidableEq, Repr

/-- One atomic operation of a lane at its word's home. -/
structure AtomItem where
  acc : Acc
  b : Dword
  c : Dword
  deriving DecidableEq, Repr

/-- Follow-on matrix command of cpy.mx (R452): word 2. -/
abbrev FollowOn := Word

/-- One end of a copy (R448): g memory at a virtual address, a scratchpad address, or an offset in the context's
checkpoint-tier window. -/
inductive CopyEnd where
  | g (va : Nat)
  | sp (gang place off : Nat)
  | ck (off : Nat)
  deriving DecidableEq, Repr

/-- What an operation in flight will do when its event comes. -/
inductive OpBody where
  /-- Loads and hgat (R436, R447): `bypass` reads at the home and allocates nothing, `acq` acts as an acquire after
  the read, `noAlloc` is hint 2, `ro` the read-only space, `queue` a delivery. -/
  | load (dst : Dst) (bytes : Nat) (sx bypass acq noAlloc ro : Bool) (accs : List Acc)
  /-- Values computed by a unit of the device that land with the ld counter (R461, R382). -/
  | deliver (dst : Dst) (vals : List (Nat × List PWord))
  /-- ld.sp.fifo (R439). -/
  | fifoPop (dst : Dst) (gang place fifo : Nat) (wide : Bool)
  /-- st.sp.fifo (R439): the 128-byte entries to push. -/
  | fifoPush (gang place fifo : Nat) (entries : List (List PWord))
  /-- Stores (R436): each lane's access and data words; `noCopy` is hint 2 (R434), `rel` a release store (R271). -/
  | store (bytes : Nat) (noCopy rel : Bool) (items : List (Acc × List PWord))
  /-- fence.rel (R271): it holds the later stores and atomics of its threads. -/
  | fence
  /-- An operation deferred inside a region: only its counter waits (R511). -/
  | buffered
  /-- Stores inside a region, on their way to what it holds back (R283, R286, R511): the KEY but for the lane, the instruction
  words, and each lane's access and data words. -/
  | pin (bytes key : Nat) (w0 w1 : Word) (items : List (Acc × List PWord))
  /-- wb.l1 (R442). -/
  | writeBack (core : Nat)
  /-- Atomics and red (R443 to R446): `got` collects the values returned. -/
  | atom (op : AtomOp) (width : Nat) (signed : Bool) (dst : Option Dst) (items : List AtomItem)
      (got : List (Nat × List PWord))
  /-- Copies (R448): `bytes` long; `done` is how many bytes were moved before a wait on a page, `wrote` that the writes to
  another package are out. -/
  | copy (src dst : CopyEnd) (bytes done : Nat) (sem : Option Nat) (wrote : Bool)
  /-- The follow-on of a cpy.mx (R452), which mx counts: the semaphore it increments at its end, the copy it waits for, its
  word, the lanes it reads A in, where B lies, and whether it is in its engine's queue. -/
  | follow (sem : Option Nat) (copy : Nat) (word : FollowOn) (lanes : Mask) (gang place off : Nat) (queued : Bool)
  /-- A matrix command in an engine (R408). -/
  | matrix
  /-- A collective (R480), by its number. -/
  | col (dst : Dst) (col : Nat)
  /-- ray.cast and ray.beam (R469): the status of each lane. -/
  | ray (dst : Dst) (vals : List (Nat × List PWord))
  /-- A join word's decrement that waits for its page (R125, R266): the record's gang (launch handle, index) and the core
  that made it. -/
  | join (va core launch gang : Nat)
  /-- A bank-mode change (R458) and the status it will report. -/
  | sramMode (dst : Dst) (status : Nat)
  deriving DecidableEq, Repr

/-- An operation a wave issued that has not completed (R214): who issued it, for which lanes, the counter it holds, when
it issued, the PC of its instruction (R328), since when it waits for a page (R266), the lanes whose requests failed at
the source (R24), those whose residue check failed (R243), and the core whose engines serve it. -/
structure Op where
  id : Nat
  wave : Nat
  gang : Option Nat
  ctx : Nat
  core : Nat
  lanes : Mask
  ctr : Option Ctr
  body : OpBody
  at_ : Nat
  pc : Nat := 0
  waitSince : Option Nat := none
  pageSince : Option Nat := none
  cut : List Nat := []
  marked : Mask := 0
  home : Nat := 0
  deriving DecidableEq, Repr

/-! ## Gangs, groups, regions -/

/-- Arrivals at one barrier (R456): the waves whose arrived flag is set in the current phase. -/
structure Barrier where
  arrived : List Nat := []
  deriving DecidableEq, Repr, Inhabited

/-- The scratchpad and FIFO banks a group holds on one core (R100, R247 to R249): which banks of the core serve as
scratchpad and FIFO, in order; the scratchpad's bytes by offset (the bytes not listed are 0), its poisoned 64-bit units
and journalled 128-byte lines; and the FIFO banks' entries. -/
structure Place where
  core : Nat
  spBanks : List Nat := []
  fifoBanks : List Nat := []
  sp : List Host.Cell := []
  marks : List Nat := []
  journalled : List Nat := []
  fifos : List (List (List PWord)) := []
  deriving DecidableEq, Repr

/-- A rclaim that waits (R204): the wave, the entry, and how many registers. -/
structure Claim where
  wave : Nat
  pc : Nat
  depth : Nat
  n : Nat
  deriving DecidableEq, Repr

/-- A register pool of a group on one partition of one core (R203), with the claims waiting on it. -/
structure Pool where
  core : Nat
  partition : Nat
  free : Nat := 0
  claims : List Claim := []
  deriving DecidableEq, Repr

/-- A group (R181): its linear number, the places it spans, its named barriers (physical base and arrivals), pools,
running handler (R315) and exit-record data (R330). -/
structure Group where
  linear : Nat
  places : List Place
  barBase : Nat := 0
  bars : List Barrier := []
  pools : List Pool := []
  handler : Option Nat := none
  issued : Nat := 0
  start : Nat := 0
  ended : Bool := false
  deriving DecidableEq, Repr

/-- A wave's snapshot (R290): what a rollback restores. -/
structure Snap where
  wave : Nat
  n : Nat
  scalars : List PPair
  lanes : List Lane
  entry : Entry
  deriving DecidableEq, Repr

/-- A line a region has pinned or spilled (R283, R284): the core, the physical line number, its virtual address, the words
written by their address, and a spilled line's entry of the log. -/
structure WLine where
  core : Nat
  line : Nat
  va : Nat := 0
  words : List (Nat × PWord)
  spilled : Bool := false
  entry : Nat := 0
  deriving DecidableEq, Repr

/-- A journal entry (R285): a scratchpad line's former bytes and marks. -/
structure JEntry where
  place : Nat
  line : Nat
  bytes : List Byte
  marks : List Nat
  deriving DecidableEq, Repr

/-- What a deferred operation will do at commit (R286). -/
inductive DeferBody where
  | atom (op : AtomOp) (width : Nat) (signed : Bool) (loc : Loc) (b c : Dword)
  | store (loc : Loc) (bytes : List Byte) (marks : List Bool)
  | spawn (r : Rec)
  deriving DecidableEq, Repr

/-- An operation deferred to commit (R286), with its KEY, the core whose buffer holds it, and the log's view of it
(R291): virtual address and instruction words. -/
structure Deferred where
  key : Nat
  core : Nat
  va : Nat
  w0 : Word
  w1 : Word
  body : DeferBody
  deriving DecidableEq, Repr

/-- The region state of a gang (R281, R282, R289). `lines`, `journal`, `deferred` are what the attempt holds back;
`tiles` the accumulator tiles written; `abort` a pending rgn.abort's target with its KEY and cycle; `drained` the cores
whose step 4 ended; `ticket` the order in which it came for a commit token (R294). -/
structure Region where
  st : Nat := 0
  attempt : Nat := 0
  spilled : Bool := false
  overflow : Bool := false
  region : Nat := 0
  opened : Nat := 0
  committed : Nat := 0
  used : Nat := 0
  snaps : List Snap := []
  snapDone : Bool := true
  lines : List WLine := []
  journal : List JEntry := []
  deferred : List Deferred := []
  tiles : List (Nat × Nat) := []
  abort : Option (Nat × Nat × Nat) := none
  forced : Bool := false
  drained : List Nat := []
  ticket : Option Nat := none
  token : Bool := false
  deriving DecidableEq, Repr, Inhabited

/-- The policies of R74. -/
structure Policy where
  roundRobin : Bool := false
  tolerant : Bool := false
  flush : Bool := false
  deviceLaunch : Bool := false
  relaunchCeil : Nat := 0
  grace : Nat := 5
  deriving DecidableEq, Repr, Inhabited

/-- Why a gang is to be rolled back or killed (R297, R303, R319): the source code of R307 (0 for none), the core it is
attributed to, the reported cause of an escalation (0 for none), and the kill's reason (R310). -/
structure Doom where
  source : Nat
  core : Option Nat
  cause : Nat
  reason : Nat
  kill : Bool
  deriving DecidableEq, Repr

/-- Where a gang stands between its launch and its end. -/
inductive GangSt where
  /-- Waiting for placement (R91). -/
  | pending
  /-- On its cores, in their active banks. -/
  | placed
  /-- Ordered off its cores; the swap has not come (R109). -/
  | leaving
  /-- Off its cores: pre-empted or suspended (R109, R49), its state held in shadow banks or the save pool (R114). -/
  | saved
  /-- Killed; its last operations run out (R303). -/
  | dying
  /-- Ended, or killed without relaunch. -/
  | done
  deriving DecidableEq, Repr

/-- A gang (R181): its launch and index, its age (R91), since when it is pending, the policies it was placed with (R74), the
state it is in, its groups, its gang barrier, its region, the accesses recorded lost (R19, R266), what is to happen to it,
the cause of its last escalation (R330), the tasks that name it (R127), the pages of the save pool and of the free pool that hold its state (R115), the map
version no die could take it back under (R323), and the version that system software has to acknowledge before a gang suspended
under R49 runs again (R50). -/
structure Gang where
  id : Nat
  launch : Nat
  ctx : Nat
  index : Nat
  acceptedAt : Nat
  first : Nat
  pendingAt : Nat := 0
  policy : Policy := {}
  st : GangSt := .pending
  groups : List Group := []
  bar : Barrier := {}
  region : Region := {}
  lost : Nat := 0
  doom : Option Doom := none
  relaunches : Nat := 0
  lastCause : Nat := 0
  placedAt : Nat := 0
  logBase : Nat := 0
  logPages : Nat := 0
  pass : Option Nat := none
  taskGang : Bool := false
  idleSince : Option Nat := none
  waiters : Nat := 0
  savePages : Nat := 0
  spill : List Nat := []
  tried : Option Nat := none
  stale : Option Nat := none
  deriving DecidableEq, Repr

/-! ## Cores -/

/-- A word an L1 holds (R250, R269): its value, whether it is dirty, owned and of the read-only space. A store that has
not registered yet is among `State.ops`; loads of its core see it from there. -/
structure L1Word where
  pa : Nat
  val : Word
  dirty : Bool
  owned : Bool
  ro : Bool
  deriving DecidableEq, Repr

/-- What an engine keeps of a row or column of a tile beside its elements (R423): the checksum value, the magnitude sum
Σ, and the 48-bit residual of block kinds. -/
structure Check where
  sum : Dword := 0
  mag : Dword := 0
  resid : Int := 0
  deriving DecidableEq, Repr, Inhabited

/-- An accumulator tile (R409): its tag (KIND 1 FP32, 2 FP64; M and N by their codes), the elements by 64 × row + column
(those not listed are +0) and their poison marks, the checksum column and row, and of the mmas since the last zeroing the
last one's τ and kind, and the gang and attempt each was issued in (R307). -/
structure Tile where
  kind : Nat := 0
  m : Nat := 0
  n : Nat := 0
  corr : Nat := 0
  ckFail : Bool := false
  acc : List (Nat × Dword) := []
  marks : List Nat := []
  rows : List (Nat × Check) := []
  cols : List (Nat × Check) := []
  tau : Nat := 40
  block : Bool := false
  stamps : List (Nat × Nat) := []
  deriving DecidableEq, Repr, Inhabited

/-- Semaphores and tiles of one context on one core (R209): k0 to k31 with their waiters in order (wave, PC, depth,
v), and m0 to m7. -/
structure Waiter where
  wave : Nat
  pc : Nat
  depth : Nat
  v : Nat
  deriving DecidableEq, Repr

/-- `core` is a core, or the bank that holds the state of a core swapped out (`Store.bankBase`); `was` is the bank it was
restored from; `rotation` and `current` are what the issue policy remembers of a core swapped out (R108, R321). -/
structure CtxCore where
  ctx : Nat
  core : Nat
  was : Option Nat := none
  sems : List Nat
  waiters : List (Nat × Waiter)
  tiles : List Tile
  rotation : List Nat := []
  current : List (Nat × Nat) := []
  deriving DecidableEq, Repr

/-- A matrix command in an engine's queue (R407, R408): the operation that counts it, its form, and what it read at
issue (R416, R418). `a` holds A's rows, each with its metadata behind it. -/
inductive MCmd where
  | mma (op wave tile : Nat) (slotA slotB : Dword) (shape : Nat) (tb : Bool) (pattern : Option Nat) (flush : Bool)
      (a : List (List PWord)) (gang place off : Nat) (stamp : Nat × Nat)
  | zero (op wave tile : Nat)
  | drain (op wave tile kind m n : Nat) (slot : Dword) (hi clr : Bool) (col : Nat) (dst : Dst)
  | drainSp (op wave tile kind m n : Nat) (slot : Dword) (clr : Bool) (gang place off : Nat)
  | prune (op wave : Nat) (dst : Dst) (vals : List (Nat × List PWord))
  deriving DecidableEq, Repr

/-- A matrix engine (R407): its queue of at most 8 commands, and the one that runs. -/
structure Engine where
  queue : List MCmd := []
  running : Option MCmd := none
  deriving DecidableEq, Repr, Inhabited

/-- An open key of the task dispatcher (R131): launch, PC and depth, the records packed, and when the first came. -/
structure OpenKey where
  launch : Nat
  pc : Nat
  depth : Nat
  recs : List Rec
  since : Nat
  deriving DecidableEq, Repr

/-- What a core's shadow bank does (R113 to R115). -/
inductive Shadow where
  | empty
  /-- It holds an incoming context, whose state is in that bank. -/
  | incoming (ctx bank : Nat)
  /-- It spills the outgoing context, whose state is in that bank. -/
  | spilling (ctx bank : Nat)
  /-- The spill waits for pages (R115); when its context last heard of it. -/
  | waiting (ctx bank : Nat) (lastEvent : Nat)
  deriving DecidableEq, Repr

/-- A core (R5, R93): the context of its active bank, its shadow bank, L1 with the poisoned 32-byte sectors, matrix
engines, task FIFO and open keys (R131), frozen partitions (partition, F; R327), what the issue policy remembers (R108), and
its sequence number (R332). -/
structure Core where
  idx : Nat
  ctx : Option Nat := none
  shadow : Shadow := .empty
  l1 : List L1Word := []
  l1Marks : List Nat := []
  engines : List Engine := [{}, {}]
  fifo : List Rec := []
  keys : List OpenKey := []
  frozen : List (Nat × Nat) := []
  rotation : List Nat := []
  current : List (Nat × Nat) := []
  seqNo : Nat := 0
  deriving DecidableEq, Repr

/-! ## Contexts and launches -/

/-- A version a context owes (R47, R48): the version, its deadline, and the grace period in ms that gave it. -/
structure Owed where
  version : Nat
  deadline : Nat
  grace : Nat
  deriving DecidableEq, Repr

/-- The reuse counters of R145. -/
structure ReuseCtrs where
  lookup : Nat := 0
  hit : Nat := 0
  miss : Nat := 0
  insert : Nat := 0
  drop : Nat := 0
  noway : Nat := 0
  inval : Nat := 0
  purity : Nat := 0
  joinUf : Nat := 0
  badRec : Nat := 0
  deriving DecidableEq, Repr, Inhabited

/-- The parks of one request number (R465): the operations it still awaits, and its pool slots. -/
structure ParkSet where
  req : Nat
  ops : List Nat
  slots : List Nat
  deriving DecidableEq, Repr

/-- A debug order (codes 1 to 7 of R324), a configuration (8) or a clearing (9) of a monitor (R331) that a wave posted and
that has still to be carried out, with what the context's sr.dtgt and sr.dbuf, or sr.mcfg, held then. -/
structure Posted where
  wave : Nat
  code : Nat
  target : Word
  buf : Dword
  deriving DecidableEq, Repr

/-- A context (R72, R73): its class, tenant and salt, policies, task area, page-table root, command sequence, launch
queue, versions owed, checkpoint window, halts, debug and trace registers of the context (R317), request numbers
(R465), page requests open (R265), poison reports (R309), records of a swapped core that found the ring full, oldest first
(R132), since when its records have found no room (R132), and the ranges MEM_MAP has written (R207). -/
structure Ctx where
  id : Nat
  cls : Nat
  tenant : Nat
  salt : List Byte
  policy : Policy := {}
  taskArea : Nat
  taskPages : Nat
  root : Nat
  nextSeq : Nat := 0
  areaReady : Bool := false
  owed : List Owed := []
  overdue : Bool := false
  halted : Bool := false
  restored : Bool := false
  window : Option (Nat × Nat) := none
  reuse : ReuseCtrs := {}
  nextReq : Nat := 1
  parked : List ParkSet := []
  requests : List Nat := []
  queuedRequests : List (Nat × Nat × Nat) := []
  released : List Nat := []
  passNum : Nat := 0
  dtgt : Word := 0
  dbuf : Dword := 0
  dord : Word := 0
  mcfg : Dword := 0
  trbase : Dword := 0
  traceIdx : Nat := 0
  posted : List Posted := []
  debugger : Option Nat := none
  reportSecond : Nat := 0
  reports : Nat := 0
  dropped : Nat := 0
  stranded : List Rec := []
  starved : Option Nat := none
  ranges : List (Nat × Nat) := []
  origins : List (Nat × Nat) := []
  deriving DecidableEq, Repr

/-- A launch record (R75). -/
structure LaunchRec where
  khdr : Nat
  args : Dword
  gx : Nat
  gy : Nat
  gz : Nat
  flags : Nat
  relaunch : Nat
  logBase : Nat
  exitRec : Nat
  done : Nat
  slots : List Dword
  bytes : List Byte
  deriving DecidableEq, Repr

/-- A kernel header (R79). -/
structure KHdr where
  flags : Nat
  entry : Nat
  codeSize : Nat
  group : Nat
  gang : Nat
  frontier : Nat
  regs : Nat
  scalars : Nat
  preload : Byte
  barriers : Nat
  spBanks : Nat
  fifoBanks : Nat
  roles : List (Nat × Nat)
  regionLog : Nat
  deriving DecidableEq, Repr

/-- A buffered deterministic FP atomic (R305): its order key (group, wave, lane, count), where its word lies, the
type and the operand. -/
structure DetOp where
  key : Nat × Nat × Nat × Nat
  loc : Loc
  width : Nat
  b : Dword
  deriving DecidableEq, Repr

/-- A launch (R75, R77): who asked for it, the copies the device retains, the header map (R334), the code hash
(R135), the gangs it releases, and what its completion will say (R78, R97, R304). -/
structure Launch where
  id : Nat
  ctx : Nat
  tag : Nat
  device : Bool
  record : LaunchRec
  hdr : KHdr
  headers : List Nat
  codeHash : List Byte
  recordVa : Nat
  recordPage : Nat
  acceptedAt : Nat
  gangs : Nat
  nextGang : Nat := 0
  doneGangs : Nat := 0
  relaunched : Nat := 0
  doneOp : Option Nat := none
  killed : Option Nat := none
  dropped : Option Nat := none
  detOps : List DetOp := []
  detPages : List Nat := []
  deriving DecidableEq, Repr

/-! ## The resource map -/

/-- A core entry of the map (R41): state code, LANE_MAP's eight fields, retired banks and quarters. -/
structure CoreEnt where
  st : Nat
  lanes : List Nat
  banksOut : BitVec 32
  regsOut : BitVec 16
  deriving DecidableEq, Repr

/-- A slice entry (R42). -/
structure SliceEnt where
  ways : BitVec 12 := 0
  homeOnly : Bool := false
  deriving DecidableEq, Repr, Inhabited

/-- A stack entry (R42): 1 live, 3 failing, 4 lost; `failed`: it was marked failing, which the durable copy keeps of a lost one
too (R36). -/
structure StackEnt where
  st : Nat := 1
  failed : Bool := false
  spare : Nat := 256
  remapped : Nat := 0
  retired : Nat := 0
  deriving DecidableEq, Repr, Inhabited

/-- A port entry (R42). -/
structure PortEnt where
  up : Bool := true
  relay : Bool := false
  replayFails : Nat := 0
  deriving DecidableEq, Repr, Inhabited

/-- A remap entry (R44). -/
structure Remap where
  stack : Nat
  kind : Nat
  bad : Nat
  target : Nat
  deriving DecidableEq, Repr

/-- The resource map (R37 to R44); quads and the counts of a die entry are computed from the cores. `published` is
false when the device runs no firmware or the durable copy failed (R36, R87). Core entries not listed in `cores` are as
`Ops` gives for a die's spare quad. -/
structure RMap where
  published : Bool
  version : Nat
  changedAt : Nat
  cause : Nat
  detail : Nat
  mhz : Nat
  limit : Nat
  diesLost : List Nat
  spareQuad : List Nat
  cores : List (Nat × CoreEnt)
  slices : List (Nat × SliceEnt)
  stackEnts : List (Nat × StackEnt)
  ports : List (Nat × PortEnt)
  lanes : Nat
  relay : List (Nat × List Nat)
  peers : List (Nat × Nat)
  remaps : List Remap
  deriving DecidableEq, Repr

/-- The Farrier's durable copy (R36): what survives a reset. -/
structure Durable where
  valid : Bool
  cores : List (Nat × CoreEnt)
  slices : List (Nat × SliceEnt)
  stackEnts : List (Nat × StackEnt)
  remaps : List Remap
  deriving DecidableEq, Repr

/-! ## Tasks, reuse, rays -/

/-- A pure spawn whose lookup has not finished, or whose hit copy runs (R138). `entry` is the place (die, set, way)
of the entry hit. -/
structure Spawn where
  id : Nat
  core : Nat
  ctx : Nat
  launch : Nat
  rec_ : Rec
  pages : List Nat
  ok : Bool
  stale : Bool
  hit : Option (Nat × Nat × Nat)
  dropHit : Bool := false
  deriving DecidableEq, Repr

/-- A reuse-table entry (R137) with the pages it watches (R141); entries not listed are invalid. -/
structure Reuse where
  die : Nat
  set : Nat
  way : Nat
  digest : List Byte
  resPa : Nat
  resLen : Nat
  tenant : Nat
  st : Nat
  age : Nat
  hits : Nat
  created : Nat
  ctx : Nat
  watch : List Nat
  deriving DecidableEq, Repr

/-- A registered scene (R146, R147, R155): the header as checked, its free segments, since when each treelet is
resident (R158), and since when it has been idle. -/
structure Scene where
  ctx : Nat
  addr : Nat
  count : Nat
  root : Nat
  ageBound : Nat
  dbase : Nat
  shade : KHdr
  shadeHeaders : List Nat
  pcHit : Nat
  pcAny : Nat
  pcMiss : Nat
  join : Nat
  args : Dword
  qBase : Nat
  free : List Nat
  residentAt : List (Nat × Nat)
  requested : List (Nat × Nat)
  idleSince : Option Nat
  malformed : List (Nat × Bool) := []
  deriving DecidableEq, Repr

/-- A ray of an open segment: its record's number in the segment, its record's 16 words and side state's three (R152,
R156), whether a word of them is poisoned, whether it is a pixel of a beam (R173), the verdicts its non-opaque candidates
have had, in order (0 accept, 1 ignore, 2 term), and the verdict slot of the candidate that waits. -/
structure RayState where
  idx : Nat
  rec_ : List Word
  side : List Word
  poisoned : Bool
  pixel : Bool := false
  verdicts : List Nat := []
  slot : Option Nat := none
  deriving DecidableEq, Repr

/-- A segment a pass has open (R161): its address, and its rays. -/
structure OpenSeg where
  addr : Nat
  rays : List RayState
  deriving DecidableEq, Repr

/-- A treelet pass (R161): its number (R516), context, scene and treelet, its gang, the image loaded with the poisoned
8-byte units, its open segments, and its progress. -/
structure Pass where
  id : Nat
  num : Nat
  ctx : Nat
  scene : Nat
  treelet : Nat
  gang : Nat
  startedAt : Nat
  loaded : Bool := false
  image : List Byte := []
  marks : List Nat := []
  segs : List OpenSeg := []
  stopped : Bool := false
  waitSince : Option Nat := none
  deriving DecidableEq, Repr

/-! ## Collectives -/

/-- An element of a collective, with its mark. -/
structure Elem where
  val : Nat
  mark : Bool := false
  deriving DecidableEq, Repr, Inhabited

/-- A rank as far as its messages have arrived: whether it has started, its elements by index, the package numbers it
holds lost (R484). -/
structure Contrib where
  rank : Nat
  started : Bool := false
  elems : List (Nat × Elem) := []
  losses : Option (List Nat) := none
  deriving DecidableEq, Repr

/-- A collective's descriptor and member table as read (R477, R478). -/
structure ColDesc where
  kind : Nat
  fold : Nat
  ty : Nat
  rank : Nat
  round : Nat
  count : Nat
  root : Nat
  setId : Nat
  seq : Nat
  src : Nat
  dst : Nat
  members : List Nat
  deriving DecidableEq, Repr

/-- A collective of a rank of this package (R480, R484): its gang and tenant, where its descriptor lies, whether it is a
reform, the operations that wait for it, the descriptor once read, when the rank arrived, whether its elements have been
read, what the ranks gave, finished results, the packages lost, and the status once it is known. -/
structure Col where
  id : Nat
  gang : Nat
  ctx : Nat
  tenant : Nat
  at_ : Nat
  reform : Bool
  ops : List (Nat × Nat)
  desc : Option ColDesc := none
  arrivedAt : Option Nat := none
  sent : Bool := false
  ranks : List Contrib := []
  results : List (Nat × Elem) := []
  lost : List Nat := []
  status : Option Nat := none
  deriving DecidableEq, Repr

/-- A collective message sent and not yet acknowledged (R482). -/
structure SentCol where
  id : Nat
  dest : Nat
  at_ : Nat
  round : Nat
  mtype : Nat
  msg : ColMsg
  deriving DecidableEq, Repr

/-- An aborted (SETID, SEQ) kept for 1 s (R482), with the status it ends a start with. -/
structure Aborted where
  tenant : Nat
  setId : Nat
  seq : Nat
  status : Nat
  at_ : Nat
  deriving DecidableEq, Repr

/-- A rank that a col.start or col.reform of this package has started under (SETID, SEQ), not aborted (R483). -/
structure Begun where
  tenant : Nat
  setId : Nat
  seq : Nat
  rank : Nat
  reform : Bool
  deriving DecidableEq, Repr

/-- A start that arrived before the local rank started (R482). -/
structure EarlyMsg where
  mtype : Nat
  msg : ColMsg
  deriving DecidableEq, Repr

/-! ## Ports, host, checkpoint -/

/-- What a frame to the host carries (R31, R64): a message by its type, context, SEQ, TAG and body, or the number from which
the device asks for the host's frames again. -/
inductive HostMsg where
  | host (type ctx : Nat) (seq tag : Nat) (body : List Byte)
  | resend (seq : Nat)
  deriving DecidableEq, Repr

/-- What the device has sent: frames on the Utenaurn port (R31), and on UALink requests, responses and collective messages. -/
inductive Sent where
  /-- A frame with its sequence number and CRC-32C. -/
  | frame (seq : Nat) (crc : Word) (m : HostMsg)
  /-- A request of an operation, by its package and address; `via` is the package it goes to first (R22). -/
  | request (op via pkg : Nat) (pa : Nat) (kind : PeerKind)
  | response (via dst tag : Nat) (words : List WireWord)
  | unsupported (port tag : Nat)
  | replay (port flit : Nat)
  | relay (m : RelayMsg)
  | col (mtype dest : Nat) (m : ColMsg)
  | sync (count : Nat)
  deriving DecidableEq, Repr

/-- A mapping of an image: its context, virtual page, entry and physical page; and, where the image holds the page and no
earlier mapping of it does, its contents (bytes not listed are 0) with the poisoned 64-byte units. -/
structure ImgPage where
  ctx : Nat
  va : Nat
  entry : Nat
  page : Nat
  held : Bool
  cells : List Host.Cell
  marks : List Nat
  deriving DecidableEq, Repr

/-- A checkpoint image (R84, R85): its sequence number, kind (0 full, 1 incremental), the image it extends, mask, map
version, descriptor slot, whether its descriptor page is marked complete, its extent in the delta area, and what it
holds: the contexts with their launches, gangs, waves, units of cores and scenes, and their pages. -/
structure Image where
  seq : Nat
  kind : Nat
  base : Nat
  mask : BitVec 64
  version : Nat
  slot : Nat
  magic : Nat
  complete : Bool
  count : Nat
  digest : List Byte
  extent : Nat × Nat
  ctxs : List Ctx
  launches : List Launch
  gangs : List Gang
  waves : List Wave
  ctxCores : List CtxCore
  scenes : List Scene
  oldScenes : List Scene
  pages : List ImgPage
  deriving DecidableEq, Repr

/-- A checkpoint order under way (R83). -/
structure CkptOrder where
  mask : BitVec 64
  kind : Nat
  limit : Nat
  startedAt : Nat
  msgCtx : Nat
  tag : Nat
  deriving DecidableEq, Repr

/-- A monitor (R331). -/
structure Monitor where
  die : Nat
  idx : Nat
  source : Nat
  shift : Nat
  base : Nat
  min : Nat := 0
  max : Nat := 0
  count : Nat := 0
  bins : List Nat := []
  deriving DecidableEq, Repr

/-- Firmware (R87, R89): the slot that runs (none: the boot ROM found none), its security version and hash, the fused
counter, the slots written since their last FW_COMMIT, and the slot that still holds the image the part came with (log 3). -/
structure Firmware where
  running : Option Nat
  secVer : Nat
  hash : List Byte
  fuse : Nat
  dirtySlots : List Nat
  factory : Option Nat
  deriving DecidableEq, Repr

/-- HBM page use (R56, R70, R115): the pages allocated to page tables or mappings, the pages waiting for the Groom in
order, those retired or withheld, and the save pool's free pages. Every other page is free. -/
structure Pool_ where
  used : List Nat
  clearing : List Nat
  withheld : List Nat
  rotor : Nat
  saveFree : Nat
  deriving DecidableEq, Repr

/-- A word of a wave that carries parity (R225): a main or operand-file register of a lane, a half of its last-result latch, a
half of a scalar, an entry of a lane's queue. -/
inductive WordAt where
  | main (lane reg : Nat)
  | operand (lane n : Nat)
  | last (lane half : Nat)
  | scalar (n half : Nat)
  | queue (lane q pos : Nat)
  deriving DecidableEq, Repr

/-- Hardware errors the environment lets happen (R7, R225, R226, R243, R306): each is one event of the agenda. -/
inductive Upset where
  /-- A corrected error in a row of a stack. -/
  | hbmCorrected (page : Nat)
  /-- An uncorrectable error in a 64-byte unit, by its physical address div 64. -/
  | hbmUncorrectable (unit : Nat)
  /-- An uncorrectable error in an L2 half-line that a way of its home slice holds. -/
  | l2Uncorrectable (unit way : Nat)
  /-- An uncorrectable error in a scratchpad unit of a place of a gang. -/
  | spUncorrectable (gang place unit : Nat)
  /-- An uncorrectable error in a 64-bit unit of an entry of a FIFO of a place. -/
  | fifoUncorrectable (gang place fifo entry unit : Nat)
  /-- An uncorrectable error in an L1 sector of a core, by its physical address div 32, and the bank that holds it. -/
  | l1Uncorrectable (core sector bank : Nat)
  /-- A line that a region has pinned or spilled fails (source 0x06), and the bank that holds it. -/
  | pinned (gang core line bank : Nat)
  /-- A parity error in a word of a wave (R225), and the main-file quarter it lies in. -/
  | parity (wave : Nat) (at_ : WordAt) (quarter : Nat)
  /-- A parity error in a wave's index registers, predicates, frontier or counters (R226). -/
  | parityState (wave : Nat)
  /-- A parity error in the state of a core's sync unit (R226). -/
  | paritySync (core : Nat)
  /-- A fault in one accumulator element of a tile: the value it becomes, and by how much a product of it was wrong. -/
  | tile (ctx core tile elem : Nat) (value : Dword) (delta : Int)
  /-- An error counted against a unit (R51). -/
  | counted (unit : HwUnit) (uncorrectable : Bool)
  /-- The durable copy of the Farrier no longer passes its checks (R36). -/
  | durable
  deriving DecidableEq, Repr

/-- What comes next (the model's own state, not the spec's): the environment's order of steps. Each move first lets
`wait` counts of the global timestamp pass. -/
inductive Move where
  /-- An event of the opcode table. -/
  | event (wait : Nat) (i : Instr)
  /-- The n-th message received is executed. -/
  | command (wait n : Nat)
  /-- A partition takes an issue cycle; `residue` are the lanes whose residue check fails in it (R243), `late` the waves
  that the latencies of R344 keep from being ready in it (log 9). -/
  | issue (wait core partition : Nat) (residue : Mask) (late : List Nat)
  /-- A hardware error. -/
  | upset (wait : Nat) (u : Upset)
  /-- Events whose reports reach the map controller in one cycle of its clock (R45). -/
  | together (wait : Nat) (is : List Instr)
  deriving DecidableEq, Repr

/-- What a partition issues (R107, R190): the wave, the entry's key, the fall-through address, whether the instruction
is the last of its clause, the clause's class, the instruction words, and the lanes whose residue check fails. -/
structure Issue where
  wave : Nat
  pc : Nat
  depth : Nat
  next : Nat
  last : Bool
  cls : Nat
  w0 : Word
  w1 : Word
  residue : Mask := 0
  deriving DecidableEq, Repr

/-! ## The package -/

/-- The dispatcher's reservation (R103): the reserving gang and the reserved cores. -/
structure Reserve where
  gang : Nat
  cores : List Nat
  deriving DecidableEq, Repr

/-- The parts of the package outside its cores. `clockTold`: telemetry has shown the last clock change (R66). `errors` are the
counts of R51, each with whether it was uncorrectable and when; `held` the cores the Farrier holds, with the group and lane to
swap, or none to retire (R52). `ahead`: what the global timestamp has gained over `State.time` by joining pods, and `joinedBy`
the accelerator ID of the member it was adopted from (R11); `rxSeq` and `txSeq`: the next frame's number, from the host and to
it (R31). `flits` are, by port, the flit whose replays fail and how often its CRC failed (R18), `replays`
failed replays and `portErrors` discarded messages by port (R20, R42). `partial_` are tier pages whose write a loss of power
cut off, each with the words written since (R14). `survey` is what the last survey found of the construction (R36). -/
structure Device where
  pkg : Nat
  powered : Bool
  slew : Int
  ahead : Nat
  joinedBy : Option Nat
  lastSync : Nat
  lastTelemetry : Nat
  clockSince : Nat
  clockTold : Bool
  rmap : RMap
  durable : Durable
  survey : Survey
  fw : Firmware
  errors : List (HwUnit × Bool × Nat)
  held : List (Nat × Option (Nat × Nat))
  rowScores : List (Nat × Nat)
  lastHalve : Nat
  flits : List (Nat × Nat × Nat)
  replays : List (Nat × Nat)
  portErrors : List (Nat × Nat)
  devSeq : Nat
  rxSeq : Nat
  txSeq : Nat
  heldOut : List HostMsg
  inbox : List (List Byte)
  out : List Sent
  nextCkpt : Nat
  images : List Image
  ckpt : Option CkptOrder
  partial_ : List (Nat × List Nat)
  monitors : List Monitor
  deriving DecidableEq, Repr

/-- The state of one package. `mem` is fabric-physical memory, HBM and checkpoint tier (R251); `poison` the poisoned
64-byte units; `dirty` each page written, with the number the next image would have had at its last write (R84, R268). `directory` is the ownership of words (R255):
word address div 4 and owner core. `oldScenes` are released scenes, whose counts record tasks still take (R170). `free`, `nextId`, `order` and `issue` and `agenda` are the model's own. -/
structure State where
  time : Nat
  dev : Device
  mem : List Host.Cell
  poison : List Nat
  dirty : List (Nat × Nat)
  directory : List (Nat × Nat)
  pool : Pool_
  ctxs : List Ctx
  launches : List Launch
  gangs : List Gang
  waves : List Wave
  cores : List Core
  ctxCores : List CtxCore
  ops : List Op
  spawns : List Spawn
  reuse : List Reuse
  scenes : List Scene
  oldScenes : List Scene
  passes : List Pass
  cols : List Col
  sentCols : List SentCol
  aborted : List Aborted
  begun : List Begun
  early : List EarlyMsg
  reserve : Option Reserve
  nextId : Nat
  free : Nat
  turn : Nat
  issue : Option Issue
  agenda : List Move
  deriving DecidableEq, Repr

/-- The map the survey of a whole part publishes (R36, R38, R39, R71): version 1, cause 0, every core of the table's
quads enabled but the spare quad of each die, every stack, slice, port and lane good, an empty relay table. The spare
quad is Q16 of every die and the clock 2,700 MHz (DESIGN CHOICE, log entry 3). -/
def RMap.reset : RMap :=
  { published := true, version := 1, changedAt := 0, cause := 0, detail := 0, mhz := 2700, limit := 3200,
    diesLost := [], spareQuad := [16, 16, 16, 16], cores := [], slices := [], stackEnts := [], ports := [], lanes := 3,
    relay := [], peers := [], remaps := [] }

/-- The device after reset: powered, its firmware booted from slot 0 (DESIGN CHOICE, log entry 3), nothing received or
sent. -/
def Device.reset : Device :=
  { pkg := 0, powered := true, slew := 0, ahead := 0, joinedBy := none, lastSync := 0, lastTelemetry := 0, clockSince := 0, clockTold := true,
    rmap := RMap.reset, durable := { valid := true, cores := [], slices := [], stackEnts := [], remaps := [] },
    survey := { spareQuad := [16, 16, 16, 16], absent := [], portsUp := List.range 24, lanes := 3, stacksLost := [], mhz := 2700 },
    fw := { running := some 0, secVer := 0, hash := [], fuse := 0, dirtySlots := [], factory := some 0 }, errors := [], held := [],
    rowScores := [], lastHalve := 0, flits := [], replays := [], portErrors := [], devSeq := 0, rxSeq := 0, txSeq := 0, heldOut := [],
    inbox := [], out := [], nextCkpt := 1, images := [], ckpt := none, partial_ := [], monitors := [] }

/-- The machine right after a module reset that booted (R36, R87): timestamp 0 (R10), the map at version 1, no context,
an empty agenda. -/
def State.reset : State :=
  { time := 0, dev := Device.reset, mem := [], poison := [], dirty := [], directory := [],
    pool := { used := [], clearing := [], withheld := [], rotor := 0, saveFree := 32768 }, ctxs := [], launches := [],
    gangs := [], waves := [], cores := [], ctxCores := [], ops := [], spawns := [], reuse := [], scenes := [], oldScenes := [],
    passes := [], cols := [], sentCols := [], aborted := [], begun := [], early := [], reserve := none, nextId := 1, free := 0,
    turn := 0, issue := none, agenda := [] }

end Sys2Proof.Machine
end

