-- ==== Sys2Proof/Machine/Store.lean ====
section
/-! DEFINITION. The stores outside the cores and the ways to them: home memory with its poison units, the ownership
directory and the L1s (R249 to R258, R268 to R274, R532), translation (R259 to R263), the free pool (R252, R56), what the
device sends (R64, R67), and the change of the map (R45 to R47). -/

namespace Sys2Proof.Machine

/-! ## Units of the state, by number -/

def State.wave? (s : State) (id : Nat) : Option Wave := s.waves.find? (fun w => w.id == id)
def State.gang? (s : State) (id : Nat) : Option Gang := s.gangs.find? (fun g => g.id == id)
def State.ctx? (s : State) (id : Nat) : Option Ctx := s.ctxs.find? (fun c => c.id == id)

/-- A context under the policies a gang was placed with (R74); a task wave has the context's own. -/
def State.ctxFor (s : State) (gang : Option Nat) (id : Nat) : Option Ctx :=
  (s.ctx? id).map (fun c => match gang.bind s.gang? with
    | some g => { c with policy := g.policy }
    | none => c)
def State.launch? (s : State) (id : Nat) : Option Launch := s.launches.find? (fun l => l.id == id)
def State.op? (s : State) (id : Nat) : Option Op := s.ops.find? (fun o => o.id == id)
def State.core? (s : State) (i : Nat) : Option Core := s.cores.find? (fun c => c.idx == i)
def State.ctxCore? (s : State) (ctx core : Nat) : Option CtxCore :=
  s.ctxCores.find? (fun c => c.ctx == ctx && c.core == core)

/-- A core's state, a fresh one where nothing has touched it. -/
def State.coreAt (s : State) (i : Nat) : Core := (s.core? i).getD { idx := i }

/-- Semaphores and tiles a context finds on a core it has not used: count 0 (log 5), tiles unset. -/
def CtxCore.fresh (ctx core : Nat) : CtxCore :=
  { ctx := ctx, core := core, sems := List.replicate 32 0, waiters := [], tiles := List.replicate 8 {} }

def State.ctxCoreAt (s : State) (ctx core : Nat) : CtxCore := (s.ctxCore? ctx core).getD (CtxCore.fresh ctx core)

def State.updWave (s : State) (id : Nat) (f : Wave → Wave) : State :=
  { s with waves := s.waves.map (fun w => if w.id = id then f w else w) }
def State.updGang (s : State) (id : Nat) (f : Gang → Gang) : State :=
  { s with gangs := s.gangs.map (fun g => if g.id = id then f g else g) }
def State.updCtx (s : State) (id : Nat) (f : Ctx → Ctx) : State :=
  { s with ctxs := s.ctxs.map (fun c => if c.id = id then f c else c) }
def State.updLaunch (s : State) (id : Nat) (f : Launch → Launch) : State :=
  { s with launches := s.launches.map (fun l => if l.id = id then f l else l) }
def State.updOp (s : State) (id : Nat) (f : Op → Op) : State :=
  { s with ops := s.ops.map (fun o => if o.id = id then f o else o) }
def State.dropOp (s : State) (id : Nat) : State := { s with ops := s.ops.filter (fun o => o.id != id) }
/-- Numbers from here on name the banks that hold the state of cores swapped out (R110, R112): where a swapped wave, place,
line or operation names its core, it names its bank. -/
def bankBase : Nat := 272

def State.updCore (s : State) (i : Nat) (f : Core → Core) : State :=
  if s.cores.any (fun c => c.idx == i) then
    { s with cores := s.cores.map (fun c => if c.idx = i then f c else c) }
  else if i < bankBase then { s with cores := s.cores ++ [f { idx := i }] }
  else s
def State.updCtxCore (s : State) (ctx core : Nat) (f : CtxCore → CtxCore) : State :=
  if s.ctxCores.any (fun c => c.ctx == ctx && c.core == core) then
    { s with ctxCores := s.ctxCores.map (fun c => if c.ctx = ctx ∧ c.core = core then f c else c) }
  else { s with ctxCores := s.ctxCores ++ [f (CtxCore.fresh ctx core)] }
def State.updDev (s : State) (f : Device → Device) : State := { s with dev := f s.dev }
def State.updMap (s : State) (f : RMap → RMap) : State := { s with dev := { s.dev with rmap := f s.dev.rmap } }

/-- A group of a gang, by its linear number. -/
def Gang.group? (g : Gang) (lin : Nat) : Option Group := g.groups.find? (fun r => r.linear == lin)
def Gang.updGroup (g : Gang) (lin : Nat) (f : Group → Group) : Gang :=
  { g with groups := g.groups.map (fun r => if r.linear = lin then f r else r) }
/-- The place of a gang that a `Loc.sp` names: 4 × the group's position in the gang + the core's among the group's. -/
def Gang.place? (g : Gang) (n : Nat) : Option Place := (g.groups[n / 4]?).bind (fun r => r.places[n % 4]?)
def Gang.updPlace (g : Gang) (n : Nat) (f : Place → Place) : Gang :=
  { g with groups := (indexed g.groups).map (fun r =>
      if r.1 = n / 4 then
        { r.2 with places := (indexed r.2.places).map (fun p => if p.1 = n % 4 then f p.2 else p.2) }
      else r.2) }
def State.updGroup (s : State) (gang lin : Nat) (f : Group → Group) : State :=
  s.updGang gang (fun g => g.updGroup lin f)
def State.updRegion (s : State) (gang : Nat) (f : Region → Region) : State :=
  s.updGang gang (fun g => { g with region := f g.region })

/-- The next number of the model's own, taken. -/
def State.fresh (s : State) : Nat × State := (s.nextId, { s with nextId := s.nextId + 1 })

/-- The global timestamp (R10): the time since reset, and what it gained by joining a pod (R11). -/
def State.stamp (s : State) : Nat := s.time + s.dev.ahead

/-- A free value (log 6): a word the spec does not fix. -/
def State.freeWord (s : State) : Word × State := (Config.freeWord s.free, { s with free := s.free + 1 })

/-! ## Geography (R37, R252, R253) -/

/-- Bytes of a small page. -/
def pageBytes : Nat := 131072

/-- Pages of HBM, and how many of them the save pool withholds at the top (log 7). -/
def hbmPages : Nat := 6291456
def savePages : Nat := 32768

/-- First address of the checkpoint tier, and its size (R251). -/
def tierBase : Nat := 0x010000000000
def tierBytes : Nat := 0x020000000000

/-- The stack a physical page lies in. -/
def stackOf (page : Nat) : Nat := page % 12

/-- The compute die and slice that are home of an address (R253). -/
def homeDie (pa : Nat) : Nat := stackOf (pa / pageBytes) / 3
def homeSlice (pa : Nat) : Nat :=
  let g := pa / 128
  field g 0 6 ^^^ field g 6 6 ^^^ field g 12 6 ^^^ field g 18 6 ^^^ field g 24 6 ^^^ field g 30 6 ^^^ field g 36 6 ^^^
    field g 42 3

/-- The die, quad and core within the quad of a core of the map (R37). -/
def dieOf (core : Nat) : Nat := core / 68
def quadOf (core : Nat) : Nat := core % 68 / 4
def coreInQuad (core : Nat) : Nat := core % 4

def State.stackEnt (s : State) (st : Nat) : StackEnt := (lookupBy st s.dev.rmap.stackEnts).getD {}

/-- Is a stack lost, itself or with the home slices of its die (R8, R39)? -/
def State.stackLost (s : State) (st : Nat) : Bool := (s.stackEnt st).st == 4 || s.dev.rmap.diesLost.contains (st / 3)

/-- A core's entry: a die's spare quad is spare at ship, every other core enabled (R40, log 3). -/
def RMap.coreEnt (m : RMap) (i : Nat) : CoreEnt :=
  (lookupBy i m.cores).getD
    { st := if m.spareQuad.getD (dieOf i) 17 = quadOf i then 2 else 1
      lanes := List.replicate 8 15, banksOut := 0, regsOut := 0 }

/-- The state of a die's quad (R40): computed from those of its four cores that are not absent. -/
def RMap.quadState (m : RMap) (die q : Nat) : Nat :=
  let sts := ([0, 1, 2, 3].map (fun i => (m.coreEnt (68 * die + 4 * q + i)).st)).filter (fun n => n != 0)
  if sts.isEmpty then 0
  else if sts.all (fun n => n == 4) then 4
  else if sts.any (fun n => n == 4) then 5
  else if sts.all (fun n => n == 2) then 2
  else 1

/-- Packages in the lost-peer table, whose entries `peers` holds by their index (R43). -/
def RMap.lostPeers (m : RMap) : List Nat := m.peers.map (fun p => p.2)

/-- Its lowest empty entry. -/
def RMap.peerSlot (m : RMap) : Option Nat := (List.range 64).find? (fun i => !m.peers.any (fun p => p.1 == i))

def RMap.sliceEnt (m : RMap) (i : Nat) : SliceEnt := (lookupBy i m.slices).getD {}
def RMap.portEnt (m : RMap) (i : Nat) : PortEnt := (lookupBy i m.ports).getD {}

/-! ## What the device sends -/

/-- The bytes a frame carries: a message with its header (R61), or four bytes of the number asked for (log 97). -/
def HostMsg.bytes : HostMsg → List Byte
  | .host type ctx seq tag body =>
    toBytes 1 type ++ toBytes 1 ctx ++ toBytes 2 body.length ++ toBytes 4 seq ++ toBytes 8 tag ++ body
  | .resend seq => toBytes 4 seq

/-- The CRC-32C of a frame: over its sequence number and what it carries (R31, log 97). -/
def frameCrc (seq : Nat) (bytes : List Byte) : Word := crc32c (toBytes 4 seq ++ bytes)

/-- A frame goes out under the next sequence number (R31). -/
def State.sendFrame (s : State) (m : HostMsg) : State :=
  { s with dev := { s.dev with
      out := s.dev.out ++ [.frame s.dev.txSeq (frameCrc s.dev.txSeq m.bytes) m], txSeq := (s.dev.txSeq + 1) % 2 ^ 32 } }

/-- A message goes out, or is held while no Utenaurn lane is live (R32). -/
def State.emit (s : State) (m : HostMsg) : State :=
  if s.dev.rmap.lanes = 0 then { s with dev := { s.dev with heldOut := s.dev.heldOut ++ [m] } } else s.sendFrame m

/-- What goes out on UALink, whichever ports are up (DESIGN CHOICE, log 98). -/
def State.send (s : State) (m : Sent) : State := { s with dev := { s.dev with out := s.dev.out ++ [m] } }

/-- A completion (R64). -/
def State.complete (s : State) (ctx tag status detail value : Nat) : State :=
  s.emit (.host 0x80 ctx 0 tag (toBytes 2 status ++ toBytes 2 detail ++ toBytes 4 0 ++ toBytes 8 value))

/-- The gang field of an event that concerns no gang (R67). -/
def noGang : Nat := 0xFFFFFFFF

/-- A context event (R67). -/
def State.event (s : State) (ctx ev cause gang info : Nat) : State :=
  s.emit (.host 0x83 ctx 0 0 (toBytes 2 ev ++ toBytes 2 cause ++ toBytes 4 gang ++ toBytes 8 info))

/-- The index of a gang by its id, as events name it. -/
def State.gangIndex (s : State) (g : Option Nat) : Nat :=
  match g.bind s.gang? with
  | some g => g.index
  | none => noGang

/-- Is the gang live (R47): placed, pre-empted or suspended, and not yet ended or killed? -/
def GangSt.live : GangSt → Bool
  | .placed | .leaving | .saved => true
  | .pending | .dying | .done => false

/-- Does the gang hold its cores: placed, still leaving them, or killed with operations still to run out (R303)? -/
def GangSt.holds : GangSt → Bool
  | .placed | .leaving | .dying => true
  | .pending | .saved | .done => false

/-- Is a context held back from running: overdue (R49), halted (R68), restored and not resumed (R86), or under a checkpoint
order (R83)? -/
def State.barred (s : State) (c : Ctx) : Bool :=
  c.overdue || c.halted || c.restored || (match s.dev.ckpt with | some o => o.mask.getLsbD c.id | none => false)

/-- Gangs whose context may run need no forced rollback (R49, R83). -/
def State.unforce (s : State) : State :=
  { s with gangs := s.gangs.map (fun (g : Gang) =>
      if (s.ctx? g.ctx).any s.barred then g else { g with region := { g.region with forced := false } }) }

/-- A change of the map (R45, R46, R47, R48): the contents, the version one higher, the message to the host, and a version
owed by every context with a live gang. A map that is not published has no version to change (R36). -/
def State.publish (s : State) (cause detail : Nat) (f : RMap → RMap) : State :=
  let m := f s.dev.rmap
  if !m.published then { s with dev := { s.dev with rmap := m } } else
  let v := m.version + 1
  let s := { s with dev := { s.dev with
    rmap := { m with version := v, changedAt := s.stamp, cause := cause, detail := detail } } }
  let owes (c : Ctx) : Bool := s.gangs.any (fun g => g.ctx == c.id && g.st.live)
  let s := { s with ctxs := s.ctxs.map (fun c =>
    if owes c then { c with owed := c.owed ++ [Owed.mk v (s.time + c.policy.grace * 1000000) c.policy.grace] }
    else c) }
  s.emit (.host 0x81 0xFF 0 0 (toBytes 8 v ++ toBytes 2 cause ++ toBytes 2 detail ++ toBytes 4 0))

def State.publishCore (s : State) (cause core : Nat) (f : CoreEnt → CoreEnt) : State :=
  s.publish cause core (fun (m : RMap) => { m with cores := setBy core (f (m.coreEnt core)) m.cores })

def State.publishStack (s : State) (cause st : Nat) (f : StackEnt → StackEnt) : State :=
  s.publish cause st (fun (m : RMap) => { m with stackEnts := setBy st (f ((lookupBy st m.stackEnts).getD {})) m.stackEnts })

/-! ## Home memory -/

/-- Is the 64-byte unit poisoned (R306), on a lost stack (R8), or in a tier page whose write was cut off (R14)? -/
def State.unitBad (s : State) (pa : Nat) : Bool :=
  s.poison.contains (pa / 64) || s.dev.partial_.any (fun p => p.1 == pa / pageBytes) || (decide (pa < tierBase) && s.stackLost (stackOf (pa / pageBytes)))

/-- A byte and a word at their home, whoever owns the word. -/
def State.homeByte (s : State) (pa : Nat) : Byte := readByte s.mem pa
def State.homeWord (s : State) (pa : Nat) : PWord :=
  { val := BitVec.ofNat 32 (readNat s.mem pa 4), mark := s.unitBad pa }

/-- A page changes under those that watch it (R141): entries end, lookups that registered it are stale. `by_` is the context
whose write, or reu.inv, it is: its INVAL counts the valid entries (R145). -/
def State.unwatch (s : State) (by_ : Option Nat) (page : Nat) : State :=
  let hits := (s.reuse.filter (fun r => r.st == 1 && r.watch.contains page)).length
  let reuse := (s.reuse.map (fun r => if r.st = 2 ∧ r.watch.contains page then { r with st := 3 } else r)).filter
    (fun r => !(r.st == 1 && r.watch.contains page))
  let spawns := s.spawns.map (fun p => if p.pages.contains page then
    { p with stale := true, dropHit := true } else
    match p.hit with
    | some (d, st, w) =>
      if s.reuse.any (fun r => r.die == d && r.set == st && r.way == w && r.st == 1 && r.watch.contains page) then
        { p with dropHit := true } else p
    | none => p)
  let s := { s with reuse := reuse, spawns := spawns }
  match by_ with
  | some c => s.updCtx c (fun c => { c with reuse := { c.reuse with inval := (c.reuse.inval + hits) % 2 ^ 64 } })
  | none => s

/-- A write reaches a page (R268, R141): the page is dirty, and what watches it hears. -/
def State.touchPage (s : State) (by_ : Option Nat) (page : Nat) : State :=
  { s with dirty := setBy page s.dev.nextCkpt s.dirty }.unwatch by_ page

/-- One byte of a write, with its mark. -/
structure Put where
  pa : Nat
  byte : Byte
  mark : Bool := false
  deriving DecidableEq, Repr

def putsOf (pa : Nat) : List (Byte × Bool) → List Put
  | [] => []
  | b :: t => { pa := pa, byte := b.1, mark := b.2 } :: putsOf (pa + 1) t

def putsOfWord (pa : Nat) (w : PWord) : List Put := putsOf pa ((toBytes 4 w.val.toNat).map (fun b => (b, w.mark)))

/-- The distinct keys of a list, in rising order. -/
def keysOf (f : Put → Nat) (ps : List Put) : List Nat := ps.foldl (fun ks p => addSet (f p) ks) []

/-- A unit's mark after a write (R532): set by a marked byte, cleared by a clean write of the whole unit, else kept. -/
def unitAfter (unit : Nat) (size : Nat) (ps : List Put) (bad : List Nat) : List Nat :=
  let mine := ps.filter (fun p => p.pa / size == unit)
  if mine.any (fun p => p.mark) then addSet unit bad
  else if (keysOf (fun p => p.pa) mine).length = size then delSet unit bad
  else bad

/-- A tier page that was cut off reads as data again once all its words have been written (R14). -/
def State.rewritePartial (s : State) (ps : List Put) : State :=
  let words (page : Nat) (ws : List Nat) : List Nat :=
    (ps.filter (fun p => p.pa / pageBytes == page)).foldl (fun ws p => addSet (p.pa / 4) ws) ws
  { s with dev := { s.dev with partial_ :=
      (s.dev.partial_.map (fun (p : Nat × List Nat) => (p.1, words p.1 p.2))).filter (fun p => decide (p.2.length < pageBytes / 4)) } }

/-- One write at its homes, applied (R268): bytes and poison units; then dirty and watched pages. No owner is recalled. A
word that only goes home from its owner was written when it registered, so its page is not touched again. -/
def State.layHome (s : State) (ps : List Put) : State :=
  let s := if s.dev.partial_.isEmpty then s else s.rewritePartial ps
  { s with
    mem := ps.foldl (fun m p => writeByte m p.pa p.byte) s.mem
    poison := (keysOf (fun p => p.pa / 64) ps).foldl (fun bad u => unitAfter u 64 ps bad) s.poison }

def State.touchPages (s : State) (by_ : Option Nat) (ps : List Put) : State :=
  (keysOf (fun p => p.pa / pageBytes) ps).foldl (fun s page => s.touchPage by_ page) s

def State.writeHome (s : State) (by_ : Option Nat) (ps : List Put) : State := (s.layHome ps).touchPages by_ ps

/-! ## Ownership and L1 -/

def Core.l1? (c : Core) (pa : Nat) : Option L1Word := c.l1.find? (fun w => w.pa == pa)

/-- Is the 32-byte sector poisoned in the core's L1? -/
def Core.sectorBad (c : Core) (pa : Nat) : Bool := c.l1Marks.contains (pa / 32)

/-- The core that owns a word. -/
def State.ownerOf (s : State) (pa : Nat) : Option Nat := lookupBy (pa / 4) s.directory

/-- Current value of a word (R268). -/
def State.current (s : State) (pa : Nat) : PWord :=
  match s.ownerOf pa with
  | some c =>
    match (s.coreAt c).l1? pa with
    | some w => { val := w.val, mark := (s.coreAt c).sectorBad pa }
    | none => s.homeWord pa
  | none => s.homeWord pa

/-- Current bytes from an address. -/
def State.currentBytes (s : State) (pa : Nat) : Nat → List (Byte × Bool)
  | 0 => []
  | n + 1 =>
    let w := s.current (pa / 4 * 4)
    (BitVec.ofNat 8 (w.val.toNat / 256 ^ (pa % 4)), w.mark) :: s.currentBytes (pa + 1) n

/-- Sector marks of L1 words that are no longer there are dropped. -/
def Core.tidyMarks (c : Core) : Core :=
  { c with l1Marks := c.l1Marks.filter (fun k => c.l1.any (fun w => w.pa / 32 == k)) }

/-- The lines of a core are recalled (R255): its dirty words of them go home, its ownership ends, its data stays valid. -/
def State.recallFrom (s : State) (core : Nat) (lines : List Nat) : State :=
  let mine := s.directory.filter (fun d => d.2 == core && lines.contains (d.1 / 32))
  let c := s.coreAt core
  let puts := (mine.map (fun d =>
    match c.l1? (d.1 * 4) with
    | some w => putsOfWord w.pa { val := w.val, mark := c.sectorBad w.pa }
    | none => [])).flatten
  let s := if puts.isEmpty then s else s.layHome puts
  let s := { s with directory := s.directory.filter (fun d => !(d.2 == core && lines.contains (d.1 / 32))) }
  if mine.isEmpty then s else
  s.updCore core (fun c => { c with l1 := c.l1.map (fun w =>
    if w.owned && lines.contains (w.pa / 128) then { w with dirty := false, owned := false } else w) })

/-- Lines recalled from every owner but `keep`. -/
def State.recall (s : State) (keep : Option Nat) (lines : List Nat) : State :=
  let owners := (s.directory.filter (fun d => lines.contains (d.1 / 32) && keep != some d.2)).map (fun d => d.2)
  owners.foldl (fun s c => s.recallFrom c lines) s

/-- A write of an engine, an atomic or a peer: owners recalled, then applied (R255, R274). -/
def State.writeMem (s : State) (by_ : Option Nat) (ps : List Put) : State :=
  (s.recall none (keysOf (fun p => p.pa / 128) ps)).writeHome by_ ps

/-- The home slice of a line, as one number (R253). -/
def lineHome (line : Nat) : Nat := 64 * homeDie (line * 128) + homeSlice (line * 128)

/-- Entries of a slice's directory (R255). -/
def directoryLines : Nat := 24576

/-- Lines that a slice's directory holds. -/
def State.homeLines (s : State) (home : Nat) : List Nat :=
  s.directory.foldl (fun ls d => if lineHome (d.1 / 32) = home then addSet (d.1 / 32) ls else ls) []

/-- A line of a store gets its entry of its home's directory: a full one gives up the entry of its lowest line that the
store does not touch, which is recalled (R255; which line, log 2). -/
def State.directoryRoom (stored : List Nat) (s : State) (line : Nat) : State :=
  if s.directory.length < directoryLines then s
  else
    let ls := s.homeLines (lineHome line)
    if ls.contains line || decide (ls.length < directoryLines) then s
    else s.recall none ((ls.filter (fun l => !stored.contains l)).take 1)

/-- A core's stores to local words register (R269), each word whole: others are recalled, the core owns the words with
these values. A store that keeps no copy (R434), or whose context was swapped out since, goes home with its data. -/
def State.register (s : State) (core ctx : Nat) (keepCopy : Bool) (ws : List (Nat × PWord)) : State :=
  let ps := (ws.map (fun w => putsOfWord w.1 w.2)).flatten
  if keepCopy && decide (core < bankBase) then
    let lines := keysOf (fun p => p.pa / 128) ps
    let s := lines.foldl (State.directoryRoom lines) (s.recall (some core) lines)
    let owned (d : List (Nat × Nat)) (w : Nat × PWord) : List (Nat × Nat) := setBy (w.1 / 4) core d
    let s := { s with directory := ws.foldl owned s.directory }
    let s := s.touchPages (some ctx) ps
    let held (x : L1Word) : Bool := ws.any (fun w => w.1 == x.pa)
    let new : List L1Word := ws.map (fun w => L1Word.mk w.1 w.2.val true true false)
    s.updCore core (fun c =>
      { c with
        l1 := (c.l1.filter (fun x => !held x)) ++ new
        l1Marks := (keysOf (fun p => p.pa / 32) ps).foldl (fun bad u => unitAfter u 32 ps bad) c.l1Marks })
  else
    let s := s.writeMem (some ctx) ps
    let held (x : L1Word) : Bool := ws.any (fun w => w.1 == x.pa)
    s.updCore core (fun c => { c with l1 := c.l1.filter (fun x => !held x) }.tidyMarks)

/-- The words of a 32-byte sector. -/
def sectorWords (pa : Nat) : List Nat := (List.range 8).map (fun i => pa / 32 * 32 + 4 * i)

/-- A sector becomes valid in a core's L1 (R250, R270): each of its words that the core does not own, at its current value. -/
def State.fill (s : State) (core pa : Nat) (ro : Bool) : State :=
  let c := s.coreAt core
  let own := (c.l1.filter (fun x => x.pa / 32 == pa / 32 && x.owned))
  let got := ((sectorWords pa).filter (fun a => !own.any (fun x => x.pa == a))).map (fun a => (a, s.current a))
  let bad := got.any (fun x => x.2.mark) || (!own.isEmpty && c.sectorBad pa)
  s.updCore core (fun c => { c with
    l1 := c.l1.filter (fun x => x.pa / 32 != pa / 32 || x.owned) ++
      got.map (fun x => { pa := x.1, val := x.2.val, dirty := false, owned := false, ro := ro })
    l1Marks := if bad then addSet (pa / 32) c.l1Marks else delSet (pa / 32) c.l1Marks })

/-- The lines a core has pinned (R283). -/
def State.pinnedLines (s : State) (core : Nat) : List Nat :=
  (s.gangs.map (fun g => (g.region.lines.filter (fun n => n.core == core && !n.spilled)).map (fun n => n.line))).flatten

/-- A line leaves a core's L1 (R250, R255): its dirty words go home first. -/
def State.evictLine (s : State) (core line : Nat) : State :=
  (s.recallFrom core [line]).updCore core (fun c => { c with l1 := c.l1.filter (fun w => w.pa / 128 != line) }.tidyMarks)

/-- A load of a word by a core (R270): a valid copy of its L1, else the current value, whose sector becomes valid there
unless the form keeps it out. `fresh`: the line was evicted before, unless the core owns the word or has the line pinned. -/
def State.loadWord (s : State) (core pa : Nat) (fresh alloc ro : Bool) : PWord × State :=
  let miss (s : State) : PWord × State := (s.current pa, if alloc then s.fill core pa ro else s)
  match (s.coreAt core).l1? pa with
  | some w =>
    if w.owned || !fresh || (s.pinnedLines core).contains (pa / 128) then
      ({ val := w.val, mark := (s.coreAt core).sectorBad pa },
        if ro && !w.ro then s.updCore core (fun c => { c with l1 := c.l1.map (fun x =>
          if x.pa = pa then { x with ro := true } else x) }) else s)
    else miss (s.evictLine core (pa / 128))
  | none => miss s

/-- An acquire of a core (R272): words it does not own go, but those of the read-only space and of pinned lines. -/
def State.acquire (s : State) (core : Nat) : State :=
  let pins := s.pinnedLines core
  s.updCore core (fun c =>
    { c with l1 := c.l1.filter (fun w => w.owned || w.ro || pins.contains (w.pa / 128)) }.tidyMarks)

/-- inv.l1 drops the words of the read-only space as well (R442). -/
def State.invalidateL1 (s : State) (core : Nat) : State :=
  let pins := s.pinnedLines core
  s.updCore core (fun c => { c with l1 := c.l1.filter (fun w => w.owned || pins.contains (w.pa / 128)) }.tidyMarks)

/-- A core's copies of words leave its L1, after going home where it owned them (R257, R274). -/
def State.invalidateWords (s : State) (core : Nat) (lo hi : Nat) : State :=
  let c := s.coreAt core
  let mine := c.l1.filter (fun w => lo ≤ w.pa + 3 && w.pa < hi)
  if mine.isEmpty then s else
  let s := s.recallFrom core (mine.map (fun w => w.pa / 128))
  s.updCore core (fun c => { c with l1 := c.l1.filter (fun w => !(lo ≤ w.pa + 3 && w.pa < hi)) }.tidyMarks)

/-- A core's owned words all go home and stay valid (R442, R114). -/
def State.writeBackL1 (s : State) (core : Nat) : State :=
  s.recallFrom core (((s.coreAt core).l1.filter (fun w => w.owned)).map (fun w => w.pa / 128))

/-! ## Ways to other packages (R21 to R24) -/

/-- The package that a request or response to another goes to first (R22, R24): itself in this pod, else a relay package of
its pod's entry that is not down. The model takes a relay package as down while the lost-peer table holds it, and the first
that is not down of those an entry names (DESIGN CHOICE, log 99). -/
def RMap.via (m : RMap) (self pkg : Nat) : Option Nat :=
  if pkg / 1024 = self / 1024 then some pkg
  else (((lookupBy (pkg / 1024) m.relay).getD []).find? (fun id =>
    id != 0xFFFF && !m.lostPeers.contains (self / 1024 * 1024 + id))).map (fun id => self / 1024 * 1024 + id)

/-- Does the relay table lead to a package (R24)? -/
def RMap.routes (m : RMap) (self pkg : Nat) : Bool := (m.via self pkg).isSome

/-- A request goes out, to the package itself or the relay package that leads to it (R22); with none it does not. -/
def State.sendRequest (s : State) (op pkg pa : Nat) (kind : PeerKind) : State :=
  match s.dev.rmap.via s.dev.pkg pkg with
  | some v => s.send (.request op v pkg pa kind)
  | none => s

def WireWord.ofP (w : PWord) : WireWord := { val := w.val, mark := w.mark }
def WireWord.toP (w : WireWord) : PWord := { val := w.val, mark := w.mark }

/-! ## Translation (R259 to R263) -/

/-- What a walk finds. -/
inductive Walk where
  | invalid
  | poisoned
  | found (pte : Nat)
  deriving DecidableEq, Repr

/-- The entry of a node for an address: levels 1, 2 and 3. -/
def pteIndex (level va : Nat) : Nat := field va (43 - 13 * (level - 1)) 13

def walkLevel (s : State) (va : Nat) : List Nat → Nat → Walk
  | [], _ => .invalid
  | level :: deeper, node =>
    let at_ := node + 8 * pteIndex level va
    if s.unitBad at_ then .poisoned
    else
      let e := readNat s.mem at_ 8
      if !bitOf e 0 then .invalid
      else if deeper.isEmpty then .found e
      else walkLevel s va deeper (field e 16 36 * 65536)

/-- The walk of an address from a context's root (R259). -/
def State.walk (s : State) (root va : Nat) : Walk := walkLevel s va [1, 2, 3] root

/-- The fields of a level-3 entry (R261). -/
def pteTenant (e : Nat) : Nat := field e 48 16
def ptePkg (e : Nat) : Nat := field e 50 14
def ptePpn (e : Nat) : Nat := field e 13 35
def pteSize (e : Nat) : Nat := field e 11 2
def pteR (e : Nat) : Bool := bitOf e 10
def ptePT (e : Nat) : Bool := bitOf e 9
def pteX (e : Nat) : Bool := bitOf e 7
def pteW (e : Nat) : Bool := bitOf e 6

/-- Small pages in a page of a SIZE code (R262). -/
def sizePages (size : Nat) : Nat := if size = 0 then 1 else if size = 1 then 64 else 4096

/-- Where an address lies, by its entry. -/
def ptePa (e va : Nat) : Nat := ptePpn e * pageBytes + va % (sizePages (pteSize e) * pageBytes)

/-- Who accesses, for the checks of R263. -/
inductive Access where
  | load | store | ro | fetch | engineRead | engineFill
  deriving DecidableEq, Repr

/-- What translation and its checks give. -/
inductive Xlat where
  | cause (c : Nat)
  | invalid
  | ok (loc : Loc) (pt : Bool) (writable : Bool)
  deriving DecidableEq, Repr

/-- The checks of R263 on an entry, in the table's order. -/
def checkPte (cx : Ctx) (k : Access) (va e : Nat) : Xlat :=
  if !pteR e && pteTenant e != cx.tenant then .cause 6
  else if k == .store && !pteW e then .cause 6
  else if k == .ro && pteW e then .cause 6
  else if k == .fetch && !pteX e then .cause 6
  else if pteR e && (k == .fetch || k == .ro || k == .engineFill) then .cause 6
  else .ok (if pteR e then .remote (ptePkg e) (ptePa e va) else .home (ptePa e va))
    (ptePT e && cx.policy.tolerant) (pteW e)

/-- Translation of an address (R259, R261, R263, R265): causes 5 translation, 6 permission, 10 poison consumed. -/
def State.xlate (s : State) (cx : Ctx) (k : Access) (va : Nat) : Xlat :=
  if va ≥ 2 ^ 56 then .cause 5
  else match s.walk cx.root va with
    | .invalid => .invalid
    | .poisoned => .cause 10
    | .found e => checkPte cx k va e

/-- The local address of a virtual one for the device's own accesses, when it is mapped. -/
def State.localPa (s : State) (cx : Ctx) (k : Access) (va : Nat) : Option Nat :=
  match s.xlate cx k va with
  | .ok (.home pa) _ _ => some pa
  | _ => none

/-- The device's own accesses to a context's local memory at virtual addresses: they are no writes of the context's own, so
INVAL does not count what they invalidate (R145). -/
def State.readVa (s : State) (cx : Ctx) (va n : Nat) : List (Byte × Bool) :=
  match n with
  | 0 => []
  | n + 1 =>
    (match s.localPa cx .load va with
      | some pa => (s.currentBytes pa 1).getD 0 (0, false)
      | none => (0, false)) :: s.readVa cx (va + 1) n

def State.writeVa (s : State) (cx : Ctx) (va : Nat) (bs : List (Byte × Bool)) : State :=
  let puts := ((indexed bs).filterMap (fun b =>
    match s.localPa cx .load (va + b.1) with
    | some pa => some { pa := pa, byte := b.2.1, mark := b.2.2 }
    | none => none))
  if puts.isEmpty then s else s.writeMem none puts

/-- The words that bytes fill, the last one padded with zeros. -/
def wordsOfBytes (bs : List (Byte × Bool)) : List PWord :=
  (List.range (ceilDiv bs.length 4)).map (fun i =>
    let mine := (bs.drop (4 * i)).take 4
    { val := BitVec.ofNat 32 (ofBytes (mine.map (fun b => b.1))), mark := mine.any (fun b => b.2) })

/-- A write of the device's own to a page of another package: a request, which no wave waits for, of the gang it is made for. -/
def State.farWrite (s : State) (cx : Ctx) (gang : Option Nat) (va pkg pa : Nat) (bs : List (Byte × Bool)) : State :=
  let (id, s) := s.fresh
  let ws := wordsOfBytes bs
  let o : Op :=
    { id := id, wave := 0, gang := gang, ctx := cx.id, core := 0, lanes := 0, ctr := none, at_ := s.time
      body := .store bs.length true true [({ lane := 0, va := va, loc := .remote pkg pa }, ws)]
      waitSince := some s.time, cut := if s.dev.rmap.routes s.dev.pkg pkg then [] else [0] }
  { s with ops := s.ops ++ [o] }.sendRequest id pkg pa (.write bs.length (ws.map WireWord.ofP))

/-- Bytes cut at page boundaries: each piece with its address. -/
def pagePieces (va : Nat) (bs : List (Byte × Bool)) : List (Nat × List (Byte × Bool)) :=
  (List.range ((va % pageBytes + bs.length + pageBytes - 1) / pageBytes)).map (fun i =>
    let lo := i * pageBytes - va % pageBytes
    (va + lo, (bs.take ((i + 1) * pageBytes - va % pageBytes)).drop lo))

/-- A write of the device's own for a gang, on this package or, where a page lies on another, there (R21, R77). -/
def State.writeOut (s : State) (cx : Ctx) (gang : Option Nat) (va : Nat) (bs : List (Byte × Bool)) : State :=
  (pagePieces va bs).foldl (fun (s : State) (x : Nat × List (Byte × Bool)) => match s.xlate cx .load x.1 with
    | .ok (.remote pkg pa) _ _ => s.farWrite cx gang x.1 pkg pa x.2
    | _ => s) (s.writeVa cx va bs)

/-- Plain numbers at virtual addresses (control blocks, rings). -/
def State.readVaNat (s : State) (cx : Ctx) (va n : Nat) : Nat := ofBytes ((s.readVa cx va n).map (fun b => b.1))
def State.writeVaNat (s : State) (cx : Ctx) (va n v : Nat) : State :=
  s.writeVa cx va ((toBytes n v).map (fun b => (b, false)))

/-- Is every page of a range mapped valid and writable? -/
def State.rangeWritable (s : State) (cx : Ctx) (va n : Nat) : Bool :=
  (List.range ((va + n - 1) / pageBytes - va / pageBytes + 1)).all (fun i =>
    match s.xlate cx .store ((va / pageBytes + i) * pageBytes) with
    | .ok _ _ _ => true
    | _ => false)

/-- Does every page of a range lie on this package? -/
def State.rangeHere (s : State) (cx : Ctx) (va n : Nat) : Bool :=
  (List.range ((va + n - 1) / pageBytes - va / pageBytes + 1)).all (fun i =>
    (s.localPa cx .load ((va / pageBytes + i) * pageBytes)).isSome)

/-! ## The free pool (R8, R56, R252, R259; log 7) -/

def Pool_.isFree (p : Pool_) (page : Nat) : Bool :=
  !(p.used.contains page) && !(p.clearing.contains page) && !(p.withheld.contains page) &&
    decide (page < hbmPages - savePages)

/-- The lowest free page of a stack, searching `fuel` rows. -/
def freeRow (p : Pool_) (st : Nat) : Nat → Nat → Option Nat
  | 0, _ => none
  | fuel + 1, row =>
    let page := 12 * row + st
    if page ≥ hbmPages - savePages then none
    else if p.isFree page then some page
    else freeRow p st fuel (row + 1)

/-- Pages named by the pool's lists: one more row than that holds a free one, if any is left. -/
def Pool_.fuel (p : Pool_) : Nat := p.used.length + p.clearing.length + p.withheld.length + 1

/-- The first page of the rotation's stacks. -/
def State.pickPage (s : State) : List Nat → Option (Nat × Nat)
  | [] => none
  | k :: t =>
    let st := (s.pool.rotor + k) % 12
    if s.stackLost st then s.pickPage t
    else match freeRow s.pool st s.pool.fuel 0 with
      | some p => some (p, st)
      | none => s.pickPage t

/-- A page taken from the free pool, in rotation over the live stacks. -/
def State.grabPage (s : State) : Option (Nat × State) :=
  match s.pickPage [0, 1, 2, 3, 4, 5, 6, 7, 8, 9, 10, 11] with
  | some (p, st) =>
    some (p, { s with pool := { s.pool with used := addSet p s.pool.used, rotor := (st + 1) % 12 } })
  | none => none

/-- A page for anything but a spill: a spill that waits comes first (R115). -/
def State.spillWaits (s : State) : Bool := s.cores.any (fun c => match c.shadow with | .waiting _ _ _ => true | _ => false)
def State.takePage (s : State) : Option (Nat × State) := if s.spillWaits then none else s.grabPage

/-- The lowest aligned free run of n pages. -/
def freeRun (p : Pool_) (n : Nat) : Nat → Nat → Option Nat
  | 0, _ => none
  | fuel + 1, at_ =>
    if at_ + n > hbmPages - savePages then none
    else if (p.used ++ p.clearing ++ p.withheld).any (fun q => at_ ≤ q && q < at_ + n) then freeRun p n fuel (at_ + n)
    else some at_

/-- A page of a SIZE code taken from the free pool; no large page while a stack is lost (R8). -/
def State.takeSized (s : State) (size : Nat) : Option (Nat × State) :=
  if size = 0 then s.takePage
  else if (List.range 12).any s.stackLost || s.spillWaits then none
  else match freeRun s.pool (sizePages size) (s.pool.fuel + 1) 0 with
    | some p => some (p, { s with pool := { s.pool with
        used := (List.range (sizePages size)).foldl (fun u i => addSet (p + i) u) s.pool.used } })
    | none => none

/-- A page enters the Groom's clearing queue (R56); a retired one goes nowhere (R55). -/
def State.freePage (s : State) (p : Nat) : State :=
  { s with pool := { s.pool with
    used := delSet p s.pool.used
    clearing := if s.pool.clearing.contains p || s.pool.withheld.contains p then s.pool.clearing else s.pool.clearing ++ [p] } }

/-! ## Trace records (R332) -/

/-- The sequence number of a core advances (R332). -/
def State.nextSeqNo (s : State) (core : Nat) : Nat × State :=
  ((s.coreAt core).seqNo, s.updCore core (fun c => { c with seqNo := (c.seqNo + 1) % 2 ^ 32 }))

/-- A trace record of a core, when the context's ring is set: the ring's pages are overwritten from the oldest. A trap
entry advances the core's number whether or not it is traced. -/
def State.trace (s : State) (ctx core ev cause pc info : Nat) : State :=
  match s.ctx? ctx with
  | none => s
  | some cx =>
    if core ≥ bankBase then s
    else if cx.trbase.toNat = 0 then
      if ev = 1 then (s.nextSeqNo core).2 else s
    else
      let (n, s) := s.nextSeqNo core
      let base := field cx.trbase.toNat 17 39 * pageBytes
      let len := (field cx.trbase.toNat 0 8 + 1) * 4096
      let va := base + 32 * (cx.traceIdx % len)
      let bs := toBytes 8 s.stamp ++ toBytes 4 n ++ toBytes 2 core ++ toBytes 1 ev ++ toBytes 1 cause ++ toBytes 8 pc ++
        toBytes 8 info
      (s.writeOut cx none va (bs.map (fun b => (b, false)))).updCtx ctx (fun c => { c with traceIdx := c.traceIdx + 1 })

end Sys2Proof.Machine
end

