-- ==== Sys2Proof/Machine/TaskArea.lean ====
section
/-! DEFINITION. Continuation records and the task area (R120 to R123, R133, R134), join words (R125), and the errors a
gang is charged with (R307). -/

namespace Sys2Proof.Machine

/-! ## Records -/

/-- The 128 bytes of a record (R120). -/
def Rec.bytes (r : Rec) : List Byte :=
  toBytes 8 r.pc ++ toBytes 8 r.join ++ toBytes 2 r.tenant ++ toBytes 1 r.ctx ++ toBytes 1 r.kind ++ toBytes 1 r.nreg ++
  toBytes 1 r.dbase ++ toBytes 1 r.depth ++ toBytes 1 0 ++ toBytes 2 r.launch ++ toBytes 2 r.poison.toNat ++
  toBytes 4 r.gang ++ ((slice 0 r.regs 0 16).map (fun w => toBytes 4 w.toNat)).flatten ++
  ((slice 0 r.tail 0 8).map (fun w => toBytes 4 w.toNat)).flatten

/-- k words from an offset of a byte string. -/
def wordsAt (bs : List Byte) (lo : Nat) : Nat → List Word
  | 0 => []
  | k + 1 => BitVec.ofNat 32 (numAt bs lo 4) :: wordsAt bs (lo + 4) k

/-- The record 128 bytes hold. -/
def recOf (bs : List Byte) : Rec :=
  { pc := numAt bs 0 8, join := numAt bs 8 8, tenant := numAt bs 0x10 2, ctx := numAt bs 0x12 1, kind := numAt bs 0x13 1,
    nreg := numAt bs 0x14 1, dbase := numAt bs 0x15 1, depth := numAt bs 0x16 1, launch := numAt bs 0x18 2,
    poison := BitVec.ofNat 16 (numAt bs 0x1A 2), gang := numAt bs 0x1C 4, regs := wordsAt bs 0x20 16,
    tail := wordsAt bs 0x60 8 }

/-- Is a record read from the task area one the device writes (R134)? -/
def recOk (cx : Ctx) (bs : List Byte) : Bool :=
  let r := recOf bs
  let rest (lo n : Nat) : Bool := (slice 0 bs lo n).all (· == 0)
  decide (r.kind ≤ 5) && r.ctx == cx.id && r.tenant == cx.tenant && rest 7 1 && rest 0x17 1 &&
    (r.kind != 0 || rest 0x60 32) && (r.kind != 2 || rest 0x70 16) &&
    (r.kind != 1 || (rest 0x67 1 && field (numAt bs 0x7D 1) 1 7 == 0))

/-! ## The task area (R133) -/

def Ctx.ringSlots (c : Ctx) : Nat := c.taskPages * 1024
def Ctx.ringVa (c : Ctx) (i : Nat) : Nat := c.taskArea + pageBytes + 128 * (i % c.ringSlots)
def Ctx.poolVa (c : Ctx) (slot : Nat) : Nat := c.taskArea + (c.taskPages + 1) * pageBytes + 128 * (slot - 1)

def State.areaGet (s : State) (c : Ctx) (off n : Nat) : Nat := s.readVaNat c (c.taskArea + off) n
def State.areaSet (s : State) (c : Ctx) (off n v : Nat) : State := s.writeVaNat c (c.taskArea + off) n v

def State.ringCount (s : State) (c : Ctx) : Nat := (s.areaGet c 0x10 8 + 2 ^ 64 - s.areaGet c 0x08 8) % 2 ^ 64
def State.ringFull (s : State) (c : Ctx) : Bool := s.ringCount c == c.ringSlots

/-- The control block takes its reset values (R133). -/
def State.areaInit (s : State) (c : Ctx) : State :=
  s.writeVa c c.taskArea
    ((toBytes 4 c.taskPages ++ toBytes 4 0 ++ toBytes 8 0 ++ toBytes 8 0 ++ toBytes 4 1 ++ toBytes 100 0).map
      (fun b => (b, false)))

/-- A record is stored in the task area; the device keeps beside it the scene it runs under (R170). -/
def State.putRec (s : State) (c : Ctx) (va : Nat) (r : Rec) : State :=
  (s.writeVa c va (r.bytes.map (fun b => (b, false)))).updCtx c.id (fun c =>
    let rest := c.origins.filter (fun x => x.1 != va)
    { c with origins := if r.scene = 0 then rest else (va, r.scene) :: rest })

/-- The record that stands in the task area. -/
def State.recAt (s : State) (c : Ctx) (va : Nat) : Rec :=
  { recOf ((s.readVa c va 128).map (fun b => b.1)) with
    scene := ((s.ctx? c.id).bind (fun c => lookupBy va c.origins)).getD 0 }

/-- A record goes to the ring's tail. -/
def State.ringPush (s : State) (c : Ctx) (r : Rec) : State :=
  let tail := s.areaGet c 0x10 8
  (s.putRec c (c.ringVa tail) r).areaSet c 0x10 8 (tail + 1)

/-- The oldest ring record leaves, and with it, if malformed, one count of BADREC. -/
def State.ringPop (s : State) (c : Ctx) : Option Rec × State :=
  let head := s.areaGet c 0x08 8
  let bs := (s.readVa c (c.ringVa head) 128).map (fun b => b.1)
  let s := s.areaSet c 0x08 8 (head + 1)
  if recOk c bs then (some (s.recAt c (c.ringVa head)), s)
  else (none, s.updCtx c.id (fun c => { c with reuse := { c.reuse with badRec := (c.reuse.badRec + 1) % 2 ^ 64 } }))

/-- Has the park pool a free slot? -/
def State.poolHasFree (s : State) (c : Ctx) : Bool :=
  s.areaGet c 0x04 4 != 0 || decide (s.areaGet c 0x18 4 ≤ c.ringSlots)

/-- A free slot of the park pool, taken. -/
def State.poolTake (s : State) (c : Ctx) : Nat × State :=
  let free := s.areaGet c 0x04 4
  if free ≠ 0 then (free, s.areaSet c 0x04 4 (s.readVaNat c (c.poolVa free + 0x68) 4))
  else
    let u := s.areaGet c 0x18 4
    (u, s.areaSet c 0x18 4 (u + 1))

/-- A slot is freed: the chain of free slots begins with it. -/
def State.poolFree (s : State) (c : Ctx) (slot : Nat) : State :=
  (s.writeVaNat c (c.poolVa slot + 0x68) 4 (s.areaGet c 0x04 4)).areaSet c 0x04 4 slot

/-- Has a core's FIFO room for one more record of the context? -/
def State.fifoRoom (s : State) (core ctx : Nat) : Bool :=
  let c := s.coreAt core
  c.ctx == some ctx && decide (c.fifo.length < 256)

def State.fifoPush (s : State) (core : Nat) (r : Rec) : State :=
  s.updCore core (fun c => { c with fifo := c.fifo ++ [r] })

/-- A released waiter leaves its slot for dispatch (R134): for the FIFO of the core that released it, else for the ring, in
turn where others wait for room there. -/
def State.releaseSlot (s : State) (c : Ctx) (core slot : Nat) : State :=
  let bs := (s.readVa c (c.poolVa slot) 128).map (fun b => b.1)
  if !recOk c bs then
    (s.poolFree c slot).updCtx c.id
      (fun c => { c with reuse := { c.reuse with badRec := (c.reuse.badRec + 1) % 2 ^ 64 } })
  else if s.fifoRoom core c.id then (s.poolFree c slot).fifoPush core (s.recAt c (c.poolVa slot))
  else if !s.ringFull c && (s.ctx? c.id).all (fun c => c.released.isEmpty) then
    (s.ringPush c (s.recAt c (c.poolVa slot))).poolFree c slot
  else s.updCtx c.id (fun c => { c with released := c.released ++ [slot] })

/-- Every record of a chain of waiters is released. -/
def State.releaseChain (s : State) (c : Ctx) (core : Nat) : Nat → Nat → State
  | 0, _ => s
  | fuel + 1, slot =>
    if slot = 0 then s
    else
      let next := s.readVaNat c (c.poolVa slot + 0x68) 4
      State.releaseChain (s.releaseSlot c core slot) c core fuel next

/-- Released waiters enter the ring, earliest first, as it has room (R134). -/
def State.drainReleased (s : State) (c : Ctx) : List Nat → State
  | [] => s.updCtx c.id (fun c => { c with released := [] })
  | slot :: t =>
    if s.ringFull c then s.updCtx c.id (fun c => { c with released := slot :: t })
    else State.drainReleased ((s.ringPush c (s.recAt c (c.poolVa slot))).poolFree c slot) c t

/-- A record goes to dispatch from a core: its FIFO, or the ring when that is full or elsewhere (R134). The caller has
seen that one of them has room. -/
def State.dispatchRec (s : State) (c : Ctx) (core : Nat) (r : Rec) : State :=
  if s.fifoRoom core c.id then s.fifoPush core r else s.ringPush c r

/-- Is there room for one more record? -/
def State.taskRoom (s : State) (c : Ctx) (core : Nat) : Bool := s.fifoRoom core c.id || !s.ringFull c

/-! ## Errors of a gang (R297, R307) -/

/-- Is the gang inside a region before its commit point, and can it be replayed? -/
def Region.replayable (r : Region) : Bool := (r.st == 2 || r.st == 4) && !r.overflow
/-- Does the region hold back what its gang does (R283, R287): state 1, 2 or 4, its log not overflowed (R284)? -/
def Region.attempting (r : Region) : Bool := (r.st == 1 || r.st == 2 || r.st == 4) && !r.overflow

def Region.inside (r : Region) : Bool := r.st == 2 || r.st == 3 || r.st == 4

/-- An error is counted against a unit (R51). -/
def State.countError (s : State) (unit : HwUnit) (uncorrectable : Bool) : State :=
  { s with dev := { s.dev with errors := s.dev.errors ++ [(unit, uncorrectable, s.time)] } }

/-- A gang takes an error (R307): a rollback in a replayable region, else a kill. A kill outweighs a rollback; an error
during a rollback is one with it (R297), but takes the place of an abort's (R475). -/
def State.charge (s : State) (gang source : Nat) (core : Option Nat) : State :=
  s.updGang gang (fun g =>
    if !g.st.live || (g.region.st == 6 && (g.region.abort.isNone || g.doom.isSome)) then g else
    let d : Doom :=
      { source := source, core := core, cause := 0,
        reason := if g.region.inside && !g.region.replayable then 1 else 0, kill := !(g.region.replayable || g.region.st == 6) }
    match g.doom with
    | some old => if old.kill || !d.kill then g else { g with doom := some d }
    | none => { g with doom := some d })

/-- The launch a handle of 16 bits names (R120). -/
def State.launchOf (s : State) (handle : Nat) : Option Launch :=
  s.launches.find? (fun l => l.id % 65536 == handle)

/-- The gang a record names. -/
def State.gangOf (s : State) (launch idx : Nat) : Option Gang :=
  match s.launchOf launch with
  | some l => s.gangs.find? (fun g => g.launch == l.id && g.index == idx && g.st != .done)
  | none => none

/-! ## Join words (R125) -/

/-- A page request (R265): an event unless the page is already requested, held back beyond 4,096. -/
def State.requestPage (s : State) (ctx cause gangIdx va : Nat) : State :=
  match s.ctx? ctx with
  | none => s
  | some c =>
    let page := va / pageBytes
    if c.requests.contains page || c.queuedRequests.any (fun q => q.2.2 == page) then s
    else if c.requests.length < 4096 then
      (s.event ctx 3 cause gangIdx (page * pageBytes)).updCtx ctx
        (fun c => { c with requests := c.requests ++ [page] })
    else s.updCtx ctx (fun c => { c with queuedRequests := c.queuedRequests ++ [(cause, gangIdx, page)] })

/-- Does a page of a context's address space have a valid entry? -/
def State.mapped (s : State) (c : Ctx) (page : Nat) : Bool :=
  match s.walk c.root (page * pageBytes) with
  | .invalid => false
  | .poisoned | .found _ => true

/-- Does something of the context still wait for a page: an entry that parked for it, or an engine? -/
def State.awaited (s : State) (ctx page : Nat) : Bool :=
  let parked (e : Entry) : Bool := match e.block with
    | .park _ vas => vas.any (fun v => v.2 / pageBytes == page)
    | _ => false
  s.waves.any (fun w => w.ctx == ctx && (w.frontier ++ w.heldEntries).any parked) ||
    s.ops.any (fun o => o.ctx == ctx && o.pageSince.isSome)

/-- Held-back requests go out as there is room. -/
def State.postRequests (s : State) (ctx : Nat) : List (Nat × Nat × Nat) → State
  | [] => s.updCtx ctx (fun c => { c with queuedRequests := [] })
  | q :: t =>
    if (s.ctx? ctx).all (fun c => decide (4096 ≤ c.requests.length)) then
      s.updCtx ctx (fun c => { c with queuedRequests := q :: t })
    else State.postRequests ((s.event ctx 3 q.1 q.2.1 (q.2.2 * pageBytes)).updCtx ctx
      (fun c => { c with requests := c.requests ++ [q.2.2] })) ctx t

/-- Requests whose page has come, or for which nothing waits any more, close, and held-back ones go out (R265). -/
def State.settleRequests (s : State) (ctx : Nat) : State :=
  match s.ctx? ctx with
  | none => s
  | some c =>
    let open_ (page : Nat) : Bool := !s.mapped c page && s.awaited ctx page
    let s := s.updCtx ctx (fun c => { c with requests := c.requests.filter open_ })
    s.postRequests ctx (c.queuedRequests.filter (fun q => open_ q.2.2))

/-- A decrement that cannot be made (R125): the gang's error, or the context's report where the record names none. -/
def State.lostDecrement (s : State) (ctx launch gang source va : Nat) : State :=
  match s.gangOf launch gang with
  | some g => (s.updGang g.id (fun g => { g with lost := g.lost + 1 })).charge g.id source none
  | none => s.event ctx 7 source noGang va

/-- A decrement at a word's home (R125, R126): a count of 0 stays and counts in JOINUF; the last one clears the chain and
releases it. -/
def State.decrementAt (s : State) (c : Ctx) (core pa : Nat) : State :=
  let w := ofBytes ((s.currentBytes pa 8).map (fun b => b.1))
  let n := w % 2 ^ 32
  if n = 0 then
    s.updCtx c.id (fun c => { c with reuse := { c.reuse with joinUf := (c.reuse.joinUf + 1) % 2 ^ 64 } })
  else if n = 1 then
    (s.writeMem (some c.id) (putsOf pa ((toBytes 8 0).map (fun b => (b, false))))).releaseChain c core c.ringSlots
      (w / 2 ^ 32)
  else s.writeMem (some c.id) (putsOf pa ((toBytes 4 (n - 1)).map (fun b => (b, false))))

/-- A task's end or a pass's commit decrements a join word (R125): an engine access that waits for its page. -/
def State.joinDec (s : State) (ctx core launch gang va : Nat) : State :=
  match s.ctx? ctx with
  | none => s
  | some c =>
    if va = 0 then s
    else match s.xlate c .store va with
    | .ok (.home pa) _ _ =>
      if (s.current pa).mark || (s.current (pa + 4)).mark then s.lostDecrement ctx launch gang 3 va
      else s.decrementAt c core pa
    | .invalid =>
      let (id, s) := s.fresh
      let s := s.requestPage ctx 5 gang va
      { s with ops := s.ops ++ [{
          id := id, wave := 0, gang := (s.gangOf launch gang).map (fun g => g.id), ctx := ctx, core := core, lanes := 0,
          ctr := none, body := .join va core launch gang, at_ := s.time, pageSince := some s.time }] }
    | _ => s.lostDecrement ctx launch gang 8 va

/-- A spawn adds 1 to bits [31:0] of the join word (R124, R125). -/
def State.joinInc (s : State) (ctx pa : Nat) : State :=
  let n := ofBytes ((s.currentBytes pa 4).map (fun b => b.1))
  s.writeMem (some ctx) (putsOf pa ((toBytes 4 (n + 1)).map (fun b => (b, false))))

end Sys2Proof.Machine
end

