-- ==== Sys2Proof/Machine/Ops.lean ====
section
/-! DEFINITION. The operations instructions share: reading and writing registers of every kind (R209 to R225), the
frontier (R190 to R195), and taking a trap cause and returning from a handler (R311 to R325). -/

namespace Sys2Proof.Machine

/-! ## Words and values -/

def PWord.ofNat (n : Nat) : PWord := { val := BitVec.ofNat 32 n }
def PPair.words (p : PPair) : List PWord := [p.lo, p.hi]

/-- A pair that holds the low 64 bits of a number, unmarked. -/
def PPair.ofNat (n : Nat) : PPair := { lo := PWord.ofNat n, hi := PWord.ofNat (n / 2 ^ 32) }

/-- The same pair, both words marked if `bad`. -/
def PPair.marked (bad : Bool) (n : Nat) : PPair :=
  if bad then { lo := { PWord.ofNat n with mark := true }, hi := { PWord.ofNat (n / 2 ^ 32) with mark := true } } else PPair.ofNat n

/-- The unsigned value of words, low first. -/
def wordsVal : List PWord → Nat
  | [] => 0
  | w :: t => w.val.toNat + 2 ^ 32 * wordsVal t

def wordsOf : Nat → Nat → List PWord
  | 0, _ => []
  | k + 1, n => PWord.ofNat n :: wordsOf k (n / 2 ^ 32)

def anyMark (ws : List PWord) : Bool := ws.any (fun w => w.mark)

/-! ## Causes of R311 -/

def cIllegal : Nat := 0x01
def cRegion : Nat := 0x02
def cFrontier : Nat := 0x03
def cTarget : Nat := 0x04
def cTranslation : Nat := 0x05
def cPermission : Nat := 0x06
def cPurity : Nat := 0x07
def cAlign : Nat := 0x08
def cIndex : Nat := 0x09
def cPoison : Nat := 0x0A
def cSoftware : Nat := 0x0B
def cBreak : Nat := 0x0C
def cWatch : Nat := 0x0D
def cClaim : Nat := 0x0E
def cStale : Nat := 0x0F
def cDebug : Nat := 0x10

/-- A value, or the cause a lane raises instead. -/
abbrev Try (α : Type) := Except Nat α

/-- Two readings of one lane: the lane is recorded under its own highest-priority cause (R312). -/
def both {α β : Type} (x : Try α) (y : Try β) : Try (α × β) :=
  match x, y with
  | .ok a, .ok b => .ok (a, b)
  | .error c, .ok _ => .error c
  | .ok _, .error d => .error d
  | .error c, .error d => .error (min c d)

/-- All readings of one lane, under the same rule. -/
def allTry {α : Type} : List (Try α) → Try (List α)
  | [] => .ok []
  | x :: t => (both x (allTry t)).map (fun p => p.1 :: p.2)

/-- An unmarked value: reading a marked word is consumption (R225). -/
def consume (ws : List PWord) : Try Nat := if anyMark ws then .error cPoison else .ok (wordsVal ws)

/-- What an instruction raises (R312): lanes under each cause, and the address of a lane's access. -/
structure Raised where
  masks : List (Nat × Mask)
  addrs : List (Nat × Nat) := []
  deriving DecidableEq, Repr

abbrev Res := Except Raised State

/-- Causes by lane, gathered. -/
def raisedOf (ls : List (Nat × Nat)) (addrs : List (Nat × Nat) := []) : Raised :=
  { masks := (ls.foldl (fun ks x => addSet x.2 ks) []).map
      (fun c => (c, maskOf ((ls.filter (fun x => x.2 == c)).map (fun x => x.1)))),
    addrs := addrs }

/-- Two gatherings joined: a lane stays under its highest-priority cause. -/
def laneCauses (r : Raised) : List (Nat × Nat) :=
  laneList.filterMap (fun l =>
    match (r.masks.filter (fun m => hasLane m.2 l)).map (fun m => m.1) with
    | [] => none
    | c :: t => some (l, t.foldl min c))

/-! ## Registers of a lane (R209 to R217) -/

/-- Register n of a list of marked words; a register no list holds reads 0. -/
def wordAt (l : List PWord) (n : Nat) : PWord := l.getD n {}

def Lane.pred (l : Lane) (k : Nat) : Bool := k == 0 || l.p.getLsbD k

/-- Predicate k is written; p0 stays true (R212). -/
def Lane.setPred (l : Lane) (k : Nat) (b : Bool) : Lane :=
  if k = 0 then l
  else { l with p := if b then l.p ||| BitVec.ofNat 8 (2 ^ k) else l.p &&& ~~~ BitVec.ofNat 8 (2 ^ k) }

/-- Index register k is written; bits [31:24] are discarded (R211). -/
def Lane.setIndex (l : Lane) (k : Nat) (v : Nat) : Lane :=
  { l with x := putAt l.x k (BitVec.ofNat 32 (v % 2 ^ 24)) }

/-- The main register v[xk] names (R211, R217): the index-bound cause outside its window or the wave's registers, and at
an odd register of a pair. -/
def Lane.indexed (l : Lane) (k words regs : Nat) : Try Nat :=
  let x := (l.x.getD k 0).toNat
  let off := field x 0 8
  let reg := field x 8 8 + off
  if off ≥ field x 16 8 ∨ reg ≥ regs then .error cIndex
  else if words = 2 ∧ (reg % 2 = 1 ∨ reg + 1 ≥ regs) then .error cIndex
  else .ok reg

/-- A word as it is read out: the place it goes to checks it anew (R306). -/
def PWord.seen (w : PWord) : PWord := { w with par := false }

/-- k main registers from n. -/
def Lane.cells (l : Lane) (n : Nat) : Nat → List PWord
  | 0 => []
  | k + 1 => wordAt l.v n :: Lane.cells l (n + 1) k

/-- k main registers from n, read. -/
def Lane.main (l : Lane) (n k : Nat) : List PWord := (l.cells n k).map PWord.seen

/-- Where an operand is read: not at all, by a selector (R216), a scalar by number, or an immediate. `words` is its width
in 32-bit words. -/
inductive Pos where
  | none
  | sel (code words : Nat)
  | scalar (n words : Nat)
  | imm (v words : Nat)
  deriving DecidableEq, Repr

/-- Where a result goes: nowhere, by a selector (`lt`: whether the latch is a legal name), into a queue register. -/
inductive Dest where
  | none
  | sel (code words : Nat) (lt : Bool)
  | queue (n words : Nat)
  deriving DecidableEq, Repr

/-- Is a selector legal as a source of that width (R210, R213, R216, R431)? -/
def srcLegal (regs scalars code words : Nat) : Bool :=
  if code < 0xC0 then
    if words = 1 then decide (code < regs)
    else code % words == 0 && decide (code + words ≤ regs)
  else if code < 0xC8 then words == 1 || (words == 2 && code % 2 == 0)
  else if code ≤ 0xC9 then decide (words ≤ 2)
  else if code < 0xD0 then false
  else if code < 0xD8 then decide (words ≤ 2)
  else if code < 0xE0 then false
  else if code < 0xE8 then decide (words ≤ 2)
  else if code < 0xF0 then false
  else decide (words ≤ 2) && decide (code - 0xF0 < scalars)

def Pos.legal (regs scalars : Nat) : Pos → Bool
  | .none => true
  | .sel code words => srcLegal regs scalars code words
  | .scalar n _ => decide (n < scalars)
  | .imm _ _ => true

/-- Is a selector legal as D (R216): a source-only code is not, nor the latch where the form forbids it (R432)? -/
def Dest.legal (regs : Nat) : Dest → Bool
  | .none => true
  | .sel code words lt =>
    if code = 0xC8 then lt && decide (words ≤ 2)
    else if code = 0xC9 then true
    else decide (code < 0xE0) && srcLegal regs 0 code words
  | .queue _ words => decide (words ≤ 2)

/-- The words an operand names in a lane. Queue entries are those at the head; their pop is the instruction's (R224). -/
def Pos.cells (w : Wave) (lane : Lane) : Pos → Try (List PWord)
  | .none => .ok []
  | .imm v words => .ok (wordsOf words v)
  | .scalar n words => .ok (((w.scalars.getD n {}).words).take words)
  | .sel code words =>
    if code < 0xC0 then .ok (lane.cells code words)
    else if code < 0xC8 then .ok (((List.range words).map (fun i => wordAt lane.o (code - 0xC0 + i))))
    else if code = 0xC8 then .ok (lane.lt.words.take words)
    else if code = 0xC9 then .ok (wordsOf words 0)
    else if code < 0xD8 then (lane.indexed (code - 0xD0) words w.regs).map (fun r => lane.cells r words)
    else if code < 0xE8 then
      .ok ((List.range words).map (fun i => wordAt (lane.q.getD (code - 0xE0) []) i))
    else .ok (((w.scalars.getD (code - 0xF0) {}).words).take words)

/-- The words an operand reads in a lane, with their marks. -/
def Pos.read (w : Wave) (lane : Lane) (p : Pos) : Try (List PWord) := (p.cells w lane).map (fun ws => ws.map PWord.seen)

/-- An operand read as a value. -/
def Pos.val (w : Wave) (lane : Lane) (p : Pos) : Try Nat :=
  match p.read w lane with
  | .ok ws => consume ws
  | .error c => .error c

/-- The queue register an operand pops, and how many entries. -/
def Pos.pops : Pos → List (Nat × Nat)
  | .sel code words => if 0xE0 ≤ code ∧ code < 0xE8 then [(code - 0xE0, words)] else []
  | _ => []

/-- The register a destination names in a lane: main or operand file; none where the result is discarded or goes to the
latch alone. -/
def Dest.slot (regs : Nat) (lane : Lane) : Dest → Try Slot
  | .none => .ok .discard
  | .queue n _ => .ok (.q n)
  | .sel code words _ =>
    if code < 0xC0 then .ok (.v code)
    else if code < 0xC8 then .ok (.o (code - 0xC0))
    else if code < 0xD0 then .ok .discard
    else (lane.indexed (code - 0xD0) words regs).map Slot.v

/-- Words written from a slot on (R217: low word first; a queue takes each as an entry). -/
def Lane.put (lane : Lane) (s : Slot) (ws : List PWord) : Lane :=
  match s with
  | .v n => { lane with v := putMany lane.v n ws }
  | .o n => { lane with o := putMany lane.o n ws }
  | .q n => { lane with q := putAt lane.q n ((lane.q.getD n []) ++ ws) }
  | .discard => lane

/-- An A buffer is lost when a register of its range is written (R417). -/
def Wave.touchedA (w : Wave) (s : Slot) (words : Nat) : Wave :=
  match s with
  | .v n => { w with abufs := w.abufs.filter (fun b => !(decide (n < b.reg + b.len) && decide (b.reg < n + words))) }
  | _ => w

/-- The reuse latch loses its contents when a tagged register of a lane is written (R222). -/
def Wave.touched (w : Wave) (l : Nat) (s : Slot) (words : Nat) : Wave :=
  let w := w.touchedA s words
  match w.latch, s with
  | some t, .v n =>
    let r := t.regs.getD l 256
    if hasLane t.mask l && decide (n < r + t.words) && decide (r < n + words) then { w with latch := none } else w
  | _, _ => w

/-- Lane l of a wave is changed. -/
def Wave.updLane (w : Wave) (l : Nat) (f : Lane → Lane) : Wave :=
  { w with lanes := putAt w.lanes l (f (w.lanes.getD l {})) }

def Wave.lane (w : Wave) (l : Nat) : Lane := w.lanes.getD l {}

/-- Each listed lane takes what a function gives it. -/
def Wave.mapLanes (w : Wave) (f : Nat → Lane → Lane) : Wave :=
  { w with lanes := (indexed w.lanes).map (fun x => f x.1 x.2) }

/-- A landing (R433, R435): words go to a lane's slot. -/
def Wave.land (w : Wave) (l : Nat) (s : Slot) (ws : List PWord) : Wave :=
  (w.updLane l (fun lane => lane.put s ws)).touched l s ws.length

/-! ## Counters (R214) -/

def Counters.get (c : Counters) : Ctr → Nat
  | .ld => c.ld | .st => c.st | .cp => c.cp | .mx => c.mx | .ry => c.ry | .co => c.co

def Counters.add (c : Counters) (k : Ctr) (n : Int) : Counters :=
  let f (v : Nat) : Nat := ((v : Int) + n).toNat
  match k with
  | .ld => { c with ld := f c.ld } | .st => { c with st := f c.st } | .cp => { c with cp := f c.cp }
  | .mx => { c with mx := f c.mx } | .ry => { c with ry := f c.ry } | .co => { c with co := f c.co }

/-- All six, in the order of R454's mask. -/
def Counters.all (c : Counters) : List Nat := [c.ld, c.st, c.cp, c.mx, c.ry, c.co]

/-! ## The frontier (R190 to R195) -/

/-- Are two waits of one kind, so that entries at one instruction join (R194)? -/
def Block.sameKind : Block → Block → Bool
  | .none, .none => true
  | .barrier a, .barrier b => a == b
  | .sem k _, .sem j _ => k == j
  | .repack _, .repack _ => true
  | .rclaim n, .rclaim m => n == m
  | .park _ _, .park _ _ => true
  | .regionOpen, .regionOpen => true
  | .regionCommit, .regionCommit => true
  | _, _ => false

def Block.isPark : Block → Bool
  | .park _ _ => true
  | _ => false

/-- The wait of entries that join (R194): repack's keys and a park's pages are gathered. -/
def Block.merge : Block → Block → Block
  | .repack k, .repack j => .repack (k ++ j)
  | .park t p, .park u q => .park (min t u) (p ++ q.filter (fun x => !p.contains x))
  | b, _ => b

/-- Lanes of a parked entry with the moment they first parked. -/
def Entry.parkTimes (e : Entry) : List (Nat × Nat) :=
  match e.block with
  | .park t _ => (lanesOf e.mask).map (fun l => (l, (lookupBy l e.firstPark).getD t))
  | _ => e.firstPark

/-- An unblocked entry arrives at its key (R190, R194): it merges with the entry of that key that is unblocked or parked,
the union of the masks with the higher priority; an empty one leaves. -/
def arrive (es : List Entry) (n : Entry) : List Entry :=
  if n.mask = 0 then es
  else
    let fits (x : Entry) : Bool := x.pc == n.pc && x.depth == n.depth && (x.block == .none || x.block.isPark)
    if es.any fits then
      es.map (fun x => if fits x then
        { x with mask := x.mask ||| n.mask, prio := max x.prio n.prio, clause := n.clause, passed := 0,
                 block := .none, firstPark := x.parkTimes ++ n.firstPark } else x)
    else es ++ [n]

/-- A blocked entry joins those that wait at the same instruction in the same wait (R194). -/
def joinWait (es : List Entry) (n : Entry) : List Entry :=
  if n.mask = 0 then es
  else
    let fits (x : Entry) : Bool := x.pc == n.pc && x.depth == n.depth && x.block.sameKind n.block
    if es.any fits then
      es.map (fun x => if fits x then 
        { x with mask := x.mask ||| n.mask, prio := max x.prio n.prio, block := x.block.merge n.block,
                 firstPark := if n.block.isPark then x.parkTimes ++ n.parkTimes else x.firstPark } else x)
    else es ++ [n]

/-- Is the entry the one of a key that may issue? -/
def Entry.isAt (e : Entry) (pc depth : Nat) : Bool := e.pc == pc && e.depth == depth && e.block == .none

/-- The order of R191: higher priority, greater depth, lower PC. -/
def Entry.before (a b : Entry) : Bool :=
  decide (a.prio > b.prio) || (a.prio == b.prio && (decide (a.depth > b.depth) ||
    (a.depth == b.depth && decide (a.pc < b.pc))))

/-! ## The issuing wave -/

/-- What an instruction is issued with (R190): its wave as it stands, the entry, the active lanes (R340), the context,
the gang, and the headers of its code (R334). -/
structure Env where
  w : Wave
  is : Issue
  e : Entry
  act : Mask
  cx : Ctx
  gang : Option Gang
  headers : List Nat
  deriving DecidableEq, Repr

/-- The header map a wave runs under (R334). -/
def State.headersOf (s : State) (w : Wave) : List Nat :=
  match s.launch? w.launch with
  | some l => l.headers
  | none => w.headers

/-- Active lanes: those of the mask where the guard holds (R340). -/
def guardMask (w : Wave) (mask : Mask) (pidx : Nat) (pneg : Bool) : Mask :=
  mask &&& maskBy (fun l => (w.lane l).pred pidx != pneg)

/-- The issuing wave's environment, when `State.issue` names a wave and an entry of it. -/
def State.env? (s : State) (pidx : Nat) (pneg : Bool) : Option Env :=
  match s.issue with
  | none => none
  | some is =>
    match s.wave? is.wave with
    | none => none
    | some w =>
      match w.frontier.find? (fun e => e.isAt is.pc is.depth), s.ctxFor w.gang w.ctx with
      | some e, some cx =>
        some { w := w, is := is, e := e, act := guardMask w e.mask pidx pneg, cx := cx, gang := w.gang.bind s.gang?,
               headers := s.headersOf w }
      | _, _ => none

/-- The region state of the wave's gang. -/
def Env.region (env : Env) : Region := match env.gang with | some g => g.region | none => {}

/-- The column of R287: region states 1, 2 and 4. -/
def Env.inRegion (env : Env) : Bool := env.region.st == 1 || env.region.st == 2 || env.region.st == 4

/-- Inside a region that opened (R129, R205, R247, R279). -/
def Env.regionOpen (env : Env) : Bool := env.region.st == 2 || env.region.st == 3 || env.region.st == 4

/-- Do stores and deferred operations wait for the commit (R283, R286)? Not once the log has overflowed. -/
def Env.buffering (env : Env) : Bool := env.region.attempting

/-- The lanes an instruction-scope cause records (R312, R340). -/
def Env.scope (env : Env) : Mask := if env.act = 0 then env.e.mask else env.act

def Env.raise (env : Env) (cause : Nat) : Raised := { masks := [(cause, env.scope)] }

/-- Active lanes, in order. -/
def Env.lanes (env : Env) : List Nat := lanesOf env.act

/-- The lowest active lane, for forms that act once for the wave. -/
def Env.first (env : Env) : Nat := env.lanes.headD 0

/-- Active lanes that run a pure task (R144). -/
def Env.pureLanes (env : Env) : List Nat := env.lanes.filter (fun l => (env.w.lane l).pure_.isSome)

/-- Purity raised for those lanes. -/
def Env.purity (env : Env) : Except Raised Unit :=
  if env.pureLanes.isEmpty then .ok () else .error (raisedOf (env.pureLanes.map (fun l => (l, cPurity))))

/-- Map a result of `Try` per active lane, or raise every lane's cause (R312). -/
def Env.each {α : Type} (env : Env) (f : Nat → Lane → Try α) : Except Raised (List (Nat × α)) :=
  let rs := env.lanes.map (fun l => (l, f l (env.w.lane l)))
  let bad := rs.filterMap (fun r => match r.2 with | .error c => some (r.1, c) | .ok _ => none)
  if bad.isEmpty then .ok (rs.filterMap (fun r => match r.2 with | .ok a => some (r.1, a) | .error _ => none))
  else .error (raisedOf bad)

/-- `each` for what lanes do to memory: when a cause is raised, those that would wait for a page are recorded under translation
(R265), and the addresses go with it (R317). -/
def Env.eachAt {α : Type} (env : Env) (addr : Nat → Lane → Option Nat) (waits : α → Bool) (f : Nat → Lane → Try α) :
    Except Raised (List (Nat × α)) :=
  match env.each f with
  | .ok rs => .ok rs
  | .error _ => .error (raisedOf
      (env.lanes.filterMap (fun l => match f l (env.w.lane l) with
        | .error c => some (l, c)
        | .ok a => if waits a then some (l, cTranslation) else none))
      (env.lanes.filterMap (fun l => (addr l (env.w.lane l)).map (fun a => (l, a)))))

/-- A cause of the whole wave's access at one address. -/
def Env.raiseAt (env : Env) (addr cause : Nat) : Raised :=
  { env.raise cause with addrs := env.lanes.map (fun l => (l, addr)) }

/-! ## Monitors (R331) -/

/-- The bin of a value. -/
def Monitor.bin (m : Monitor) (v : Nat) : Nat := if v < m.base then 0 else Nat.min 15 ((v - m.base) / 2 ^ m.shift)

/-- A monitor takes a value. -/
def Monitor.take (m : Monitor) (v : Nat) : Monitor :=
  let bins := slice 0 m.bins 0 16
  { m with
    min := if m.count = 0 then v else Nat.min m.min v
    max := Nat.max m.max v
    count := m.count + 1
    bins := putAt bins (m.bin v) (bins.getD (m.bin v) 0 + 1) }

/-- A value of a source on a die reaches the die's monitors of it. -/
def State.sample (s : State) (die source v : Nat) : State :=
  { s with dev := { s.dev with monitors := s.dev.monitors.map (fun (m : Monitor) =>
      if m.die = die ∧ m.source = source then m.take v else m) } }

/-! ## Moving lanes -/

/-- Where a lane goes: PC, depth, priority. -/
structure Go where
  lane : Nat
  pc : Nat
  depth : Nat
  prio : Nat
  deriving DecidableEq, Repr

/-- The entry's fall-through inside its clause, for lanes that stay together (R338). -/
def Env.within (env : Env) : Option Clause :=
  if env.is.last then none
  else env.e.clause.map (fun c => { c with left := c.left - 1, prev := some env.is.cls })

/-- Entries formed from lanes' destinations, one for each distinct key (R193). A destination at the fall-through inside
the clause keeps the clause; every other is a header. -/
def formEntries (env : Env) (gos : List Go) : List Entry :=
  let keys := gos.foldl (fun ks g => if ks.any (fun k => k.pc == g.pc && k.depth == g.depth) then ks else ks ++ [g])
    ([] : List Go)
  keys.map (fun k =>
    let mine := gos.filter (fun g => g.pc == k.pc && g.depth == k.depth)
    { pc := k.pc, depth := k.depth, prio := (mine.map (fun g => g.prio)).foldl max 0,
      mask := maskOf (mine.map (fun g => g.lane)),
      clause := if k.pc = env.is.next ∧ k.depth = env.e.depth ∧ !env.is.last then env.within else none })

/-- The issuing entry gives way to others: arrivals in turn, and R195's bound, which counts entries held under a handler (R316). -/
def Env.replace (env : Env) (s : State) (arrivals waits : List Entry) : Res :=
  let w := (s.wave? env.w.id).getD env.w
  let rest := w.frontier.filter (fun e => !(e.isAt env.is.pc env.is.depth))
  let es := waits.foldl joinWait (arrivals.foldl arrive rest)
  if es.length + w.heldEntries.length > env.w.maxEntries then .error (env.raise cFrontier)
  else .ok (s.updWave env.w.id (fun w => { w with frontier := es }))

/-- Lanes whose destination is no header, the fall-through inside a clause excepted (R334, R374). -/
def Env.badTargets (env : Env) (gos : List Go) : List (Nat × Nat) :=
  (gos.filter (fun g => !((g.pc == env.is.next && g.depth == env.e.depth && !env.is.last) ||
    env.headers.contains g.pc))).map (fun g => (g.lane, cTarget))

/-- Lanes move (R374): illegal targets raised first, then one entry per key. Lanes not listed leave the wave. -/
def Env.go (env : Env) (gos : List Go) (s : State) : Res :=
  if (env.badTargets gos).isEmpty then env.replace s (formEntries env gos) []
  else .error (raisedOf (env.badTargets gos))

/-- Lanes of the mask that fall through with the entry's priority. -/
def Env.falls (env : Env) (mask : Mask) : List Go :=
  (lanesOf mask).map (fun l => { lane := l, pc := env.is.next, depth := env.e.depth, prio := env.e.prio })

/-- The entry completes its instruction and falls through (R338). -/
def Env.fall (env : Env) (s : State) : Res := env.go (env.falls env.e.mask) s

/-- The entry stays at its instruction, blocked (R191). -/
def Env.stay (env : Env) (b : Block) (s : State) : Res :=
  env.replace s [] [{ env.e with block := b, passed := 0 }]

/-- Some lanes park (R193, R265), the others fall through. -/
def Env.parkLanes (env : Env) (vas : List (Nat × Nat)) (s : State) : Res :=
  let parked := maskOf (vas.map (fun x => x.1))
  let goers := env.falls (env.e.mask &&& ~~~ parked)
  if (env.badTargets goers).isEmpty then
    let times := env.e.firstPark.filter (fun x => hasLane parked x.1)
    let since := (times.map (fun x => x.2)).foldl min s.time
    env.replace s (formEntries env goers)
      (if parked = 0 then [] else
        [{ env.e with mask := parked, block := .park since vas, passed := 0, firstPark := times }])
  else .error (raisedOf (env.badTargets goers))

/-! ## Taking a cause (R311 to R320, R325) -/

/-- The masks of a gathering, one per cause code 1 to 16 (R312): cleared first, then set. -/
def tlmOf (r : Raised) : List Word :=
  (List.range 16).map (fun i =>
    (r.masks.filter (fun m => m.1 == i + 1)).foldl (fun acc m => acc ||| m.2) 0)

/-- The reported cause (R312): the lowest code with a nonzero mask. -/
def reported (tlm : List Word) : Nat :=
  match ((indexed tlm).filter (fun x => x.2 != 0)) with
  | x :: _ => x.1 + 1
  | [] => 0

/-- sr.tentry of an entry (R317). -/
def tentryOf (e : Entry) : Dword := BitVec.ofNat 64 (e.mask.toNat + 2 ^ 32 * e.depth + 2 ^ 40 * e.prio)

/-- The memory causes, whose address sr.taddr keeps (R317). -/
def memoryCause (c : Nat) : Bool := c == 5 || c == 6 || c == 7 || c == 8 || c == 9 || c == 13

/-- The trap registers a cause writes (R317). -/
def trapRegs (t : TrapRegs) (time : Nat) (is : Issue) (e : Entry) (oneWord : Bool) (skid : Nat) (own : Bool)
    (r : Raised) : TrapRegs :=
  let tlm := tlmOf r
  let c := reported tlm
  let addr := match (r.addrs.filter (fun a => hasLane (tlm.getD (c - 1) 0) a.1)) with
    | a :: _ => if memoryCause c then a.2 else 0
    | [] => 0
  { t with
    tcause := BitVec.ofNat 32 (c + 2 ^ 8 * skid + (if own then 2 ^ 16 else 0))
    tpc := BitVec.ofNat 64 is.pc
    tnpc := BitVec.ofNat 64 is.next
    tentry := tentryOf e
    taddr := BitVec.ofNat 64 addr
    tinst := BitVec.ofNat 64 (is.w0.toNat + (if oneWord then 0 else 2 ^ 32 * is.w1.toNat))
    ttime := BitVec.ofNat 64 time
    tlm := tlm }

/-- The wave in [15:8] and the linear group in [47:16], as events 6 and 9 carry them (R319). -/
def waveInfo (w : Wave) : Nat := 2 ^ 8 * (w.index % 256) + 2 ^ 16 * w.group

/-- The gangs whose error a wave's error is: its own, or those its records name (R130). -/
def State.gangsOf (s : State) (w : Wave) : List Nat :=
  match w.gang with
  | some g => [g]
  | none => (w.lanes.filterMap (fun l => l.rec_.bind (fun r => s.gangOf r.launch r.gang))).map (fun g => g.id)

/-- Are operations of the wave in flight that a counter holds (R379)? -/
def State.busy (s : State) (wave : Nat) : Bool := s.ops.any (fun o => o.wave == wave && o.ctr.isSome)

/-- A gang is to be killed (R303): what condemns it first stands (R304, R319). -/
def Gang.condemn (g : Gang) (source cause : Nat) : Gang :=
  if g.doom.any (fun d => d.kill) then g
  else { g with doom := some { source := source, core := none, cause := cause, reason := 0, kill := true } }

/-- A task wave is killed (R130, R172): its gangs are to be killed; a ray record's task is decremented as if it had
ended, and its context hears of it. `code` is the CAUSE of event 10. -/
def State.killTask (s : State) (w : Wave) (source cause code : Nat) : State :=
  let s := (s.gangsOf w).foldl (fun s g => s.updGang g (fun g => g.condemn source cause)) s
  let s := w.lanes.foldl (fun s l =>
    match l.rec_ with
    | some r =>
      if r.kind ≥ 3 then
        let s := s.joinDec w.ctx w.core r.launch r.gang r.join
        s.event w.ctx 10 code noGang ((r.regs.getD 0 0).toNat + 2 ^ 32 * r.kind)
      else s
    | none => s) s
  let s := s.updWave w.id (fun w =>
    { w with
      ended := true
      frontier := []
      heldEntries := []
      hold := .none
      lanes := w.lanes.map (fun l => { l with rec_ := none, pure_ := none }) })
  if s.busy w.id then s else { s with waves := s.waves.filter (fun x => x.id != w.id) }

/-- Escalation (R319): the gang is to be killed, the context hears of it; a task wave's kill is R130's. -/
def State.escalate (s : State) (w : Wave) (cause : Nat) : State :=
  let s := s.event w.ctx 6 cause (s.gangIndex w.gang) (waveInfo w)
  let s := s.trace w.ctx w.core 3 cause ((w.frontier.headD { pc := 0, depth := 0, prio := 0, mask := 0 }).pc) 0
  match w.gang with
  | some g =>
    (s.updGang g (fun g => { g.condemn 0 cause with lastCause := cause })).updWave w.id
      (fun w => { w with hold := .contained })
  | none => s.killTask w 0 cause cause

/-- A halt reaches the other waves of a wave's group (R314): each may still issue 8 skid instructions. -/
def State.haltSiblings (s : State) (w : Wave) : State :=
  { s with waves := s.waves.map (fun (x : Wave) =>
      if x.id != w.id && x.gang.isSome && x.gang == w.gang && x.group == w.group && !x.ended && x.hold == .none then
        { x with hold := .skid 8 false, skid := 0 } else x) }

/-- The wave enters its handler (R316): trap mode, the other entries held, one new entry at sr.tvec. A wave that was to issue one
instruction for a debugger has (R324). -/
def Wave.enterHandler (w : Wave) (e : Entry) : Wave :=
  { w with
    trapMode := true
    hold := if w.hold == .debug true then .debug false else .none
    ownCause := false
    heldEntries := w.frontier.filter (fun x => !(x.isAt e.pc e.depth))
    trapped := some e
    frontier := [{ pc := w.trap.tvec.toNat % 2 ^ 56, depth := e.depth, prio := 255, mask := e.mask }] }

/-- A wave's handler starts (R315, R316, R332): its group hears the halt. -/
def State.startHandler (s : State) (w : Wave) (e : Entry) : State :=
  let s := (s.updWave w.id (fun w => w.enterHandler e)).haltSiblings w
  let s := match w.gang with
    | some g => s.updGroup g w.group (fun r => { r with handler := some w.id })
    | none => s
  let s := s.trace w.ctx w.core 1 (w.trap.tcause.toNat % 256) e.pc 0
  if w.hold = .debug true then s.trace w.ctx w.core 7 cDebug (w.trap.tvec.toNat % 2 ^ 56) 0 else s

/-- The wave that runs a handler in a wave's group (R315). -/
def State.handlerOf (s : State) (w : Wave) : Option Nat :=
  ((w.gang.bind s.gang?).bind (fun g => g.group? w.group)).bind (fun r => r.handler)

/-- Lanes of pure tasks that raise a cause are faulted, and purity violations are counted (R144, R145). -/
def State.faultPure (s : State) (env : Env) (r : Raised) : State :=
  let pures := (laneCauses r).filter (fun x => (env.w.lane x.1).pure_.isSome)
  let s := s.updWave env.w.id (fun w => pures.foldl (fun w x =>
    w.updLane x.1 (fun l => { l with pure_ := l.pure_.map (fun p => { p with faulted := true }) })) w)
  let n := (pures.filter (fun x => x.2 == cPurity)).length
  s.updCtx env.w.ctx (fun c => { c with reuse := { c.reuse with purity := (c.reuse.purity + n) % 2 ^ 64 } })

/-- Has a halt broadcast reached the wave (R314)? -/
def Wave.skidding (w : Wave) : Bool := match w.hold with | .skid _ _ => true | _ => false

/-- Is it a debugger's halt that reached the wave? -/
def Hold.byDebugger : Hold → Bool
  | .skid _ d => d
  | _ => false

/-- Does a debugger hold the wave (R325)? -/
def Hold.isDebug : Hold → Bool
  | .debug _ => true
  | _ => false

/-- The debugger attached to the wave's context takes a breakpoint or a watchpoint (R311, R325). -/
def Env.debugged (env : Env) (c : Nat) : Bool := env.cx.debugger.isSome && (c == cBreak || c == cWatch)

/-- TAKING A CAUSE (R312 to R320): the one operation every instruction that raises a cause ends in. The masks are written
and the trap registers with them. A poison-consumed mask leads to containment and no handler; a wave that a halt has
reached, or whose group runs a handler (R315), stops with its cause held; an attached debugger halts the wave; a wave in trap
mode or without a handler escalates; every other wave enters its handler and halts its siblings. -/
def State.takeTrap (s : State) (env : Env) (r : Raised) : State :=
  let s := s.faultPure env r
  let one := oneWordOp (env.is.w0.toNat / 2 ^ 24)
  let tlm := tlmOf r
  let c := reported tlm
  let skidding := env.w.skidding
  let poisoned := tlm.getD 9 0 != 0
  let waits := !env.w.trapMode && !env.debugged c && (s.handlerOf env.w).isSome
  let own := (skidding || waits) && !poisoned
  let s := s.updWave env.w.id (fun w =>
    { w with trap := trapRegs w.trap s.stamp env.is env.e one (if skidding && !poisoned then w.skid else 0) own r })
  let w := (s.wave? env.w.id).getD env.w
  if poisoned then s.updWave w.id (fun w => { w with hold := .contained })
  else if skidding then
    let s := s.updWave w.id (fun w => { w with hold := (if env.w.hold.byDebugger then .debug false else .stopped), ownCause := true })
    if env.w.hold.byDebugger then s.trace w.ctx w.core 7 cDebug env.is.pc 0 else s
  else if waits then s.updWave w.id (fun w => { w with hold := .stopped, ownCause := true })
  else if env.w.trapMode then s.escalate w c
  else if env.debugged c then
    let s := s.updWave w.id (fun w => { w with hold := .debug false })
    (s.event w.ctx 9 c (s.gangIndex w.gang) (waveInfo w)).trace w.ctx w.core 7 c env.is.pc 0
  else if w.trap.tvec = 0 then s.escalate w c
  else s.startHandler w env.e

/-- The entry sr.tentry and sr.tpc describe (R318), at a header or at the place in the clause it was trapped in. -/
def Wave.resumeEntry (w : Wave) : Option Entry :=
  match w.trapped with
  | none => none
  | some e =>
    let pc := w.trap.tpc.toNat % 2 ^ 56
    let te := w.trap.tentry.toNat
    let clause :=
      if pc = e.pc then e.clause
      else if pc = w.trap.tnpc.toNat % 2 ^ 56 then
        match e.clause with
        | some c => if c.left ≤ 1 then none else some { c with left := c.left - 1 }
        | none => none
      else none
    some { pc := pc, depth := field te 32 8, prio := field te 40 8, mask := BitVec.ofNat 32 te, clause := clause }

/-- The entry a wave issues (R191, R192): one passed over 512 times first, else the first in the order. -/
def Wave.choose (w : Wave) : Option Entry :=
  let es := w.frontier.filter (fun e => e.block == .none)
  match es.find? (fun e => e.forced || decide (512 ≤ e.passed)) with
  | some e => some e
  | none => (sortBy Entry.before es).head?

/-- A wave stops for a halt (R314): its next instruction not issued goes to sr.tpc, of a wave whose entries all wait the first
of them, and its skid to sr.tcause. -/
def Wave.stopAt (w : Wave) (debug : Bool) : Wave :=
  let pc := match w.choose with
    | some e => e.pc
    | none => ((sortBy Entry.before w.frontier).map (fun e => e.pc)).headD w.trap.tpc.toNat
  { w with
    hold := if debug then .debug false else .stopped
    trap := { w.trap with
      tpc := BitVec.ofNat 64 pc, tcause := BitVec.ofNat 32 ((if debug then cDebug else 0) + 2 ^ 8 * w.skid) } }

/-- A wave of a group whose handler ends with a halt pending (R320): debug-halted at its sr.tpc. -/
def Wave.haltAtEnd (w : Wave) : Wave :=
  match w.hold with
  | .contained | .debug _ => { w with haltPending := false }
  | .stopped => { w with hold := .debug false, haltPending := false }
  | _ => if w.ended then { w with haltPending := false } else { w.stopAt true with haltPending := false }

/-- Does a halt broadcast hold the wave, and no cause of its own? -/
def Wave.heldByHalt (w : Wave) : Bool :=
  match w.hold with
  | .skid _ d => !d
  | .stopped => !w.ownCause
  | _ => false

/-- A wave that a handler's end or a debugger releases goes on at its own sr.tpc (R318). -/
def Wave.release (w : Wave) : Wave := { w with hold := .none, skid := 0 }

/-- RETURNING FROM A HANDLER (R315, R318, R320): trap mode ends, the handler's entries go, the interrupted entry and the
held ones come back, the siblings are released; with a halt pending the whole group stays debug-halted, and a sibling
that holds a cause of its own enters its handler next. -/
def State.leaveTrap (s : State) (w : Wave) : State :=
  let s := s.updWave w.id (fun w =>
    { w with
      trapMode := false
      frontier := match w.resumeEntry with
        | some e => arrive w.heldEntries e
        | none => w.heldEntries
      heldEntries := [], trapped := none })
  let s := match w.gang with
    | some g => s.updGroup g w.group (fun r => { r with handler := none })
    | none => s
  let inGroup (x : Wave) : Bool := x.gang.isSome && x.gang == w.gang && x.group == w.group && !x.ended
  let s := if w.haltPending then
      let stops := s.waves.filter (fun x => inGroup x && x.id != w.id && !x.hold.isDebug && x.hold != .contained)
      let s := { s with waves := s.waves.map (fun (x : Wave) => if x.id == w.id then
          { x with hold := if x.hold == Hold.contained then x.hold else Hold.debug false, haltPending := false }
        else if inGroup x then x.haltAtEnd else x) }
      (w :: stops).foldl (fun (s : State) x => match s.wave? x.id with
        | some x => s.trace x.ctx x.core 7 cDebug (x.trap.tpc.toNat % 2 ^ 56) 0
        | none => s) s
    else
      { s with waves := s.waves.map (fun (x : Wave) =>
          if inGroup x && x.heldByHalt then x.release else x) }
  s.trace w.ctx w.core 2 0 (w.trap.tpc.toNat % 2 ^ 56) 0

end Sys2Proof.Machine
end

