-- ==== Sys2Proof/Machine/Operands.lean ====
section
/-! DEFINITION. Operand forms: what an instruction names, by the fields of R339 and R342; the checks of its encoding
(R347); issuing it (R190, R214, R222, R224, R340, R341); reading its sources and writing its results (R216 to R218). -/

namespace Sys2Proof.Machine

/-! ## Fields -/

end Sys2Proof.Machine

namespace Sys2Proof
open Machine

/-- MOD [lo + w - 1 : lo] of a two- or three-word instruction (R339). -/
def F2.modAt (f : F2) (lo w : Nat) : Nat := field f.mod.toNat (lo - 8) w
def F2.tyN (f : F2) : Nat := f.ty.toNat
def F2.aN (f : F2) : Nat := f.a.toNat
def F2.bN (f : F2) : Nat := f.b.toNat
def F2.cN (f : F2) : Nat := f.c.toNat
def F2.dN (f : F2) : Nat := f.d.toNat

end Sys2Proof

namespace Sys2Proof.Machine

/-! ## Format slots and matrix shapes (R239, R410 to R414) -/

/-- A format slot (R239). -/
structure FSlot where
  kind : Nat
  mbits : Nat
  separate : Bool
  rnd : Nat
  sat : Bool
  tau : Nat
  deriving DecidableEq, Repr

def slotOf (d : Dword) : FSlot :=
  let n := d.toNat
  { kind := field n 0 8, mbits := field n 8 8, separate := field n 24 8 == 1, rnd := field n 32 2, sat := bitOf n 40,
    tau := if field n 48 8 = 0 then 40 else field n 48 8 }

def Wave.slot (w : Wave) (k : Nat) : FSlot := slotOf (w.slots.getD k 0)

/-- A block kind: 5 BFP, 6 OCP-MXINT8. -/
def FSlot.isBlock (z : FSlot) : Bool := z.kind == 5 || z.kind == 6

/-- K0 of a kind (R410). -/
def kindK0 (kind : Nat) : Nat :=
  match kind with
  | 1 => 4 | 2 => 8 | 3 => 16 | 4 => 16 | _ => 32

/-- Shape codes (R410): M in [4:3], N in [2:1], K in [0]. -/
def shapeM (shape : Nat) : Nat := 16 * 2 ^ field shape 3 2
def shapeN (shape : Nat) : Nat := 16 * 2 ^ field shape 1 2
def shapeK (kind shape : Nat) : Nat := kindK0 kind * (1 + shape % 2)
def shapeOk (shape : Nat) : Bool := field shape 3 2 != 3 && field shape 1 2 != 3

/-- Elements kept of a group of 4: pattern 0 is 2:4, 1 is 1:4 (R414). -/
def keptOf (pattern : Nat) : Nat := if pattern = 0 then 2 else 1

/-- Words of a row of A in a lane (R412, R414), and of its metadata. -/
def rowWords (z : FSlot) (k : Nat) (pattern : Option Nat) : Nat :=
  let kept := match pattern with | some p => k * keptOf p / 4 | none => k
  match z.kind with
  | 1 => 2 * kept
  | 2 => kept
  | 3 => kept / 2
  | 4 => kept / 2
  | _ => k / 32 * (match pattern with
    | some p => 1 + ceilDiv (z.mbits * keptOf p) 4
    | none => z.mbits + 1)
def metaWords (k : Nat) (pattern : Option Nat) : Nat :=
  match pattern with | some p => ceilDiv (k * keptOf p) 64 | none => 0

/-- Blocks of 32 rows that A's registers hold. -/
def rowBlocks (shape : Nat) : Nat := if shapeM shape ≤ 32 then 1 else 2

/-- A range of registers a matrix form names, whose length its slot and shape decide. -/
inductive MatRange where
  | a (reg slot shape : Nat) (pattern : Option Nat)
  | drain (reg slot : Nat)
  deriving DecidableEq, Repr

/-- Registers of a range of mdrain (R419). -/
def drainWords (kind : Nat) : Nat := match kind with | 1 => 32 | 2 => 16 | _ => 8

def MatRange.range (r : MatRange) (w : Wave) : Nat × Nat :=
  match r with
  | .a reg slot shape pattern =>
    let z := w.slot slot
    let k := shapeK z.kind shape
    (reg, rowBlocks shape * (rowWords z k pattern + metaWords k pattern))
  | .drain reg slot => (reg, drainWords (w.slot slot).kind)

/-- What an instruction waits for before it may issue, beside its clause header and its operands. -/
inductive Need where
  | none
  /-- A release: the thread's earlier accesses and its core's earlier stores are performed (R271). -/
  | release
  /-- The thread's earlier loads have completed (R272). -/
  | loads
  /-- A release and those loads. -/
  | both
  /-- All six counters are zero (R280); a release first, at rgn.open (R292). -/
  | idle (rel : Bool)
  /-- The counters of a mask hold at most a threshold (R454). -/
  | counts (mask t : Nat)
  /-- A release, unless the wave has arrived at the barrier C names already (R456). -/
  | arrival (c : Nat)
  /-- Pending writes to the wave's n highest registers have landed (R204). -/
  | given (n : Nat)
  deriving DecidableEq, Repr

/-- A unit of the part that must accept the instruction (R107). -/
inductive UnitNeed where
  | none
  /-- A place in a matrix engine's queue (R407): the tile's engine, or for mmeta the partition's (log 26). -/
  | engine (e : Option Nat)
  /-- No earlier command on the tile is in flight (R408). -/
  | tile (t : Nat)
  /-- Room in the FIFO or the ring for one record per active lane (R134). -/
  | tasks
  /-- A free slot of the park pool per active lane (R134). -/
  | park
  /-- Free segments beyond the passes' reserve (R157). -/
  | rays
  /-- Fewer than 1,024 open collectives (R486). -/
  | collectives
  /-- No order the context posted is still to be carried out (R324). -/
  | orders
  deriving DecidableEq, Repr

/-- Where a region forbids an instruction: nowhere, in states 1, 2 and 4 (R287), or in any open region (R129, R205, R247,
R279). -/
inductive RegionRule where
  | fine | illegal | illegalOpen
  deriving DecidableEq, Repr

/-- All an instruction names: its class and counters (R346), whether its own fields are a legal encoding, its guard,
lookahead and reuse flag, its operands, and where it may not run. -/
structure Form where
  cls : Nat := 0
  anyClass : Bool := false
  ok : Bool := true
  pidx : Nat := 0
  pneg : Bool := false
  la : Nat := 0
  ctrs : List Ctr := []
  writes : Bool := false
  reuse : Bool := false
  a : Pos := .none
  b : Pos := .none
  c : Pos := .none
  d : Dest := .none
  /-- Ranges of main registers read: first and length. -/
  ranges : List (Nat × Nat) := []
  mats : List MatRange := []
  resume : Bool := false
  need : Need := .none
  unit : UnitNeed := .none
  region : RegionRule := .fine
  notTask : Bool := false
  notPure : Bool := false
  always : Bool := false
  deriving DecidableEq, Repr

end Sys2Proof.Machine

namespace Sys2Proof
open Machine

/-- The form of a one-word instruction: no guard, no lookahead (R339). -/
def F1.form (cls : Nat) (ok : Bool) : Form := { cls := cls, ok := ok }

/-- The common fields of a longer instruction. -/
def F2.form (f : F2) (cls : Nat) (ok : Bool) : Form :=
  { cls := cls, ok := ok, pidx := f.pidx.toNat, pneg := f.pneg, la := f.la.toNat, reuse := f.mod.getLsbD 8 }

end Sys2Proof

namespace Sys2Proof.Machine

/-- Every range of main registers a form names. -/
def Form.allRanges (F : Form) (w : Wave) : List (Nat × Nat) := F.ranges ++ F.mats.map (fun r => r.range w)

/-- Are the named registers all there (R210, R213, R216)? -/
def Form.namesOk (F : Form) (w : Wave) : Bool :=
  F.a.legal w.regs w.nscalars && F.b.legal w.regs w.nscalars && F.c.legal w.regs w.nscalars && F.d.legal w.regs &&
    (F.allRanges w).all (fun r => decide (r.1 + r.2 ≤ w.regs))

/-- Is it an instruction here (R347)? Its encoding, PIDX 0 with PNEG 1, LA without a counter, its selectors, its clause's
class, a resume point that is not last. -/
def Form.legal (F : Form) (env : Env) : Bool :=
  F.ok && !(F.pidx == 0 && F.pneg) && (F.la == 0 || !F.ctrs.isEmpty) && F.namesOk env.w &&
    (F.anyClass || env.is.cls == 6 || env.is.cls == F.cls) && (!F.resume || env.is.last) && !(F.notTask && env.w.task)

/-- Queue pops of the operands (R224): each queue once, by its widest position. -/
def Form.pops (F : Form) : List (Nat × Nat) :=
  (F.a.pops ++ F.b.pops ++ F.c.pops).foldl (fun acc p =>
    setBy p.1 (max p.2 ((lookupBy p.1 acc).getD 0)) acc) []

def Lane.pop (l : Lane) (ps : List (Nat × Nat)) : Lane :=
  { l with q := ps.foldl (fun q p => putAt q p.1 ((q.getD p.1 []).drop p.2)) l.q }

/-- The active lanes pop (R224); the pops stand even if the instruction raises a cause. -/
def State.pop (s : State) (env : Env) (F : Form) : State :=
  if F.pops.isEmpty then s
  else s.updWave env.w.id (fun w => w.mapLanes (fun l lane => if hasLane env.act l then lane.pop F.pops else lane))

/-- The reuse latch takes A of the active lanes (R222): only a main register, a pair or v[xk] is tagged. -/
def Wave.fillLatch (w : Wave) (act : Mask) (F : Form) : Wave :=
  match F.reuse, F.a with
  | true, .sel code words =>
    if code < 0xC0 ∨ (0xD0 ≤ code ∧ code < 0xD8) then
      let reg (l : Nat) : Nat :=
        if code < 0xC0 then code
        else match (w.lane l).indexed (code - 0xD0) words w.regs with
          | .ok r => r
          | .error _ => 256
      { w with latch := some {
          sel := BitVec.ofNat 8 code, words := words, mask := act, regs := laneList.map reg,
          vals := laneList.map (fun l =>
            let ws := (w.lane l).main (reg l) words
            { lo := wordAt ws 0, hi := if words = 2 then wordAt ws 1 else {} }) } }
    else w
  | _, _ => w

/-- Others of the wave's unblocked entries are passed over (R192). -/
def passOver (env : Env) (es : List Entry) : List Entry :=
  es.map (fun e =>
    if e.isAt env.is.pc env.is.depth then { e with passed := 0, forced := false }
    else if e.block == .none then { e with passed := e.passed + 1 } else e)

/-- The wave's counts at an issue: instructions (R330, R286), windows (R341), forced count (R108), skid (R314), a single
step (R324). -/
def Wave.count (w : Wave) (env : Env) : Wave :=
  { w with
    issued := w.issued + 1
    forced := none
    windows := w.windows.map (fun n => { n with issued := n.issued + 1 })
    frontier := passOver env w.frontier
    skid := match w.hold with | .skid _ _ => w.skid + 1 | _ => w.skid
    hold := match w.hold with
      | .skid n d => .skid (n - 1) d
      | .debug true => .debug false
      | h => h }

/-- The instruction leaves its issue slot: pops, counts, the latch. -/
def State.begin_ (s : State) (env : Env) (F : Form) : State :=
  let s := s.pop env F
  let s := s.updWave env.w.id (fun w => (w.count env).fillLatch env.act F)
  match env.w.gang with
  | some g => s.updGroup g env.w.group (fun r => { r with issued := r.issued + 1 })
  | none => s

/-- Illegal-in-region (R287 and the rules it names). -/
def Form.regionBad (F : Form) (env : Env) : Bool :=
  match F.region with
  | .fine => false
  | .illegal => env.inRegion
  | .illegalOpen => env.regionOpen

/-- The environment in which the effect sees the wave: after the pops and counts. -/
def Env.at_ (env : Env) (s : State) : Env := { env with w := (s.wave? env.w.id).getD env.w }

/-- With no active lane (R340): what its encoding or its place calls for, an illegal-instruction or illegal-in-region cause of
what it would do; else it only falls through. -/
def Env.idle (env : Env) (s : State) (r : Res) : Res :=
  match r with
  | .ok _ => env.fall (s.begin_ env {})
  | .error x =>
    if x.masks.any (fun m => m.1 == cIllegal) then .error (env.raise cIllegal)
    else if x.masks.any (fun m => m.1 == cRegion) then .error (env.raise cRegion)
    else env.fall (s.begin_ env {})

/-- Lanes of an instruction's entry that would park (R265). -/
def Env.parkedIn (env : Env) (s : State) : List Nat :=
  match s.wave? env.w.id with
  | some w => env.lanes.filter (fun l => w.frontier.any (fun e =>
      e.block.isPark && e.pc == env.is.pc && e.depth == env.is.depth && hasLane e.mask l))
  | none => []

/-- What no pure task may do (R144): purity for its lanes, beside what the instruction raises in any lane; a lane that would
park is recorded under translation (R312). -/
def Env.impure (env : Env) (r : Res) : Res :=
  let mine := env.pureLanes.map (fun l => (l, cPurity))
  match r with
  | .ok t => .error (raisedOf (mine ++ ((env.parkedIn t).filter (fun l => !env.pureLanes.contains l)).map (fun l => (l, cTranslation))))
  | .error x =>
    let low := laneCauses { x with masks := x.masks ++ [(cPurity, maskOf env.pureLanes)] }
    .error (raisedOf low (x.addrs.filter (fun a => !low.contains (a.1, cPurity))))

/-- In a region that forbids the instruction (R287): illegal-in-region, or illegal-instruction where what it names is illegal
as well (R312: the lower cause). -/
def Env.regionCause (env : Env) (r : Res) : Raised :=
  match r with
  | .ok _ => env.raise cRegion
  | .error x => env.raise (if x.masks.any (fun m => m.1 == cIllegal) then cIllegal else cRegion)

/-- ISSUING AN INSTRUCTION (R312, R340): an encoding that is no instruction pops nothing and raises illegal-instruction
(R347; log 41), a forbidden region illegal-in-region; with no active lane it only falls through; else its effect, or the
causes its lanes raise. An effect reads its operands from `env`, the wave before the pops, and writes to the state after
them. -/
def State.run (s : State) (F : Form) (k : Env → State → Res) : Host.Outcome State Fault Refusal :=
  match s.env? F.pidx F.pneg with
  | none => .fault .noIssuer
  | some env =>
    if !F.legal env then .next (s.takeTrap env (env.raise cIllegal))
    else if F.regionBad env then .next ((s.pop env F).takeTrap env (env.regionCause (k env (s.begin_ env F))))
    else
      let body : Res :=
        if env.act = 0 && !F.always then env.idle s (k env (s.begin_ env {}))
        else if F.notPure && !env.pureLanes.isEmpty then env.impure (k env (s.begin_ env F))
        else k env (s.begin_ env F)
      match body with
      | .ok t => .next t
      | .error r => .next ((s.pop env F).takeTrap env r)

/-! ## Results -/

/-- Results per lane, with the slot each goes to. -/
def Env.compute (env : Env) (F : Form) (g : Nat → Lane → Try (List PWord)) :
    Except Raised (List (Nat × Slot × List PWord)) :=
  env.each (fun l lane => both (F.d.slot env.w.regs lane) (g l lane))

/-- Results are written: D, and for the forms of R218 the last-result latch, zero-extended. -/
def Wave.writeAll (w : Wave) (lt : Bool) (rs : List (Nat × Slot × List PWord)) : Wave :=
  rs.foldl (fun w r =>
    let w := w.land r.1 r.2.1 r.2.2
    if lt then w.updLane r.1 (fun lane => { lane with lt := { lo := wordAt r.2.2 0, hi := wordAt r.2.2 1 } }) else w) w

/-- A residue mismatch (R243, R307): counted against the lane, an error inside a region. -/
def State.residueError (s : State) (env : Env) (l : Nat) : State :=
  let unit : HwUnit := .lane env.w.core (2 * env.w.partition + l / 16) (l % 16)
  let s := s.countError unit true
  match env.gang with
  | some g => if g.region.inside then s.charge g.id 1 (some env.w.core) else s
  | none => s

/-- The lanes of this issue whose residue check fails. -/
def Env.residueLanes (env : Env) (checked : Bool) : List Nat :=
  if checked then lanesOf (env.act &&& env.is.residue) else []

/-- A per-lane computation of registers into D, and into lt where R218 says so; `checked`: residue-checked (R243). -/
def Env.vec (env : Env) (F : Form) (lt checked : Bool) (g : Nat → Lane → Try (List PWord)) (s : State) : Res := do
  let rs ← env.compute F g
  let bad := env.residueLanes checked
  let rs := rs.map (fun r =>
    if bad.contains r.1 then (r.1, r.2.1, r.2.2.map (fun w => { w with mark := true })) else r)
  let s := s.updWave env.w.id (fun w => w.writeAll lt rs)
  env.fall (bad.foldl (fun s l => s.residueError env l) s)

/-- A per-lane computation of a predicate (R364, R368). -/
def Env.vecPred (env : Env) (pd : Nat) (checked : Bool) (g : Nat → Lane → Try Bool) (s : State) : Res := do
  let rs ← env.each g
  let s := s.updWave env.w.id (fun w => rs.foldl (fun w r => w.updLane r.1 (fun l => l.setPred pd r.2)) w)
  env.fall ((env.residueLanes checked).foldl (fun s l => s.residueError env l) s)

/-- Operands A, B and C of a lane as values. -/
structure Args where
  a : Nat
  b : Nat
  c : Nat
  deriving DecidableEq, Repr

def Form.args (F : Form) (w : Wave) (lane : Lane) : Try Args :=
  (both (F.a.val w lane) (both (F.b.val w lane) (F.c.val w lane))).map
    (fun v => { a := v.1, b := v.2.1, c := v.2.2 })

/-- The words of a result of R353: w bits extended already, in one or two words. -/
def Form.resultWords (F : Form) : Nat :=
  match F.d with
  | .sel _ words _ => words
  | .queue _ words => words
  | .none => 1

/-- A plain arithmetic instruction: D ← f(a, b, c), with lt (R218). -/
def State.arith (s : State) (F : Form) (checked : Bool) (f : Args → Nat) : Host.Outcome State Fault Refusal :=
  s.run F (fun env => env.vec F true checked
    (fun _ lane => (F.args env.w lane).map (fun x => wordsOf F.resultWords (f x))))

end Sys2Proof.Machine
end

