-- ==== Sys2Proof/Machine/Ends.lean ====
section
/-! DEFINITION. Ends: of an operation in flight (R214, R341, R465), of a lane's thread and its task (R127, R139, R143,
R171, R379), of a wave (R203, R379), a group (R330) and a gang (R47, R78, R127). -/

namespace Sys2Proof.Machine

/-! ## Pending writes of ended lanes (R379) -/

def Dst.discard (d : Dst) (lanes : Mask) : Dst :=
  { d with lanes := d.lanes.map (fun x => if hasLane lanes x.1 then (x.1, Slot.discard) else x) }

/-- The destination of an operation, where it has one. -/
def OpBody.dst? : OpBody → Option Dst
  | .load d _ _ _ _ _ _ _ => some d
  | .deliver d _ => some d
  | .fifoPop d _ _ _ _ => some d
  | .atom _ _ _ d _ _ => d
  | .col d _ => some d
  | .ray d _ => some d
  | .sramMode d _ => some d
  | .store _ _ _ _ | .pin _ _ _ _ _ | .fifoPush _ _ _ _ | .fence | .buffered | .writeBack _ | .copy _ _ _ _ _ _ | .follow _ _ _ _ _ _ _ _ | .matrix
  | .join _ _ _ _ => none

/-- An operation with its destination changed. -/
def OpBody.mapDst (f : Dst → Dst) : OpBody → OpBody
  | .load d b x y z n r a => .load (f d) b x y z n r a
  | .deliver d v => .deliver (f d) v
  | .fifoPop d g p n w => .fifoPop (f d) g p n w
  | .atom o w s d i g => .atom o w s (d.map f) i g
  | .col d c => .col (f d) c
  | .ray d v => .ray (f d) v
  | .sramMode d n => .sramMode (f d) n
  | b => b

def MCmd.mapDst (f : Dst → Dst) : MCmd → MCmd
  | .drain op w t k m n sl hi clr col d => .drain op w t k m n sl hi clr col (f d)
  | .prune op w d v => .prune op w (f d) v
  | c => c

def MCmd.wave : MCmd → Nat
  | .mma _ w _ _ _ _ _ _ _ _ _ _ _ _ => w
  | .zero _ w _ => w
  | .drain _ w _ _ _ _ _ _ _ _ _ => w
  | .drainSp _ w _ _ _ _ _ _ _ _ _ => w
  | .prune _ w _ _ => w

def MCmd.op : MCmd → Nat
  | .mma op _ _ _ _ _ _ _ _ _ _ _ _ _ => op
  | .zero op _ _ => op
  | .drain op _ _ _ _ _ _ _ _ _ _ => op
  | .drainSp op _ _ _ _ _ _ _ _ _ _ => op
  | .prune op _ _ _ => op

/-- The tile a command names. -/
def MCmd.tile? : MCmd → Option Nat
  | .mma _ _ t _ _ _ _ _ _ _ _ _ _ _ => some t
  | .zero _ _ t => some t
  | .drain _ _ t _ _ _ _ _ _ _ _ => some t
  | .drainSp _ _ t _ _ _ _ _ _ _ _ => some t
  | .prune _ _ _ _ => none

def Engine.mapDst (wave : Nat) (f : Dst → Dst) (e : Engine) : Engine :=
  let g (c : MCmd) : MCmd := if c.wave = wave then c.mapDst f else c
  { e with queue := e.queue.map g, running := e.running.map g }

/-- Writes still to land in lanes of a wave whose threads have ended are discarded. -/
def State.discardPending (s : State) (wave : Nat) (lanes : Mask) : State :=
  let f (d : Dst) : Dst := d.discard lanes
  { s with
    ops := s.ops.map (fun (o : Op) => if o.wave = wave then { o with body := o.body.mapDst f } else o)
    cores := s.cores.map (fun (c : Core) => { c with engines := c.engines.map (Engine.mapDst wave f) }) }

/-! ## Verdicts (R166, R171, R471) -/

inductive Verdict where
  | accept | ignore | term
  deriving DecidableEq, Repr

def Verdict.code : Verdict → Nat
  | .accept => 0
  | .ignore => 1
  | .term => 2

/-- A verdict for a handle reaches its pass, when a slot of it awaits one (R471). -/
def State.giveVerdict (s : State) (ctx handle : Nat) (v : Verdict) : State :=
  { s with passes := s.passes.map (fun (p : Pass) =>
      if p.ctx = ctx ∧ p.num = handle / 256 then
        { p with segs := p.segs.map (fun (g : OpenSeg) => { g with rays := g.rays.map (fun (r : RayState) =>
            if r.slot = some (handle % 256) then { r with slot := none, verdicts := r.verdicts ++ [v.code] } else r) }) }
      else p) }

/-- HANDLE of a record: word 7 of its tail (R170). -/
def Rec.handle (r : Rec) : Nat := (r.tail.getD 7 0).toNat

/-! ## The end of a pure task (R139, R143, R521, R522) -/

/-- Pages in the watch table: those an entry or an unfinished spawn watches. -/
def State.watched (s : State) : List Nat :=
  let a := s.reuse.foldl (fun ps r => r.watch.foldl (fun ps p => addSet p ps) ps) []
  s.spawns.foldl (fun ps x => x.pages.foldl (fun ps p => addSet p ps) ps) a

def State.watchRoom (s : State) (pages : List Nat) : Bool :=
  decide ((pages.foldl (fun ps p => addSet p ps) s.watched).length ≤ 65536)

/-- PVALID and PEND of a pure record (R122): tail word 7. -/
def Rec.pend? (r : Rec) : Option (Nat × Nat × Nat) :=
  let w := (r.tail.getD 7 0).toNat
  if bitOf w 8 then some (field w 30 2, field w 19 11, field w 16 3) else none

def State.countReuse (s : State) (ctx : Nat) (f : ReuseCtrs → ReuseCtrs) : State :=
  s.updCtx ctx (fun c => { c with reuse := f c.reuse })

def State.dropEntry (s : State) (die set way : Nat) : State :=
  { s with reuse := s.reuse.filter (fun r => !(r.die == die && r.set == set && r.way == way)) }

/-- A pure task ends (R139): its pending entry becomes valid with the result tile as stored, or invalid. -/
def State.endPure (s : State) (cx : Ctx) (r : Rec) (p : PureTask) : State :=
  match r.pend? with
  | none => s
  | some (die, set, way) =>
    let mine (e : Reuse) : Bool := e.die == die && e.set == set && e.way == way
    match s.reuse.find? mine with
    | none => s
    | some e =>
      let dropped := ((s.dropEntry die set way).countReuse cx.id (fun n => { n with drop := (n.drop + 1) % 2 ^ 64 }))
      match s.localPa cx .store p.res.1 with
      | none => dropped
      | some pa =>
        let page := pa / pageBytes
        if e.st != 2 || p.faulted || p.drop || !s.watchRoom [page] then dropped
        else
          let s := { s with reuse := s.reuse.map (fun (e : Reuse) => if mine e then
            { e with st := 1, created := s.stamp, resPa := pa, resLen := p.res.2, watch := addSet page e.watch } else e) }
          s.countReuse cx.id (fun n => { n with insert := (n.insert + 1) % 2 ^ 64 })

/-! ## The end of a thread (R127, R379) -/

/-- A context whose last live gang has ended owes nothing (R47). -/
def State.lapse (s : State) (ctx : Nat) : State :=
  if s.gangs.any (fun g => g.ctx == ctx && g.st.live) then s
  else s.updCtx ctx (fun c => { c with owed := [], overdue := false })

/-- A gang that has ended (R78): every group ended and nothing names it (R127). -/
def State.settleGang (s : State) (gang : Nat) : State :=
  match s.gang? gang with
  | none => s
  | some g =>
    if g.st.live && !g.taskGang && g.pass.isNone && g.waiters = 0 && !g.groups.isEmpty &&
        g.groups.all (fun r => r.ended) then
      ((s.updGang gang (fun g => { g with st := .done, doom := none })).updLaunch g.launch
        (fun l => { l with doneGangs := l.doneGangs + 1 })).lapse g.ctx
    else s

/-- A record that names a gang no longer does, and the gang perhaps ends (R127). -/
def State.unwait (s : State) (r : Rec) : State :=
  match s.gangOf r.launch r.gang with
  | some g => (s.updGang g.id (fun g => { g with waiters := g.waiters - 1 })).settleGang g.id
  | none => s

def State.await (s : State) (r : Rec) : State :=
  match s.gangOf r.launch r.gang with
  | some g => s.updGang g.id (fun g => { g with waiters := g.waiters + 1 })
  | none => s

/-- The task of a lane ends (R127): a candidate without a verdict is ignored, a pure task's entry is settled, and only
then the join word is decremented. -/
def State.endTask (s : State) (wave l : Nat) : State :=
  match s.wave? wave with
  | none => s
  | some w =>
    let lane := w.lane l
    match lane.rec_, s.ctx? w.ctx with
    | some r, some cx =>
      let s := if r.kind = 4 ∧ !lane.spoke then s.giveVerdict w.ctx r.handle .ignore else s
      let s := match lane.pure_ with
        | some p => s.endPure cx r p
        | none => s
      let s := (s.joinDec w.ctx w.core r.launch r.gang r.join).unwait r
      s.updWave wave (fun w => w.updLane l (fun lane => { lane with rec_ := none, pure_ := none, spoke := false }))
    | _, _ => s

/-- Threads of a wave end: their pending writes go, and their tasks end in lane order. -/
def State.endLanes (s : State) (wave : Nat) (lanes : Mask) : State :=
  (lanesOf lanes).foldl (fun s l => s.endTask wave l) (s.discardPending wave lanes)

/-! ## The region log's control block (R288, R289), and arrivals (R280, R281) -/

/-- Pages of the snapshot area. -/
def KHdr.snapPages (h : KHdr) : Nat := ceilDiv (h.gang * h.group / 32 * 28672) pageBytes

/-- The control block's 256 bytes. -/
def controlBytes (r : Region) (snapPages : Nat) : List Byte :=
  toBytes 4 0x5358524C ++ toBytes 1 r.st ++ toBytes 1 r.attempt ++ toBytes 2 0 ++ toBytes 8 r.region ++
    toBytes 4 snapPages ++ toBytes 4 r.used ++ toBytes 8 r.opened ++ toBytes 8 r.committed ++ toBytes 216 0

/-- The gang, its launch and its context, when it has a log. -/
def State.logOf (s : State) (gang : Nat) : Option (Gang × Launch × Ctx) :=
  match s.gang? gang with
  | none => none
  | some g =>
    if g.logPages = 0 then none
    else match s.launch? g.launch, s.ctx? g.ctx with
      | some l, some cx => some (g, l, cx)
      | _, _ => none

/-- The control block shows the region state. -/
def State.writeControl (s : State) (gang : Nat) : State :=
  match s.logOf gang with
  | some (g, l, cx) =>
    s.writeOut cx (some g.id) g.logBase ((controlBytes g.region l.hdr.snapPages).map (fun b => (b, false)))
  | none => s

/-- Has a wave arrived at an instruction of a kind that all waves of its gang meet (R280)? -/
def Wave.standsAt (w : Wave) (b : Block) : Bool :=
  (match w.frontier with | [e] => e.block == b | _ => false) && w.heldEntries.isEmpty && w.ctrs.all.all (fun c => c == 0)

/-- The first arrival at rgn.open opens, clearing ATTEMPT (R512); the first at rgn.commit commits. -/
def State.noteArrival (s : State) (wave : Nat) : State :=
  match s.wave? wave with
  | none => s
  | some w =>
    match w.gang with
    | none => s
    | some g =>
      match s.gang? g with
      | none => s
      | some gg =>
        let st := gg.region.st
        if w.standsAt .regionOpen && st == 0 then
          (s.updRegion g (fun r => { r with st := 1, attempt := 0 })).writeControl g
        else if w.standsAt .regionCommit && (st == 2 || st == 3) then
          (s.updRegion g (fun r => { r with st := 4 })).writeControl g
        else s

/-! ## The end of a gang, a group, a wave -/

/-- The exit record of a group (R330). Its stall counters count cycles, which the model leaves open (log 9). -/
def exitBytes (g : Gang) (r : Group) (status time : Nat) (stall : List Word) : List Byte :=
  toBytes 2 status ++ toBytes 1 g.lastCause ++ toBytes 1 g.relaunches ++ toBytes 4 0 ++ toBytes 8 r.start ++
    toBytes 8 time ++ toBytes 8 r.issued ++ toBytes 32 0 ++ (stall.map (fun n => toBytes 4 n.toNat)).flatten

/-- n free words (log 6). -/
def State.freeWords (s : State) : Nat → List Word × State
  | 0 => ([], s)
  | n + 1 =>
    let (w, s) := s.freeWord
    let (ws, s) := s.freeWords n
    (w :: ws, s)

/-- A group's exit record goes to its place of the launch's exit-record area (R75, R330). -/
def State.writeExit (s : State) (g : Gang) (r : Group) (status : Nat) : State :=
  match s.launch? g.launch, s.ctx? g.ctx with
  | some l, some cx =>
    if l.record.exitRec = 0 then s
    else
      let (stall, s) := s.freeWords 16
      s.writeOut cx (some g.id) (l.record.exitRec + 128 * r.linear) ((exitBytes g r status s.stamp stall).map (fun b => (b, false)))
  | _, _ => s

/-- A group all of whose waves have left ends, and with it perhaps its gang. -/
def State.settleGroup (s : State) (gang lin : Nat) : State :=
  match s.gang? gang with
  | none => s
  | some g =>
    match g.group? lin with
    | none => s
    | some r =>
      if !r.ended && !(s.waves.any (fun w => w.gang == some gang && w.group == lin && w.resident)) then
        ((s.writeExit g r 0).updGroup gang lin (fun r => { r with ended := true })).settleGang gang
      else s

/-- The registers of an ended wave, with those its frontier reserved (R98), go to its group's pool on its partition (R203). -/
def Group.give (r : Group) (core partition n : Nat) : Group :=
  if r.pools.any (fun p => p.core == core && p.partition == partition) then
    { r with pools := r.pools.map (fun (p : Pool) => if p.core = core ∧ p.partition = partition then
        { p with free := p.free + n } else p) }
  else { r with pools := r.pools ++ [{ core := core, partition := partition, free := n }] }

/-- A wave with no thread left ends; when no counter of it is held, it leaves its slot (R187, R203, R379). A handler that
ended every lane it ran with gives way to the entries it held (log 22). -/
def State.settleWave (s : State) (wave : Nat) : State :=
  match s.wave? wave with
  | none => s
  | some w =>
    if !w.frontier.isEmpty || (!w.resident && w.gang.isSome) then s.noteArrival wave
    else if !w.heldEntries.isEmpty then (s.updWave wave (fun w => { w with trapped := none })).leaveTrap w
    else
      let s := if w.ended then s
        else
          let s := s.updWave wave (fun w => { w with ended := true, hold := .none })
          match w.gang with
          | some g => s.updGroup g w.group (fun r => r.give w.core w.partition (roundUp (w.regs + 2 * (w.maxEntries - 8)) 8))
          | none => s
      let s := match w.gang with
        | some g => if w.trapMode && !w.ended then
            (s.updWave wave (fun w => { w with trapped := none })).leaveTrap { w with gang := some g } else s
        | none => s
      if s.busy wave then s
      else
        let s := s.updWave wave (fun w => { w with resident := false, trapMode := false })
        match w.gang with
        | some g => s.settleGroup g w.group
        | none => { s with waves := s.waves.filter (fun w => w.id != wave) }

/-! ## The end of an operation (R214) -/

/-- Parked continuations of request numbers whose operations have all completed go to dispatch (R465). -/
def State.releaseParks (s : State) (ctx core : Nat) : State :=
  match s.ctx? ctx with
  | none => s
  | some cx =>
    let ready := cx.parked.filter (fun p => p.ops.isEmpty)
    let s := s.updCtx ctx (fun c => { c with parked := c.parked.filter (fun p => !p.ops.isEmpty) })
    ready.foldl (fun s p => p.slots.foldl (fun s k => s.releaseSlot cx core k) s) s

/-- An operation has ended: its counter decrements, its window closes, what waited for it goes on. -/
def State.finishOp (s : State) (o : Op) : State :=
  let s := (s.dropOp o.id).updWave o.wave (fun w =>
    { w with
      ctrs := match o.ctr with
        | some k => w.ctrs.add k (-1)
        | none => w.ctrs
      windows := w.windows.filter (fun n => n.op != o.id) })
  let s := s.updCtx o.ctx (fun c => { c with parked := c.parked.map (fun (p : ParkSet) =>
    { p with ops := p.ops.filter (fun x => x != o.id) }) })
  (s.releaseParks o.ctx o.core).settleWave o.wave

/-- A wave issues an operation (R214, R341): its counter goes up, and a window opens when it writes registers. `marked` are lanes
whose residue check failed (R243). -/
def State.startOp (s : State) (w : Wave) (lanes : Mask) (ctr : Option Ctr) (la : Nat) (writes : Bool)
    (body : OpBody) (marked : Mask := 0) : Nat × State :=
  let (id, s) := s.fresh
  let o : Op := { id := id, wave := w.id, gang := w.gang, ctx := w.ctx, core := w.core, lanes := lanes, ctr := ctr,
                  body := body, at_ := s.time, pc := s.issue.elim 0 (fun i => i.pc), marked := marked, home := w.core }
  let s := { s with ops := s.ops ++ [o] }
  (id, s.updWave w.id (fun w =>
    { w with
      ctrs := match ctr with
        | some k => w.ctrs.add k 1
        | none => w.ctrs
      windows := if writes then w.windows ++ [Window.mk id la 0] else w.windows }))

end Sys2Proof.Machine
end

