-- ==== Sys2Proof/Machine/Softfloat.lean ====
section
/-! DEFINITION. Floating arithmetic on bit patterns (R227 to R233): exact values, one rounding, NaNs, and the operations
of IEEE 754-2019 the SX9 computes. Results are the exact value rounded once; transcendental values are taken to 420 binary
places before that one rounding (log 13). -/

namespace Sys2Proof.Machine

/-! ## Formats (R227) -/

/-- A binary format: exponent bits and fraction bits. -/
structure Fmt where
  eb : Nat
  mb : Nat
  deriving DecidableEq, Repr

def f64 : Fmt := { eb := 11, mb := 52 }
def f32 : Fmt := { eb := 8, mb := 23 }
def bf16 : Fmt := { eb := 8, mb := 7 }
def h16 : Fmt := { eb := 5, mb := 10 }

def Fmt.width (F : Fmt) : Nat := 1 + F.eb + F.mb
def Fmt.bias (F : Fmt) : Nat := 2 ^ (F.eb - 1) - 1
/-- The sign bit, +infinity, the largest finite value, the quiet bit, the canonical NaN. -/
def Fmt.sign (F : Fmt) : Nat := 2 ^ (F.eb + F.mb)
def Fmt.inf (F : Fmt) : Nat := (2 ^ F.eb - 1) * 2 ^ F.mb
def Fmt.maxFin (F : Fmt) : Nat := F.inf - 1
def Fmt.quiet (F : Fmt) : Nat := 2 ^ (F.mb - 1)
def Fmt.nan (F : Fmt) : Nat := F.inf + F.quiet
/-- The exponent of the last place of a subnormal. -/
def Fmt.last (F : Fmt) : Int := 1 - (F.bias : Int) - F.mb

/-- What a bit pattern means: a NaN, an infinity, or ±m × 2^e. -/
inductive FVal where
  | nan
  | inf (neg : Bool)
  | fin (neg : Bool) (m : Nat) (e : Int)
  deriving DecidableEq, Repr

def Fmt.neg (F : Fmt) (b : Nat) : Bool := bitOf b (F.eb + F.mb)
def Fmt.mag (F : Fmt) (b : Nat) : Nat := b % F.sign

def Fmt.val (F : Fmt) (b : Nat) : FVal :=
  let g := F.mag b
  if g > F.inf then .nan
  else if g = F.inf then .inf (F.neg b)
  else if g < 2 ^ F.mb then .fin (F.neg b) g F.last
  else .fin (F.neg b) (2 ^ F.mb + g % 2 ^ F.mb) (F.last + (g / 2 ^ F.mb : Nat) - 1)

def Fmt.isNan (F : Fmt) (b : Nat) : Bool := decide (F.mag b > F.inf)
def Fmt.isInf (F : Fmt) (b : Nat) : Bool := F.mag b == F.inf
def Fmt.isZero (F : Fmt) (b : Nat) : Bool := F.mag b == 0
def Fmt.isSub (F : Fmt) (b : Nat) : Bool := decide (0 < F.mag b) && decide (F.mag b < 2 ^ F.mb)

def Fmt.signed (F : Fmt) (neg : Bool) (g : Nat) : Nat := if neg then F.sign + g else g

/-- A subnormal input is read as zero of its sign (R230). -/
def Fmt.flush (F : Fmt) (on : Bool) (b : Nat) : Nat :=
  let b := b % 2 ^ F.width
  if on && F.mb ≤ 10 && F.isSub b then F.signed (F.neg b) 0 else b

/-! ## Rounding (R229) -/

/-- Is the quotient q with remainder r of d rounded up, by the code and the sign? -/
def roundUpBy (rnd : Nat) (neg : Bool) (q r d : Nat) : Bool :=
  match rnd with
  | 0 => decide (2 * r > d) || (2 * r == d && q % 2 == 1)
  | 1 => false
  | 2 => !neg && r != 0
  | _ => neg && r != 0

/-- What overflow gives. -/
def Fmt.overflow (F : Fmt) (rnd : Nat) (neg : Bool) : Nat :=
  F.signed neg (match rnd with
    | 0 => F.inf
    | 1 => F.maxFin
    | 2 => if neg then F.maxFin else F.inf
    | _ => if neg then F.inf else F.maxFin)

/-- floor(log2(num / den)) for positive numbers. -/
def ratLog (num den : Nat) : Int :=
  let k : Int := (num.log2 : Int) - den.log2
  if k ≥ 0 then (if num < den * 2 ^ k.toNat then k - 1 else k)
  else (if num * 2 ^ (-k).toNat < den then k - 1 else k)

/-- ±(num / den) × 2^e rounded to the format; num and den positive. -/
def Fmt.round (F : Fmt) (rnd : Nat) (neg : Bool) (num den : Nat) (e : Int) : Nat :=
  let lg := ratLog num den + e
  if lg > (F.bias : Int) + 1 then F.overflow rnd neg
  else
    let ulp := max (lg - F.mb) F.last
    let up := if lg < F.last - 1 then roundUpBy rnd neg 0 1 4
      else false
    if lg < F.last - 1 then F.signed neg (if up then 1 else 0)
    else
      let sh := e - ulp
      let n := if sh ≥ 0 then num * 2 ^ sh.toNat else num
      let d := if sh ≥ 0 then den else den * 2 ^ (-sh).toNat
      let q := n / d
      let q := if roundUpBy rnd neg q (n % d) d then q + 1 else q
      let g := (ulp - F.last).toNat * 2 ^ F.mb + q
      if g ≥ F.inf then F.overflow rnd neg else F.signed neg g

/-- ±m × 2^e, or the zero of that sign. -/
def Fmt.pack (F : Fmt) (rnd : Nat) (neg : Bool) (m : Nat) (e : Int) : Nat :=
  if m = 0 then F.signed neg 0 else F.round rnd neg m 1 e

/-- Saturation (R233). -/
def Fmt.sat (F : Fmt) (on : Bool) (b : Nat) : Nat :=
  if on && F.isInf b then F.signed (F.neg b) F.maxFin else b

/-! ## NaNs (R231) -/

/-- The first NaN operand, quieted. -/
def Fmt.firstNan (F : Fmt) : List Nat → Option Nat
  | [] => none
  | b :: t => if F.isNan b then some (b ||| F.quiet) else F.firstNan t

/-- The result unless an operand is a NaN. -/
def Fmt.guard (F : Fmt) (ops : List Nat) (r : Nat) : Nat := (F.firstNan ops).getD r

/-! ## Exact sums of dyadic numbers -/

/-- A signed mantissa. -/
def signedMant (neg : Bool) (m : Nat) : Int := if neg then -(m : Int) else m

/-- Numbers i × 2^e added exactly, at the least exponent. -/
structure Dyadic where
  i : Int
  e : Int
  deriving DecidableEq, Repr

def Dyadic.add (a b : Dyadic) : Dyadic :=
  let e := min a.e b.e
  { i := a.i * 2 ^ (a.e - e).toNat + b.i * 2 ^ (b.e - e).toNat, e := e }
def Dyadic.mul (a b : Dyadic) : Dyadic := { i := a.i * b.i, e := a.e + b.e }
def Dyadic.neg (a : Dyadic) : Dyadic := { a with i := -a.i }
def Dyadic.lt (a b : Dyadic) : Bool := decide ((a.add b.neg).i < 0)

/-- A nonzero exact number rounded; z for zero. -/
def Fmt.ofDyadic (F : Fmt) (rnd : Nat) (z : Nat) (x : Dyadic) : Nat :=
  if x.i = 0 then z else F.round rnd (decide (x.i < 0)) x.i.natAbs 1 x.e

/-- The sign of an exact zero sum (R387): that of the terms when they agree, else − only under code 3. -/
def zeroSign (rnd : Nat) (a b : Bool) : Bool := if a == b then a else rnd == 3

/-! ## Arithmetic (R387) -/

def Fmt.add (F : Fmt) (rnd a b : Nat) : Nat :=
  F.guard [a, b] (match F.val a, F.val b with
    | .inf s, .inf t => if s == t then F.signed s F.inf else F.nan
    | .inf s, _ => F.signed s F.inf
    | _, .inf t => F.signed t F.inf
    | .fin s m e, .fin t n k =>
      let x := Dyadic.add { i := signedMant s m, e := e } { i := signedMant t n, e := k }
      F.ofDyadic rnd (F.signed (if m = 0 ∧ n = 0 then zeroSign rnd s t else rnd == 3) 0) x
    | _, _ => F.nan)

/-- The sign bit flipped, a NaN's too: fsub's b before the sum takes it as −b (a NaN is returned as it is). -/
def Fmt.flip (F : Fmt) (b : Nat) : Nat := F.signed (!F.neg b) (F.mag b)

def Fmt.sub (F : Fmt) (rnd a b : Nat) : Nat := F.guard [a, b] (F.add rnd a (F.flip b))

def Fmt.mul (F : Fmt) (rnd a b : Nat) : Nat :=
  F.guard [a, b] (match F.val a, F.val b with
    | .inf s, .inf t => F.signed (s != t) F.inf
    | .inf s, .fin t n _ => if n = 0 then F.nan else F.signed (s != t) F.inf
    | .fin s m _, .inf t => if m = 0 then F.nan else F.signed (s != t) F.inf
    | .fin s m e, .fin t n k => F.pack rnd (s != t) (m * n) (e + k)
    | _, _ => F.nan)

def Fmt.fma (F : Fmt) (rnd a b c : Nat) : Nat :=
  F.guard [a, b, c] (match F.val a, F.val b, F.val c with
    | .fin s m e, .fin t n k, .fin u p j =>
      let x := Dyadic.add { i := signedMant (s != t) (m * n), e := e + k } { i := signedMant u p, e := j }
      F.ofDyadic rnd (F.signed (if m * n = 0 ∧ p = 0 then zeroSign rnd (s != t) u else rnd == 3) 0) x
    | .fin _ _ _, .fin _ _ _, .inf u => F.signed u F.inf
    | .inf s, .inf t, .inf u => if (s != t) == u then F.signed u F.inf else F.nan
    | .inf s, .fin t n _, .inf u => if n ≠ 0 ∧ (s != t) = u then F.signed u F.inf else F.nan
    | .fin s m _, .inf t, .inf u => if m ≠ 0 ∧ (s != t) = u then F.signed u F.inf else F.nan
    | .inf s, .inf t, _ => F.signed (s != t) F.inf
    | .inf s, .fin t n _, _ => if n = 0 then F.nan else F.signed (s != t) F.inf
    | .fin s m _, .inf t, _ => if m = 0 then F.nan else F.signed (s != t) F.inf
    | _, _, _ => F.nan)

def Fmt.div (F : Fmt) (rnd a b : Nat) : Nat :=
  F.guard [a, b] (match F.val a, F.val b with
    | .inf _, .inf _ => F.nan
    | .inf s, .fin t _ _ => F.signed (s != t) F.inf
    | .fin s _ _, .inf t => F.signed (s != t) 0
    | .fin s m e, .fin t n k =>
      if n = 0 then (if m = 0 then F.nan else F.signed (s != t) F.inf)
      else if m = 0 then F.signed (s != t) 0
      else F.round rnd (s != t) m n (e - k)
    | _, _ => F.nan)

/-- floor(√n), bit by bit. -/
def isqrtFrom (n r : Nat) : Nat → Nat
  | 0 => r
  | k + 1 => let c := r + 2 ^ k; isqrtFrom n (if c * c ≤ n then c else r) k
def isqrt (n : Nat) : Nat := isqrtFrom n 0 (n.log2 / 2 + 1)

/-- m × 2^e with an even exponent. -/
def evenExp (m : Nat) (e : Int) : Nat × Int := if e % 2 = 0 then (m, e) else (2 * m, e - 1)

def Fmt.sqrt (F : Fmt) (rnd a : Nat) : Nat :=
  F.guard [a] (match F.val a with
    | .inf s => if s then F.nan else F.inf
    | .fin s m e =>
      if m = 0 then F.signed s 0
      else if s then F.nan
      else
        let (m, e) := evenExp m e
        let k := F.mb + 4
        let n := m * 4 ^ k
        let r := isqrt n
        F.round rnd false (2 * r + (if r * r = n then 0 else 1)) 1 (e / 2 - k - 1)
    | .nan => F.nan)

/-- 1.0 of the format. -/
def Fmt.one (F : Fmt) : Nat := F.bias * 2 ^ F.mb

def Fmt.rcp (F : Fmt) (rnd a : Nat) : Nat := F.guard [a] (F.div rnd F.one a)

def Fmt.rsq (F : Fmt) (rnd a : Nat) : Nat :=
  F.guard [a] (match F.val a with
    | .inf s => if s then F.nan else 0
    | .fin s m e =>
      if m = 0 then F.signed s F.inf
      else if s then F.nan
      else
        let (m, e) := evenExp m e
        let k := 2 * F.mb + 8
        let r := isqrt (4 ^ k / m)
        F.round rnd false (2 * r + (if r * r * m = 4 ^ k then 0 else 1)) 1 (-(e / 2) - k - 1)
    | .nan => F.nan)

/-- roundToIntegral (R391). -/
def Fmt.rint (F : Fmt) (rnd a : Nat) : Nat :=
  F.guard [a] (match F.val a with
    | .fin s m e =>
      if e ≥ 0 then a
      else
        let d := 2 ^ (-e).toNat
        let q := m / d
        F.pack 0 s (if roundUpBy rnd s q (m % d) d then q + 1 else q) 0
    | _ => a)

/-- The value rounded to an integer (R398). -/
def toInteger (rnd : Nat) (neg : Bool) (m : Nat) (e : Int) : Int :=
  if e ≥ 0 then signedMant neg (m * 2 ^ e.toNat)
  else
    let d := 2 ^ (-e).toNat
    let q := m / d
    signedMant neg (if roundUpBy rnd neg q (m % d) d then q + 1 else q)

/-- An integer rounded to the format. -/
def Fmt.ofInt (F : Fmt) (rnd : Nat) (i : Int) : Nat := F.pack rnd (decide (i < 0)) i.natAbs 0

def Fmt.scale (F : Fmt) (rnd a : Nat) (n : Int) : Nat :=
  F.guard [a] (match F.val a with
    | .fin s m e => F.pack rnd s m (e + n)
    | _ => a)

/-! ## Order (R232, R389) -/

/-- A number's place in the order with −0 below +0. -/
def Fmt.rank (F : Fmt) (b : Nat) : Int := if F.neg b then -(F.mag b : Int) - 1 else F.mag b

def Fmt.less (F : Fmt) (a b : Nat) : Bool :=
  !(F.isZero a && F.isZero b) && decide (F.rank a < F.rank b)

def Fmt.minmax (F : Fmt) (max_ : Bool) (a b : Nat) : Nat :=
  match F.isNan a, F.isNan b with
  | true, true => a ||| F.quiet
  | true, false => b
  | false, true => a
  | false, false =>
    if (if max_ then decide (F.rank a < F.rank b) else decide (F.rank b < F.rank a)) then b else a

/-- "a cond b": 0 eq, 1 ne, 2 lt, 3 le, 4 gt, 5 ge, 6 ord, 7 uno. -/
def Fmt.cond (F : Fmt) (c a b : Nat) : Bool :=
  let uno := F.isNan a || F.isNan b
  let eq := (F.isZero a && F.isZero b) || a == b
  match c with
  | 0 => !uno && eq
  | 1 => uno || !eq
  | 2 => !uno && F.less a b
  | 3 => !uno && (F.less a b || eq)
  | 4 => !uno && F.less b a
  | 5 => !uno && (F.less b a || eq)
  | 6 => !uno
  | _ => uno

/-- The class bit of a value (R390). -/
def Fmt.classBit (F : Fmt) (b : Nat) : Nat :=
  let s := F.neg b
  if F.isNan b then (if bitOf b (F.mb - 1) then 1 else 0)
  else if F.isInf b then (if s then 2 else 9)
  else if F.isZero b then (if s then 5 else 6)
  else if F.isSub b then (if s then 4 else 7)
  else if s then 3 else 8

/-- floor(log2 |a|), with R395's codes, in w bits. -/
def Fmt.expo (F : Fmt) (w b : Nat) : Nat :=
  match F.val b with
  | .nan => 2 ^ (w - 1) + 1
  | .inf _ => 2 ^ (w - 1) - 1
  | .fin _ m e => if m = 0 then 2 ^ (w - 1) else wrap w ((m.log2 : Int) + e)

/-! ## Conversion between formats (R231, R398) -/

/-- A NaN carried to another format: sign, the payload's most significant bits, the quiet bit set. -/
def convNan (F G : Fmt) (b : Nat) : Nat :=
  let p := b % 2 ^ F.mb
  let p := if G.mb ≥ F.mb then p * 2 ^ (G.mb - F.mb) else p / 2 ^ (F.mb - G.mb)
  G.signed (F.neg b) (G.inf + (p ||| G.quiet))

def convert (F G : Fmt) (rnd : Nat) (b : Nat) : Nat :=
  match F.val b with
  | .nan => convNan F G b
  | .inf s => G.signed s G.inf
  | .fin s m e => G.pack rnd s m e

/-! ## Functions (R393), to 420 places (log 13) -/

def fxBits : Nat := 420
/-- ln 2 and π, times 2^420, rounded down. -/
def fxLn2 : Nat := 0xb17217f7d1cf79abc9e3b39803f2f6af40f343267298b62d8a0d175b8baafa2be7b876206debac98559552fb4afa1b10ed2eae35c
def fxPi : Nat := 0x3243f6a8885a308d313198a2e03707344a4093822299f31d0082efa98ec4e6c89452821e638d01377be5466cf34e90c6cc0ac29b7c

/-- Σ x^k / k! in fixed point, from a term on. -/
def expSeries (x term k : Nat) : Nat → Nat
  | 0 => 0
  | fuel + 1 => term + expSeries x (term * x / 2 ^ fxBits / (k + 1)) (k + 1) fuel

/-- Σ z^(2j+1) / (2j + 1). -/
def atanhSeries (z2 pow k : Nat) : Nat → Nat
  | 0 => 0
  | fuel + 1 => pow / k + atanhSeries z2 (pow * z2 / 2 ^ fxBits) (k + 2) fuel

/-- Alternating Σ x^k / k! over k, k + 2, …: a sine or a cosine. -/
def trigSeries (x2 term k : Nat) (sub : Bool) : Nat → Int
  | 0 => 0
  | fuel + 1 =>
    (if sub then -(term : Int) else term) +
      trigSeries x2 (term * x2 / 2 ^ fxBits / ((k + 1) * (k + 2))) (k + 2) (!sub) fuel

/-- A fixed-point value strictly between t and t + 1 last places, rounded. -/
def Fmt.roundFx (F : Fmt) (rnd : Nat) (neg : Bool) (t : Nat) (e : Int) : Nat :=
  F.round rnd neg (2 * t + 1) 1 (e - fxBits - 1)

def Fmt.exp2 (F : Fmt) (rnd a : Nat) : Nat :=
  F.guard [a] (match F.val a with
    | .inf s => if s then 0 else F.inf
    | .fin s m e =>
      if m = 0 then F.one
      else if (m.log2 : Int) + e ≥ 10 then F.round rnd false 3 1 (if s then -100000 else 100000)
      else if e ≥ 0 then F.round rnd false 1 1 (signedMant s (m * 2 ^ e.toNat))
      else
        -- x × 2^420 = n × 2^420 + f
        let x := signedMant s (m * 2 ^ ((fxBits : Int) + e).toNat)
        let n := Int.fdiv x (2 ^ fxBits)
        let f := (x - n * 2 ^ fxBits).toNat
        if f = 0 then F.round rnd false 1 1 n
        else F.roundFx rnd false (expSeries (f * fxLn2 / 2 ^ fxBits) (2 ^ fxBits) 0 120) n
    | .nan => F.nan)

def Fmt.log2 (F : Fmt) (rnd a : Nat) : Nat :=
  F.guard [a] (match F.val a with
    | .inf s => if s then F.nan else F.inf
    | .fin s m e =>
      if m = 0 then F.signed true F.inf
      else if s then F.nan
      else
        let k := m.log2
        let n : Int := (k : Int) + e
        if m = 2 ^ k then F.ofInt rnd n
        else
          let z := (m - 2 ^ k) * 2 ^ fxBits / (m + 2 ^ k)
          let l := 2 * atanhSeries (z * z / 2 ^ fxBits) z 1 140
          let t : Int := n * 2 ^ fxBits + (l * 2 ^ fxBits / fxLn2 : Nat)
          if t < 0 then F.roundFx rnd true ((-t).toNat - 1) 0 else F.roundFx rnd false t.toNat 0
    | .nan => F.nan)

/-- sin(π u) and cos(π u) for 0 < u < 1/2, times 2^420; u is times 2^420. -/
def fxSinPi (u : Nat) : Nat :=
  let x := u * fxPi / 2 ^ fxBits
  (trigSeries (x * x / 2 ^ fxBits) x 1 false 80).toNat
def fxCosPi (u : Nat) : Nat :=
  let x := u * fxPi / 2 ^ fxBits
  (trigSeries (x * x / 2 ^ fxBits) (2 ^ fxBits) 0 false 80).toNat

/-- |x| modulo 2, times 2^420. -/
def fxTurn (m : Nat) (e : Int) : Nat :=
  if e ≥ 1 then 0 else m * 2 ^ ((fxBits : Int) + e).toNat % 2 ^ (fxBits + 1)

/-- sin(π t) for a turn t: its sign and, when it is not 0 or ±1, the magnitude's fixed-point value. -/
inductive Trig where
  | zero
  | one (neg : Bool)
  | mag (neg : Bool) (t : Nat)
  deriving DecidableEq, Repr

def sinTurn (t : Nat) : Trig :=
  let half := 2 ^ (fxBits - 1)
  let neg := decide (t ≥ 2 * half)
  let u := t % (2 * half)
  let u := if u > half then 2 * half - u else u
  if u = 0 then .zero
  else if u = half then .one neg
  else .mag neg (fxSinPi u)

def cosTurn (t : Nat) : Trig :=
  let half := 2 ^ (fxBits - 1)
  let u := if t > 2 * half then 4 * half - t else t
  let neg := decide (u > half)
  let u := if u > half then 2 * half - u else u
  if u = half then .zero
  else if u = 0 then .one neg
  else .mag neg (fxCosPi u)

def Fmt.sinPi (F : Fmt) (rnd a : Nat) : Nat :=
  F.guard [a] (match F.val a with
    | .inf _ => F.nan
    | .fin s m e => match sinTurn (fxTurn m e) with
      | .zero => F.signed s 0
      | .one n => F.signed (n != s) F.one
      | .mag n t => F.roundFx rnd (n != s) t 0
    | .nan => F.nan)

def Fmt.cosPi (F : Fmt) (rnd a : Nat) : Nat :=
  F.guard [a] (match F.val a with
    | .inf _ => F.nan
    | .fin _ m e => match cosTurn (fxTurn m e) with
      | .zero => 0
      | .one n => F.signed n F.one
      | .mag n t => F.roundFx rnd n t 0
    | .nan => F.nan)

end Sys2Proof.Machine
end

