-- ==== Sys2Proof/Machine/Reach.lean ====
section
/-! DEFINITION. What accesses reach beyond their core: the operations at a word's home (R443 to R446), requests to
other packages (R19 to R24, R258), records on their way to dispatch (R124, R138), what a region holds back (R281 to R291),
scratchpad places (R248, R285), and the order in which operations in flight may be performed (R269 to R274). -/

namespace Sys2Proof.Machine

/-! ## Atomic operations (R443, R445) -/

def atomFmt (w : Nat) : Fmt := if w = 64 then f64 else f32

/-- The new word. -/
def atomNew (op : AtomOp) (w : Nat) (signed : Bool) (old b c : Nat) : Nat :=
  let less (x y : Nat) : Bool := if signed then decide (toSigned w x < toSigned w y) else decide (x < y)
  match op with
  | .add => (old + b) % 2 ^ w
  | .min => if less b old then b else old
  | .max => if less old b then b else old
  | .and => old &&& b
  | .or => old ||| b
  | .xor => old ^^^ b
  | .xch => b
  | .cas => if old = b then c else old
  | .fadd => (atomFmt w).add 0 old b

/-- An operation at a word's home (R255, R256, R257, R435): owners are recalled first; none when the word is poisoned,
which stays as it is. -/
def State.atomicHome (s : State) (by_ : Option Nat) (pa w : Nat) (f : Nat → Nat) : Option Nat × State :=
  let s := s.recall none [pa / 128]
  let bs := s.currentBytes pa (w / 8)
  let old := ofBytes (bs.map (fun b => b.1))
  if bs.any (fun b => b.2) then (none, s)
  else (some old, s.writeHome by_ (putsOf pa ((toBytes (w / 8) (f old)).map (fun b => (b, false)))))

/-! ## Accesses of an operation -/

def OpBody.accs : OpBody → List Acc
  | .load _ _ _ _ _ _ _ accs => accs
  | .store _ _ _ items | .pin _ _ _ _ items => items.map (fun x => x.1)
  | .atom _ _ _ _ items _ => items.map (fun x => x.acc)
  | _ => []

/-- Bytes each access touches. -/
def OpBody.bytes : OpBody → Nat
  | .load _ n _ _ _ _ _ _ => n
  | .store n _ _ _ | .pin n _ _ _ _ => n
  | .atom _ w _ _ _ _ => w / 8
  | _ => 0

def OpBody.isLoad : OpBody → Bool
  | .load _ _ _ _ _ _ _ _ | .fifoPop _ _ _ _ _ => true
  | _ => false
def OpBody.isStore : OpBody → Bool
  | .store _ _ _ _ | .fifoPush _ _ _ _ => true
  | _ => false
def OpBody.isAtom : OpBody → Bool
  | .atom _ _ _ _ _ _ => true
  | _ => false
def OpBody.isCopy : OpBody → Bool
  | .copy _ _ _ _ _ _ => true
  | _ => false
def OpBody.isMatrix : OpBody → Bool
  | .matrix | .follow _ _ _ _ _ _ _ _ => true
  | _ => false
def OpBody.isAccess (b : OpBody) : Bool := b.isLoad || b.isStore || b.isAtom
def OpBody.isAcq : OpBody → Bool
  | .load _ _ _ _ acq _ _ _ => acq
  | _ => false

def Loc.isRemote : Loc → Bool
  | .remote _ _ => true
  | _ => false

/-- The accesses that go to other packages; those of a region's stores wait for its commit (R286). -/
def OpBody.remotes : OpBody → List Acc
  | .pin _ _ _ _ _ => []
  | b => b.accs.filter (fun a => a.loc.isRemote)
def OpBody.isRemote (b : OpBody) : Bool := !b.remotes.isEmpty

/-- Do two accesses share a 32-bit word? -/
def Loc.meets (a : Loc) (n : Nat) (b : Loc) (m : Nat) : Bool :=
  let meet (x y : Nat) : Bool := decide (x / 4 < (y + m + 3) / 4) && decide (y / 4 < (x + n + 3) / 4)
  match a, b with
  | .home x, .home y => meet x y
  | .remote p x, .remote q y => p == q && meet x y
  | .sp g p x, .sp h q y => g == h && p == q && meet x y
  | _, _ => false

/-- The home slices of an operation's local words (R253). -/
def OpBody.homes (b : OpBody) : List (Nat × Nat) :=
  b.accs.filterMap (fun a => match a.loc with
    | .home pa => some (homeDie pa, homeSlice pa)
    | _ => none)

/-- The queue register a delivery fills, and the FIFO a push or pop is for. -/
def OpBody.queue? (b : OpBody) : Option Nat :=
  match b.dst? with
  | some d => match d.lanes with
    | (_, .q n) :: _ => some n
    | _ => none
  | none => none
def OpBody.fifo? : OpBody → Option (Bool × Nat × Nat × Nat)
  | .fifoPop _ g p n _ => some (false, g, p, n)
  | .fifoPush g p n _ => some (true, g, p, n)
  | _ => none

/-! ## Order (R269 to R274, R439, R450) -/

/-- Must an earlier operation be performed before a later one of its core? An acquire load before what its threads do next
(R272); a thread's accesses to one word in program order (R270, R437); stores of a core to one home (R269); a copy after
its wave's stores and copies (R274, R450), a matrix command's reads after both (R425); deliveries to one queue (R223) and
pushes and pops of one FIFO (R439). -/
def Op.blocks (e o : Op) : Bool :=
  let mine := e.wave == o.wave
  let lanes := e.lanes &&& o.lanes != 0
  (mine && lanes && e.body.isAcq && o.body.isAccess) ||
  (mine && lanes && e.body.accs.any (fun a => o.body.accs.any (fun b =>
    a.lane == b.lane && a.loc.meets e.body.bytes b.loc o.body.bytes))) ||
  (e.core == o.core && e.body.isStore && o.body.isStore && e.body.homes.any (fun h => o.body.homes.contains h)) ||
  (mine && (o.body.isCopy || o.body.isMatrix) && (e.body.isStore || e.body.isCopy)) ||
  (mine && e.body.queue?.isSome && e.body.queue? == o.body.queue?) ||
  (mine && e.body.fifo?.isSome && e.body.fifo? == o.body.fifo?)

/-- What a release of the threads of an operation waits for (R271). -/
def Op.releaseNeeds (e o : Op) : Bool :=
  (e.wave == o.wave && e.lanes &&& o.lanes != 0 && e.body.isAccess) || (e.core == o.core && e.body.isStore)

/-- Is an earlier fence.rel of its threads still incomplete (R271)? -/
def heldByFence (before : List Op) (o : Op) : Bool :=
  (o.body.isStore || o.body.isAtom) &&
    before.any (fun f => f.body == .fence && f.wave == o.wave && f.lanes &&& o.lanes != 0 &&
      before.any (fun e => decide (e.id < f.id) && e.releaseNeeds f))

/-- May an operation in flight be performed now? -/
def State.canPerform (s : State) (o : Op) : Bool :=
  let before := s.ops.filter (fun e => decide (e.id < o.id))
  !before.any (fun e => e.blocks o) && !heldByFence before o

/-- Fences whose wait is over leave. -/
def State.dropFences (s : State) : State :=
  { s with ops := s.ops.filter (fun f => !(f.body == .fence &&
      !s.ops.any (fun e => decide (e.id < f.id) && e.releaseNeeds f))) }

/-! ## Other packages (R19, R21 to R24) -/

/-- What one access asks of the other package. -/
def OpBody.wire (b : OpBody) (a : Acc) : PeerKind :=
  match b with
  | .store n _ _ items => .write n (((items.find? (fun x => x.1 == a)).map (fun x => x.2.map WireWord.ofP)).getD [])
  | .atom op w sg _ items _ =>
    match items.find? (fun x => x.acc == a) with
    | some x => .atomic op w sg x.b x.c
    | none => .read (w / 8)
  | b => .read b.bytes

/-- One access's request goes out, where the package can be reached (R24). -/
def State.ask (o : Op) (s : State) (a : Acc) : State :=
  match a.loc with
  | .remote pkg pa => s.sendRequest o.id pkg pa (o.body.wire a)
  | _ => s

/-- Accesses of an operation that no relay leads to: they fail at the source (R24). -/
def State.unreached (s : State) (b : OpBody) : List Nat :=
  (b.remotes.filter (fun a => match a.loc with
    | .remote pkg _ => !s.dev.rmap.routes s.dev.pkg pkg
    | _ => false)).map (fun a => a.lane)

/-- An operation's requests go out, when nothing earlier holds them (R258). -/
def State.sendOp (s : State) (id : Nat) : State :=
  match s.op? id with
  | none => s
  | some o =>
    if !o.body.isRemote || o.waitSince.isSome || !s.canPerform o then s
    else
      let s := o.body.remotes.foldl (State.ask o) s
      s.updOp id (fun o => { o with waitSince := some s.time, cut := s.unreached o.body })

/-- Requests that were held go out. -/
def State.sendReady (s : State) : State := s.ops.foldl (fun s o => s.sendOp o.id) s

/-- An operation ends, and what it held goes on. -/
def State.endOp (s : State) (o : Op) : State := ((s.finishOp o).dropFences).sendReady

/-- An operation the device carries out for a gang, with no wave waiting for it. -/
def State.deviceOp (s : State) (gang : Option Nat) (ctx core : Nat) (body : OpBody) : State :=
  let (id, s) := s.fresh
  let o : Op := { id := id, wave := 0, gang := gang, ctx := ctx, core := core, lanes := 0, ctr := none, body := body,
                  at_ := s.time, home := core }
  State.sendOp { s with ops := s.ops ++ [o] } id

/-- A wave issues an access: it starts, and its requests go out. -/
def State.startAccess (s : State) (w : Wave) (lanes : Mask) (ctr : Ctr) (la : Nat) (writes : Bool) (body : OpBody)
    (marked : Mask := 0) : State :=
  let (id, s) := s.startOp w lanes (some ctr) la writes body marked
  if body.isRemote then s.sendOp id else s

/-! ## Poison reports (R309) -/

def State.poisonReport (s : State) (ctx gangIdx source va : Nat) : State :=
  match s.ctx? ctx with
  | none => s
  | some c =>
    let second := s.time / 1000000000
    let used := if c.reportSecond = second then c.reports else 0
    if used < 1000 then
      (s.event ctx 7 source gangIdx (va % 2 ^ 56 + 2 ^ 56 * min c.dropped 255)).updCtx ctx
        (fun c => { c with reportSecond := second, reports := used + 1, dropped := 0 })
    else s.updCtx ctx (fun c => { c with reportSecond := second, reports := used, dropped := c.dropped + 1 })

/-! ## Records to dispatch (R124, R138) -/

/-- A tile descriptor of the pure block (R122): address and length in bytes. -/
def tileOf (tbase d : Nat) : Nat × Nat := (tbase + field d 12 20 * 256, field d 0 12 * 256)

def Rec.tbase (r : Rec) : Nat := (r.tail.getD 0 0).toNat + 2 ^ 32 * (r.tail.getD 1 0).toNat
def Rec.nargs (r : Rec) : Nat := field (r.tail.getD 7 0).toNat 0 8
def Rec.args (r : Rec) : List (Nat × Nat) :=
  ((List.range 4).map (fun i => tileOf r.tbase (r.tail.getD (2 + i) 0).toNat)).filter (fun t => decide (0 < t.2))
def Rec.res (r : Rec) : Nat × Nat := tileOf r.tbase (r.tail.getD 6 0).toNat

/-- The small pages of a tile. -/
def tilePages (t : Nat × Nat) : List Nat :=
  if t.2 = 0 then [] else (List.range ((t.1 + t.2 - 1) / pageBytes - t.1 / pageBytes + 1)).map (fun i => t.1 / pageBytes + i)

/-- The physical pages of the argument tiles, where they are local. -/
def State.argPages (s : State) (cx : Ctx) (r : Rec) : List (Option Nat) :=
  ((r.args.map tilePages).flatten).map (fun v => (s.localPa cx .load (v * pageBytes)).map (fun x => x / pageBytes))

/-- A pure spawn registers its argument pages, as many as are local and find room, and waits for its digest (R138, R139). -/
def State.startSpawn (s : State) (cx : Ctx) (core : Nat) (r : Rec) : State :=
  let (id, s) := s.fresh
  let all := s.argPages cx r
  let pages := (all.filterMap (fun p => p)).foldl (fun ps p => if s.watchRoom (ps ++ [p]) then ps ++ [p] else ps) []
  let ok := pages.length == all.length
  { s with spawns := s.spawns ++ [{ id := id, core := core, ctx := cx.id, launch := r.launch, rec_ := r, pages := pages,
                                    ok := ok, stale := false, hit := none }] }

/-- A record built by a spawn goes its way: a pure one through the reuse table. -/
def State.spawnRec (s : State) (cx : Ctx) (core : Nat) (r : Rec) : State :=
  let s := s.await r
  if r.kind = 1 then s.startSpawn cx core r else s.dispatchRec cx core r

/-! ## The deterministic buffer (R305) -/

/-- A buffered operation; the pages are taken from the free pool as it grows. A full buffer kills the gang. -/
def State.bufferDet (s : State) (gang : Nat) (d : DetOp) : State :=
  let full : State := s.updGang gang (fun g =>
    { g with doom := some { source := 0x0B, core := none, cause := 0, reason := 5, kill := true } })
  match (s.gang? gang).bind (fun g => s.launch? g.launch) with
  | none => s
  | some l =>
    let n := l.detOps.length
    if n ≥ 16777216 then full
    else if n % 4096 = 0 then
      match s.takePage with
      | none => full
      | some (p, s) => s.updLaunch l.id (fun l => { l with detOps := l.detOps ++ [d], detPages := l.detPages ++ [p] })
    else s.updLaunch l.id (fun l => { l with detOps := l.detOps ++ [d] })

/-- Has the gang's launch deterministic FP atomics? -/
def State.detLaunch (s : State) (launch : Nat) : Bool :=
  match s.launch? launch with
  | some l => bitOf l.record.flags 0
  | none => false

/-! ## What a region holds back (R283 to R286, R294) -/

/-- KEY (R286). -/
def keyOf (group wave lane count : Nat) : Nat :=
  2 ^ 60 * (group % 16) + 2 ^ 53 * (wave % 128) + 2 ^ 48 * (lane % 32) + count % 2 ^ 48

/-- A deferred operation takes effect (R294 steps 6 and 7). -/
def State.applyDeferred (s : State) (gang : Nat) (d : Deferred) : State :=
  match s.gang? gang with
  | none => s
  | some g =>
    match d.body with
    | .atom op w sg loc b c =>
      if op == .fadd && s.detLaunch g.launch then
        let lin := ((g.groups[d.key / 2 ^ 60]?).map (fun r => r.linear)).getD 0
        s.bufferDet gang { key := (lin, field d.key 53 7, field d.key 48 5, field d.key 0 48), loc := loc, width := w, b := b }
      else match loc with
        | .home pa => (s.atomicHome (some g.ctx) pa w (fun old => atomNew op w sg old b.toNat c.toNat)).2
        | .remote _ _ =>
          s.deviceOp (some gang) g.ctx d.core
            (.atom op w sg none [{ acc := { lane := 0, va := d.va, loc := loc }, b := b, c := c }] [])
        | .sp _ _ _ => s
    | .store loc bytes marks =>
      let ws := (List.range (ceilDiv bytes.length 4)).map (fun i =>
        { val := BitVec.ofNat 32 (numAt bytes (4 * i) 4), mark := marks.getD i false : PWord })
      s.deviceOp (some gang) g.ctx d.core (.store bytes.length true false [({ lane := 0, va := d.va, loc := loc }, ws)])
    | .spawn r =>
      match s.ctx? g.ctx with
      | none => s
      | some cx =>
        let s := if r.join = 0 then s else match s.localPa cx .store r.join with
          | some pa => s.joinInc cx.id pa
          | none => s
        s.spawnRec cx d.core r

/-- Lines held back go to their homes as an engine write (R294 steps 4 and 5). -/
def State.drainLines (s : State) (ctx : Nat) (ls : List WLine) : State :=
  ls.foldl (fun s n =>
    if n.words.isEmpty then s else s.writeMem (some ctx) ((n.words.map (fun w => putsOfWord w.1 w.2)).flatten)) s

def sortedDeferred (r : Region) : List Deferred := sortBy (fun a b => decide (a.key < b.key)) r.deferred

/-! ## Record entries (R288, R291) -/

/-- Where a record entry stands, and how many the record area holds. -/
def Gang.recordVa (g : Gang) (h : KHdr) (e : Nat) : Nat :=
  g.logBase + (1 + h.snapPages + e / 819) * pageBytes + e % 819 * 160
def Gang.recordRoom (g : Gang) (h : KHdr) : Nat := (g.logPages - 1 - h.snapPages) * 819

/-- A record entry of 160 bytes. -/
def recordBytes (type place aux0 aux1 addr key : Nat) (body : List Byte) : List Byte :=
  toBytes 1 type ++ toBytes 1 place ++ toBytes 2 0 ++ toBytes 4 aux0 ++ toBytes 4 aux1 ++ toBytes 4 0 ++ toBytes 8 addr ++
    toBytes 8 key ++ slice 0 body 0 128

def State.putRecord (s : State) (gang e : Nat) (bs : List Byte) : State :=
  match s.logOf gang with
  | some (g, l, cx) => s.writeOut cx (some gang) (g.recordVa l.hdr e) (bs.map (fun b => (b, false)))
  | none => s

/-- A record entry is appended: its number, or none when the record area is full. -/
def State.appendRecord (s : State) (gang : Nat) (bs : List Byte) : Option (Nat × State) :=
  match s.logOf gang with
  | none => none
  | some (g, l, _) =>
    if g.region.used ≥ g.recordRoom l.hdr then none
    else
      some (g.region.used,
        ((s.putRecord gang g.region.used bs).updRegion gang (fun r => { r with used := r.used + 1 })).writeControl gang)

def Deferred.isSpawn (d : Deferred) : Bool :=
  match d.body with
  | .spawn _ => true
  | .atom _ _ _ _ _ _ | .store _ _ _ => false

/-- Remote operations that a commit or an overflow has sent and that have not been performed. -/
def State.commitOut (s : State) (gang : Nat) : Bool :=
  s.ops.any (fun o => o.gang == some gang && o.wave == 0 && o.body.isRemote)

/-- Room in the ring for every spawn the region still holds (R134). -/
def State.spawnsFit (s : State) (g : Gang) : Bool :=
  match s.ctx? g.ctx with
  | none => true
  | some cx =>
    let n := (g.region.deferred.filter (fun d => d.isSpawn)).length
    n = 0 || decide (s.ringCount cx + n ≤ cx.ringSlots)

/-- The spawns an overflow still holds go their way once its other operations are performed (R284, R294 step 7). -/
def State.overflowSpawns (s : State) (gang : Nat) : State :=
  match s.gang? gang with
  | none => s
  | some g =>
    if !g.region.overflow || g.region.st == 5 || g.region.deferred.isEmpty || s.commitOut gang || !s.spawnsFit g then s
    else (sortedDeferred g.region).foldl (fun s d => s.applyDeferred gang d) (s.updRegion gang (fun r => { r with deferred := [] }))

/-- The log overflows (R284): the region can no longer be replayed; what it held back takes effect, and from now on the
region's effects are as outside it. In state 1 the release moves to state 3 (log 100). -/
def State.overflow (s : State) (gang : Nat) : State :=
  match s.gang? gang with
  | none => s
  | some g =>
    let r := g.region
    let s := s.updRegion gang (fun r =>
      { r with st := if r.st = 1 then 1 else 3, overflow := true, lines := [], journal := [],
               deferred := r.deferred.filter (fun d => d.isSpawn) })
    let s := s.drainLines g.ctx (r.lines.filter (fun n => !n.spilled) ++ r.lines.filter (fun n => n.spilled))
    ((((sortedDeferred r).filter (fun d => !d.isSpawn)).foldl (fun s d => s.applyDeferred gang d) s).overflowSpawns gang).writeControl gang

/-! ## Scratchpad (R248, R285) -/

/-- The pairs of group and core of a gang, in order, as places. -/
def Gang.pairs (g : Gang) : List Nat :=
  ((indexed g.groups).map (fun r => (List.range r.2.places.length).map (fun i => 4 * r.1 + i))).flatten

/-- The pair code of a place. -/
def Gang.pairOf (g : Gang) (place : Nat) : Nat :=
  ((indexed g.pairs).find? (fun x => x.2 == place)).elim 0 (fun x => x.1)

/-- The place of a wave's group on its core. -/
def Gang.placeOf (g : Gang) (w : Wave) : Option Nat :=
  match (indexed g.groups).find? (fun r => r.2.linear == w.group) with
  | none => none
  | some (i, r) =>
    match (indexed r.places).find? (fun p => p.2.core == w.core) with
    | some (j, _) => some (4 * i + j)
    | none => none

/-- The place a code names for a wave. -/
def Gang.codedPlace (g : Gang) (w : Wave) (code : Nat) : Option Nat :=
  if code = 0xFF then g.placeOf w else if code < 0x40 then g.pairs[code]? else none

/-- A scratchpad range for a wave of a gang: the place and offset, or the index-bound cause. A task wave holds no
scratchpad (R128). -/
def spTry (g : Option Gang) (w : Wave) (addr n : Nat) : Try Loc :=
  match g with
  | none => .error cIndex
  | some g =>
    match g.codedPlace w (field addr 24 8) with
    | none => .error cIndex
    | some p =>
      match g.place? p with
      | some pl => if field addr 0 24 + n ≤ 65536 * pl.spBanks.length then .ok (.sp g.id p (field addr 0 24)) else .error cIndex
      | none => .error cIndex

/-- n bytes of a place from an offset, with the marks of their 64-bit units. -/
def Place.read (p : Place) (off n : Nat) : List (Byte × Bool) :=
  (List.range n).map (fun i => (readByte p.sp (off + i), p.marks.contains ((off + i) / 8)))

def State.spRead (s : State) (gang place off n : Nat) : List (Byte × Bool) :=
  match (s.gang? gang).bind (fun g => g.place? place) with
  | some p => p.read off n
  | none => List.replicate n (0, false)

/-- A place's bytes as written, with their marks (R532). -/
def Place.write (p : Place) (off : Nat) (bs : List (Byte × Bool)) : Place :=
  let ps := putsOf off bs
  { p with
    sp := ps.foldl (fun m x => writeByte m x.pa x.byte) p.sp
    marks := (keysOf (fun x => x.pa / 8) ps).foldl (fun bad u => unitAfter u 8 ps bad) p.marks }

/-- The poison bits of the 16 units of a line. -/
def lineMarks (marks : List Nat) (line : Nat) : List Nat := marks.filter (fun u => u / 16 == line)
def markBits (us : List Nat) : Nat := us.foldl (fun n u => n + 2 ^ (u % 16)) 0

/-- The first write of an attempt to a line keeps its former contents (R285). -/
def State.journalLine (s : State) (gang place line : Nat) : State :=
  match s.gang? gang with
  | none => s
  | some g =>
    match g.place? place with
    | none => s
    | some p =>
      if !g.region.attempting || p.journalled.contains line then s
      else
        let bytes := readBytes p.sp (line * 128) 128
        let marks := lineMarks p.marks line
        let addr := 2 ^ 24 * g.pairOf place + 128 * line
        match s.appendRecord gang (recordBytes 1 (g.pairOf place) (markBits marks) 0 addr 0 bytes) with
        | none => s.overflow gang
        | some (_, s) => s.updGang gang (fun g =>
            { (g.updPlace place (fun p => { p with journalled := addSet line p.journalled })) with
              region := { g.region with
                journal := { place := place, line := line, bytes := bytes, marks := marks } :: g.region.journal } })

/-- A write into a place. -/
def State.spWrite (s : State) (gang place off : Nat) (bs : List (Byte × Bool)) : State :=
  if bs.isEmpty then s
  else
    let lines := (List.range ((off + bs.length - 1) / 128 - off / 128 + 1)).map (fun i => off / 128 + i)
    (lines.foldl (fun s n => s.journalLine gang place n) s).updGang gang
      (fun g => g.updPlace place (fun p => p.write off bs))

/-! ## Pinned lines (R283, R284) -/

/-- The banks of a core that serve as cache ways (R250): neither retired nor held by a group on it. -/
def State.heldBanks (s : State) (core : Nat) : List Nat :=
  (((s.gangs.filter (fun g => g.st.holds)).map (fun g =>
    ((g.groups.filter (fun r => !r.ended)).map (fun r =>
      ((r.places.filter (fun p => p.core == core)).map (fun p => p.spBanks ++ p.fifoBanks)).flatten)).flatten))).flatten
def State.cacheBanks (s : State) (core : Nat) : List Nat :=
  let held := s.heldBanks core
  (List.range 32).filter (fun b => !held.contains b && !(s.dev.rmap.coreEnt core).banksOut.getLsbD b)

/-- Every line the gangs of a core hold back there. -/
def State.coreLines (s : State) (core : Nat) (spilled : Bool) : List WLine :=
  ((s.gangs.map (fun g => g.region.lines)).flatten).filter (fun n => n.core == core && n.spilled == spilled)

/-- May a new line be pinned? -/
def State.mayPin (s : State) (core line : Nat) : Bool :=
  let ls := s.coreLines core false
  decide (ls.length < 8192) &&
    decide ((ls.filter (fun n => n.line % 512 == line % 512)).length + 2 < (s.cacheBanks core).length)

/-- The bytes, dirty mask and marks of a line's entry (R291). -/
def WLine.record (n : WLine) (place : Nat) : List Byte :=
  let at_ (i : Nat) : Option PWord := lookupBy (n.line * 128 + 4 * i) n.words
  let bits (f : PWord → Bool) : Nat :=
    (List.range 32).foldl (fun acc i => acc + (match at_ i with | some w => if f w then 2 ^ i else 0 | none => 0)) 0
  recordBytes 2 place (bits (fun _ => true)) (bits (fun w => w.mark)) (n.line * 128) 0
    ((List.range 32).map (fun i => toBytes 4 (match at_ i with | some w => w.val.toNat | none => 0))).flatten

/-- The pair code of the first place of a gang on a core. -/
def Gang.codeOn (g : Gang) (core : Nat) : Nat :=
  (g.pairs.find? (fun p => match g.place? p with | some x => x.core == core | none => false)).elim 0 g.pairOf

/-- Words stored in a line of a region: pinned, else spilled, else the log overflows and the store is as outside it. -/
def State.pinLine (s : State) (gang core line va : Nat) (ws : List (Nat × PWord)) : State :=
  match s.gang? gang with
  | none => s
  | some g =>
    let s := ws.foldl (fun s w => s.invalidateWords core w.1 (w.1 + 4)) s
    let mine (n : WLine) : Bool := n.core == core && n.line == line
    let add (n : WLine) : WLine := { n with words := ws.foldl (fun l w => setBy w.1 w.2 l) n.words }
    if !g.region.attempting then s.drainLines g.ctx [{ core := core, line := line, va := va, words := ws }]
    else match g.region.lines.find? mine with
    | some n =>
      let s := s.updRegion gang (fun r => { r with lines := r.lines.map (fun n => if mine n then add n else n) })
      if n.spilled then s.putRecord gang n.entry ((add n).record (g.codeOn core)) else s
    | none =>
      let n : WLine := { core := core, line := line, va := va, words := ws }
      let full (s : State) : State := (s.updRegion gang (fun r => { r with lines := r.lines ++ [n] })).overflow gang
      if s.mayPin core line then s.updRegion gang (fun r => { r with lines := r.lines ++ [n] })
      else if (s.coreLines core true).length < 1024 then
        match s.appendRecord gang (n.record (g.codeOn core)) with
        | some (e, s) =>
          (s.updRegion gang (fun r =>
            { r with spilled := true, lines := r.lines ++ [{ n with spilled := true, entry := e }] }))
        | none => full s
      else full s

/-- The word a region's own core sees of what it holds back (R276, R283). -/
def State.pinnedWord (s : State) (gang : Option Nat) (core pa : Nat) : Option PWord :=
  match gang.bind s.gang? with
  | none => none
  | some g =>
    match g.region.lines.find? (fun n => n.core == core && n.line == pa / 128) with
    | some n => lookupBy (pa / 4 * 4) n.words
    | none => none

/-- An operation is deferred (R286): beyond the core's 256 entries it goes to the log. -/
def State.deferOp (s : State) (gang : Nat) (d : Deferred) (type aux0 aux1 addr : Nat) (body : List Byte) : State :=
  let held := ((s.gangs.map (fun g => g.region.deferred)).flatten.filter (fun x => x.core == d.core)).length
  let keep (s : State) : State := s.updRegion gang (fun r => { r with deferred := r.deferred ++ [d] })
  match s.gang? gang with
  | none => s
  | some g =>
    if !g.region.attempting then (if d.isSpawn then (keep s).overflowSpawns gang else s.applyDeferred gang d)
    else if held < 256 then keep s
    else match s.appendRecord gang (recordBytes type (g.codeOn d.core) aux0 aux1 addr d.key body) with
      | some (_, s) => keep s
      | none => (keep s).overflow gang

end Sys2Proof.Machine
end

