-- ==== Sys2Proof/Machine/Access.lean ====
section
/-! DEFINITION. The accesses of the memory forms (R428 to R435): how a lane forms its address, the checks it meets, the
lanes that park, and what an operation in flight does when it is performed (R269, R270, R433). -/

namespace Sys2Proof
open Machine

/-! ## Fields (R428 to R431) -/

def F2.hint (f : F2) : Nat := f.modAt 14 2
def F2.scalarBase (f : F2) : Bool := f.modAt 13 1 == 1
def F2.queued (f : F2) : Bool := f.modAt 12 1 == 1

/-- The base operand, 64 bits. -/
def F2.basePos (f : F2) : Pos := if f.scalarBase then .scalar f.aN 2 else .sel f.aN 2

/-- MOD [13] with A [7:6] (R430). -/
def F2.baseOk (f : F2) : Bool := !f.scalarBase || decide (f.aN < 64)

/-- Does A name a scalar (R430)? -/
def F2.baseScalar (f : F2) : Bool := f.scalarBase || decide (0xF0 ≤ f.aN)

end Sys2Proof

namespace Sys2Proof.Machine

/-- Bytes and words of a width code (R431). -/
def memBytes (ty : Nat) : Nat := 2 ^ ty
def memWords (ty : Nat) : Nat := if ty ≤ 2 then 1 else if ty = 3 then 2 else 4

/-- A selector as a .b128 position names four direct registers only. -/
def wideOk (ty code : Nat) : Bool := ty != 4 || decide (code < 0xC0)

/-! ## Checks of one lane -/

/-- What a lane's access comes to. -/
inductive LaneTo where
  | cause (c : Nat)
  | park
  | go (loc : Loc) (pt : Bool)
  deriving DecidableEq, Repr

/-- What a form asks of memory: how it is checked (R263), the bytes it touches, whether it writes, and whether its lanes
never park (R438). -/
structure Asks where
  kind : Access
  bytes : Nat
  write : Bool
  cause : Nat
  noPark : Bool := false
  hintOk : Bool := true
  atomic : Bool := false
  deriving DecidableEq, Repr

def rangeIn (a n lo len : Nat) : Bool := decide (lo ≤ a) && decide (a + n ≤ lo + len)
def rangesMeet (a n lo len : Nat) : Bool := decide (a < lo + len) && decide (lo < a + n)

/-- Is the address in the region log of a gang of the context that is placed (R288)? -/
def State.inLog (s : State) (ctx va n : Nat) : Bool :=
  s.gangs.any (fun g => g.ctx == ctx && (g.st == .placed || g.st == .leaving) && decide (0 < g.logPages) &&
    rangesMeet va n g.logBase (g.logPages * pageBytes))

/-- Is the access one a pure task may make (R144)? A page with W clear is read freely. -/
def PureTask.mayAccess (p : PureTask) (asks : Asks) (va : Nat) (writable : Bool) : Bool :=
  if asks.atomic then false
  else if asks.write then rangeIn va asks.bytes p.res.1 p.res.2
  else p.args.any (fun t => rangeIn va asks.bytes t.1 t.2) || (!writable && !rangesMeet va asks.bytes p.res.1 p.res.2)

/-- Does the access meet a watchpoint (R317)? -/
def watchHit (wp : Dword) (write : Bool) (va n : Nat) : Bool :=
  let v := wp.toNat
  bitOf v 63 && rangesMeet va n (v % 2 ^ 56) (2 ^ field v 56 5) &&
    (field v 61 2 == 0 || (field v 61 2 == 1 && write) || (field v 61 2 == 2 && !write))
def Wave.watched (w : Wave) (write : Bool) (va n : Nat) : Bool :=
  watchHit w.trap.twp0 write va n || watchHit w.trap.twp1 write va n

/-- The least of the causes found; none lets the access go on. -/
def leastCause (cs : List (Option Nat)) : Option Nat :=
  match cs.filterMap id with
  | [] => none
  | c :: t => some (t.foldl min c)

/-- A lane's g or ro access at an address (R144, R259, R263, R265, R288, R317, R431). -/
def State.checkVa (s : State) (env : Env) (lane : Lane) (asks : Asks) (va : Nat) : LaneTo :=
  let align := if va % asks.bytes = 0 then none else some cAlign
  let x := s.xlate env.cx asks.kind va
  let pure_ (writable : Bool) : Option Nat :=
    match lane.pure_ with
    | some p => if p.mayAccess asks va writable then none else some cPurity
    | none => none
  match x with
  | .cause c => .cause ((leastCause [some c, align, pure_ true]).getD c)
  | .invalid =>
    let known : Option Nat :=
      match lane.pure_ with
      | some p => if asks.atomic || (asks.write && !p.mayAccess asks va true) || rangesMeet va asks.bytes p.res.1 p.res.2 && !asks.write
          then some cPurity else none
      | none => none
    match leastCause [align, known] with
    | some c => .cause c
    | none => if asks.noPark then .cause cTranslation else .park
  | .ok loc pt writable =>
    let log := if s.inLog env.cx.id va asks.bytes then some cPermission else none
    let watch := if env.w.watched asks.write va asks.bytes then some cWatch else none
    match leastCause [align, log, pure_ writable, watch] with
    | some c => .cause c
    | none => .go loc pt

/-- A lane's scratchpad access (R248, R317). -/
def checkSp (env : Env) (lane : Lane) (asks : Asks) (addr : Nat) : LaneTo :=
  let align := if addr % asks.bytes = 0 then none else some cAlign
  let pure_ := if lane.pure_.isSome then some cPurity else none
  match spTry env.gang env.w addr asks.bytes with
  | .error c => .cause ((leastCause [some c, align, pure_]).getD c)
  | .ok loc =>
    let watch := if env.w.watched asks.write addr asks.bytes then some cWatch else none
    match leastCause [align, pure_, watch] with
    | some c => .cause c
    | none => .go loc false

/-! ## The lanes of an instruction -/

/-- The accesses that go on, and the lanes that park with their addresses. -/
structure Reached where
  accs : List Acc
  parked : List (Nat × Nat)
  deriving DecidableEq, Repr

/-- Every active lane forms its address and is checked; a cause in any lane stops the instruction, and its invalid lanes are
then recorded under translation (R265, R312). `extra` are a lane's other readings. -/
def Env.reach (env : Env) (extra : Nat → Lane → Try Unit) (addr : Nat → Lane → Try Nat)
    (check : Lane → Nat → LaneTo) : Except Raised Reached :=
  let rs := env.lanes.map (fun l =>
    let lane := env.w.lane l
    (l, match both (extra l lane) (addr l lane) with
      | .error c => (match addr l lane with | .ok a => a | .error _ => 0, LaneTo.cause c)
      | .ok (_, a) => (a, check lane a)))
  let causes := rs.filterMap (fun r => match r.2.2 with | .cause c => some (r.1, c) | _ => none)
  let addrs := rs.map (fun r => (r.1, r.2.1))
  let waits := rs.filterMap (fun r => match r.2.2 with | .park => some (r.1, r.2.1) | _ => none)
  if causes.isEmpty then
    .ok { accs := rs.filterMap (fun r => match r.2.2 with
            | .go loc pt => some { lane := r.1, va := r.2.1, loc := loc, pt := pt }
            | _ => none),
          parked := waits }
  else .error (raisedOf (causes ++ waits.map (fun x => (x.1, cTranslation))) addrs)

/-- Does a lane's address lie on another package, where it may make the access? -/
def Env.far (env : Env) (s : State) (k : Access) (addr : Nat → Lane → Try Nat) (l : Nat) : Bool :=
  match addr l (env.w.lane l) with
  | .ok a => (match s.xlate env.cx k a with | .ok loc _ _ => loc.isRemote | _ => false)
  | .error _ => false

/-- Remote accesses refuse a cache hint (R342, R434), before any cause of a lane (R312). -/
def Env.hintFits (env : Env) (s : State) (f : F2) (k : Access) (addr : Nat → Lane → Try Nat) : Except Raised Unit :=
  if f.hint != 0 && env.lanes.any (env.far s k addr) then .error (env.raise cIllegal) else .ok ()

/-- Lanes whose address adders fail their residue check (R243) are counted. -/
def Env.residues (env : Env) (s : State) : State := (env.residueLanes true).foldl (fun s l => s.residueError env l) s

/-- The parked lanes post their page requests and wait; the others fall through (R193, R265). -/
def Env.parkAnd (env : Env) (cause : Nat) (r : Reached) (s : State) : Res :=
  let pages := r.parked.foldl (fun ps x => addSet (x.2 / pageBytes) ps) []
  let s := pages.foldl (fun s p => s.requestPage env.w.ctx cause (s.gangIndex env.w.gang) (p * pageBytes)) s
  env.parkLanes r.parked s

/-- Does an access meet the page of a launch record the device retains (R143)? -/
def State.meetsRecord (s : State) (a : Acc) : Bool :=
  match a.loc with
  | .home pa => s.launches.any (fun l => l.recordPage == pa / pageBytes && l.recordVa / pageBytes == a.va / pageBytes)
  | _ => false

/-- The lane's pure task makes no entry of the reuse table (R143). -/
def Lane.dropsEntry (l : Lane) : Lane := { l with pure_ := l.pure_.map (fun p => { p with drop := true }) }

/-- A load through a retained launch record drops the pure task's entry (R143). -/
def State.noteRecord (s : State) (env : Env) (r : Reached) : State :=
  let hit := r.accs.filter (fun a => (env.w.lane a.lane).pure_.isSome && s.meetsRecord a)
  if hit.isEmpty then s
  else s.updWave env.w.id (fun w => hit.foldl (fun w a => w.updLane a.lane Lane.dropsEntry) w)

/-! ## Performing (R269, R270, R432, R433) -/

/-- What an operation still has to write where its core's own loads see it first (R269): a store that keeps a copy, and a
region's store for the loads of its gang (R276). -/
def Op.showing (o : Op) (gang : Option Nat) : Nat × List (Acc × List PWord) :=
  match o.body with
  | .store n false _ items => (n, items)
  | .pin n _ _ _ items => if o.gang = gang then (n, items) else (n, [])
  | _ => (0, [])

/-- The bytes that stores of a core which have not registered yet show its loads (R269); the loading operation's own wave
shows only what it stored before. -/
def State.pendingBytes (s : State) (core wave id : Nat) (gang : Option Nat) (pa : Nat) : Option (Byte × Bool) :=
  s.ops.foldl (fun acc o =>
    if o.core = core ∧ (o.wave ≠ wave ∨ o.id < id) then
      let (n, items) := o.showing gang
      items.foldl (fun acc x => match x.1.loc with
        | .home q =>
          if q ≤ pa ∧ pa < q + n then
            let w := wordAt x.2 ((pa - q) / 4)
            some (BitVec.ofNat 8 (w.val.toNat / 256 ^ ((pa - q) % 4)), w.mark)
          else acc
        | _ => acc) acc
    else acc) none

/-- A word with bytes laid over it. -/
def overlay (w : PWord) (bs : List (Option (Byte × Bool))) : PWord :=
  let old := toBytes 4 w.val.toNat
  let new := (List.range 4).map (fun i => match bs.getD i none with | some b => b.1 | none => old.getD i 0)
  let kept := bs.any (fun b => b.isNone)
  { val := BitVec.ofNat 32 (ofBytes new),
    mark := bs.any (fun b => match b with | some x => x.2 | none => false) || (kept && w.mark) }

/-- How a load reads (R270, R272, R283, R434, R436, R447). -/
structure Reads where
  bypass : Bool
  alloc : Bool
  ro : Bool
  fresh : Bool
  deriving DecidableEq, Repr

/-- A word a core's load reads. -/
def State.seeWord (s : State) (core wave id : Nat) (gang : Option Nat) (m : Reads) (pa : Nat) : PWord × State :=
  if m.bypass then ((s.pinnedWord gang core pa).getD (s.current pa), s)
  else
    let (w, s) := match s.pinnedWord gang core pa with
      | some w => (w, s)
      | none => s.loadWord core pa m.fresh m.alloc m.ro
    let bs := (List.range 4).map (fun i => s.pendingBytes core wave id gang (pa + i))
    (if bs.all (fun b => b.isNone) then w else overlay w bs, s)

def State.seeWords (s : State) (core wave id : Nat) (gang : Option Nat) (m : Reads) (pa : Nat) :
    Nat → List PWord × State
  | 0 => ([], s)
  | n + 1 =>
    let (w, s) := s.seeWord core wave id gang m pa
    let (ws, s) := s.seeWords core wave id gang m (pa + 4) n
    (w :: ws, s)

/-- A narrow value cut from its word and extended (R431). -/
def narrow (n off : Nat) (sx : Bool) (w : PWord) : PWord :=
  if n ≥ 4 then w
  else
    let v := field w.val.toNat (8 * off) (8 * n)
    { w with val := BitVec.ofNat 32 (if sx then wrap 32 (toSigned (8 * n) v) else v) }

/-- Words of scratchpad. -/
def spWords (bs : List (Byte × Bool)) (n : Nat) : List PWord :=
  (List.range (ceilDiv n 4)).map (fun i =>
    let mine := (bs.drop (4 * i)).take 4
    { val := BitVec.ofNat 32 (ofBytes (mine.map (fun b => b.1))), mark := mine.any (fun b => b.2) })

/-- The values of an operation's lanes: local ones read now, remote ones from the response's words in turn. Poison on a
tolerant page reads as 0 and is reported (R309). -/
def State.gather (s : State) (o : Op) (n : Nat) (sx : Bool) (m : Reads) :
    List Acc → List PWord → List (Nat × List PWord) × State
  | [], _ => ([], s)
  | a :: rest, wire =>
    let k := ceilDiv n 4
    let (ws, wire, s) : List PWord × List PWord × State :=
      match a.loc with
      | .home pa =>
        let (ws, s) := s.seeWords o.core o.wave o.id o.gang m (pa / 4 * 4) k
        (ws.map (narrow n (pa % 4) sx), wire, s)
      | .sp g p off => (((spWords (s.spRead g p off n) n).map (narrow n 0 sx)), wire, s)
      | .remote _ _ =>
        if o.cut.contains a.lane then (List.replicate k { mark := true }, wire, s)
        else ((slice { mark := true } wire 0 k).map (narrow n 0 sx), wire.drop k, s)
    let (ws, s) :=
      if a.pt && anyMark ws then
        (ws.map (fun w => if w.mark then {} else w),
          s.poisonReport o.ctx (s.gangIndex o.gang) 3 (a.va / 64 * 64))
      else (ws, s)
    let (more, s) := State.gather s o n sx m rest wire
    ((a.lane, ws) :: more, s)

/-- Words that a failed residue check poisons (R243). -/
def stain (bad : Bool) (ws : List PWord) : List PWord := if bad then ws.map (fun w => { w with mark := true }) else ws

/-- Values land in their lanes (R433). -/
def State.landAll (s : State) (o : Op) (d : Dst) (vals : List (Nat × List PWord)) : State :=
  s.updWave o.wave (fun w => d.lanes.foldl (fun w x =>
    match lookupBy x.1 vals with
    | some ws => w.land x.1 x.2 (stain (hasLane o.marked x.1) (ws.take d.words))
    | none => w) w)

/-- Has every target queue of a delivery room for its entries (R223)? -/
def State.queueRoom (s : State) (o : Op) (d : Dst) : Bool :=
  match s.wave? o.wave with
  | none => true
  | some w => d.lanes.all (fun x => match x.2 with
    | .q n => decide (((w.lane x.1).q.getD n []).length + d.words ≤ 4)
    | _ => true)

/-- The words stores write, whole: in lane order, over their current values where they are partly written (R269, R432). -/
def State.mergeStores (s : State) (n : Nat) (items : List (Acc × List PWord)) : List (Nat × PWord) :=
  let puts := (items.map (fun x => match x.1.loc with
    | .home pa => putsOf pa (((x.2.map (fun w => (toBytes 4 w.val.toNat).map (fun b => (b, w.mark)))).flatten).take n)
    | _ => [])).flatten
  (keysOf (fun p => p.pa / 4) puts).map (fun k =>
    let at_ (i : Nat) : Option (Byte × Bool) :=
      ((puts.filter (fun p => p.pa == 4 * k + i)).getLast?).map (fun p => (p.byte, p.mark))
    (4 * k, overlay (s.current (4 * k)) ((List.range 4).map at_)))

/-- A store's accesses on this package are performed (R269, R437). -/
def State.doStore (s : State) (o : Op) (n : Nat) (noCopy : Bool) (items : List (Acc × List PWord)) : State :=
  let ws := s.mergeStores n items
  let s := if ws.isEmpty then s else s.register o.core o.ctx (!noCopy) ws
  items.foldl (fun s x => match x.1.loc with
    | .sp g p off =>
      s.spWrite g p off (((x.2.map (fun w => (toBytes 4 w.val.toNat).map (fun b => (b, w.mark)))).flatten).take n)
    | _ => s) s

/-- The lanes of an atomic in order (R435, R443, R444): values returned, remote ones from the response. -/
def State.doAtoms (s : State) (o : Op) (op : AtomOp) (w : Nat) (sg : Bool) :
    List AtomItem → List PWord → List (Nat × List PWord) × State
  | [], _ => ([], s)
  | x :: rest, wire =>
    let k := w / 32
    let (ws, wire, s) : List PWord × List PWord × State :=
      match x.acc.loc with
      | .home pa =>
        match s.atomicHome (some o.ctx) pa w (fun old => atomNew op w sg old x.b.toNat x.c.toNat) with
        | (some old, s) => (wordsOf k old, wire, s)
        | (none, s) => ((wordsOf k 0).map (fun z => { z with mark := true }), wire, s)
      | _ => if o.cut.contains x.acc.lane then (List.replicate k { mark := true }, wire, s)
             else (slice { mark := true } wire 0 k, wire.drop k, s)
    let (more, s) := State.doAtoms s o op w sg rest wire
    ((x.acc.lane, ws) :: more, s)

/-- A core's L1 loses its copies of the words an atomic touches on this package (R257). -/
def State.dropCopies (s : State) (core : Nat) (items : List AtomItem) (n : Nat) : State :=
  items.foldl (fun s x => match x.acc.loc with
    | .home pa => s.invalidateWords core pa (pa + n)
    | _ => s) s

/-- The words of a line that stores of a region write, whole, over what their core sees (R283). -/
def State.pinStores (s : State) (o : Op) (gang n : Nat) (items : List (Acc × List PWord)) : State :=
  let puts := (items.map (fun x => match x.1.loc with
    | .home pa => putsOf pa (((x.2.map (fun w => (toBytes 4 w.val.toNat).map (fun b => (b, w.mark)))).flatten).take n)
    | _ => [])).flatten
  let word (k : Nat) : Nat × PWord :=
    let at_ (i : Nat) : Option (Byte × Bool) :=
      ((puts.filter (fun p => p.pa == 4 * k + i)).getLast?).map (fun p => (p.byte, p.mark))
    (4 * k, overlay (s.seeWord o.core o.wave o.id (some gang)
      { bypass := false, alloc := false, ro := false, fresh := false } (4 * k)).1 ((List.range 4).map at_))
  let words := (keysOf (fun p => p.pa / 4) puts).map word
  let vaOf (line : Nat) : Nat := ((items.find? (fun x => match x.1.loc with
    | .home pa => pa / 128 == line
    | _ => false)).map (fun x => x.1.va / 128 * 128)).getD 0
  (keysOf (fun p => p.pa / 128) puts).foldl (fun s line =>
    s.pinLine gang o.core line (vaOf line) (words.filter (fun w => w.1 / 128 == line))) s

/-- Remote stores of a region wait for the commit (R286, R291). -/
def State.deferStores (s : State) (o : Op) (gang n key : Nat) (w0 w1 : Word) (items : List (Acc × List PWord)) : State :=
  items.foldl (fun s x =>
    if x.1.loc.isRemote then
      let bytes := ((x.2.map (fun w => toBytes 4 w.val.toNat)).flatten).take n
      let marks := x.2.map (fun w => w.mark)
      let aux1 := ((indexed marks).map (fun m => if m.2 then 2 ^ m.1 else 0)).foldl (· + ·) 0
      let key := key + 2 ^ 48 * (x.1.lane % 32)
      s.deferOp gang { key := key, core := o.core, va := x.1.va, w0 := w0, w1 := w1, body := .store x.1.loc bytes marks }
        4 n aux1 x.1.va bytes
    else s) s

/-- FIFO entries that a pop takes (R439). -/
def State.fifoOf (s : State) (gang place fifo : Nat) : List (List PWord) :=
  match (s.gang? gang).bind (fun g => g.place? place) with
  | some p => p.fifos.getD fifo []
  | none => []
def State.setFifo (s : State) (gang place fifo : Nat) (es : List (List PWord)) : State :=
  s.updGang gang (fun g => g.updPlace place (fun p => { p with fifos := putAt p.fifos fifo es }))

/-- A mark belongs to the 64-bit unit of an entry. -/
def unitMarks (ws : List PWord) : List PWord :=
  (indexed ws).map (fun x => { x.2 with mark := (wordAt ws (x.1 / 2 * 2)).mark || (wordAt ws (x.1 / 2 * 2 + 1)).mark })

/-- AN OPERATION IS PERFORMED: its local accesses take place, its values land, its counter falls. `wire` are a response's
words, and `fresh` says that copies its core does not own had left its L1 (R270). Nothing happens while what it waits for
has not come. -/
def State.perform (s : State) (o : Op) (fresh : Bool) (wire : List PWord) : State :=
  if !s.canPerform o then s
  else match o.body with
    | .load d n sx bypass acq noAlloc ro accs =>
      if !s.queueRoom o d then s
      else
        let (vals, s) := s.gather o n sx { bypass := bypass, alloc := !noAlloc && !bypass, ro := ro, fresh := fresh } accs wire
        let s := if acq then s.acquire o.core else s
        (s.landAll o d vals).endOp o
    | .deliver d vals => (s.landAll o d vals).endOp o
    | .fifoPop d g p k wide =>
      let es := s.fifoOf g p k
      let need := if wide then 2 else 1
      if es.length < need || !s.queueRoom o d then s
      else
        let vals := d.lanes.map (fun x => (x.1, (List.range need).map (fun i => wordAt (es.getD i []) x.1)))
        ((s.setFifo g p k (es.drop need)).landAll o d vals).endOp o
    | .fifoPush g p k entries =>
      let es := s.fifoOf g p k
      if es.length + entries.length > 512 then s
      else (s.setFifo g p k (es ++ entries.map unitMarks)).endOp o
    | .store n noCopy _ items => (s.doStore o n noCopy items).endOp o
    | .buffered => s.endOp o
    | .pin n key w0 w1 items =>
      (match o.gang with
        | some g => (s.pinStores o g n items).deferStores o g n key w0 w1 items
        | none => s).endOp o
    | .writeBack core => (s.writeBackL1 core).endOp o
    | .atom op w sg dst items _ =>
      let (vals, s) := (s.dropCopies o.core items (w / 8)).doAtoms o op w sg items wire
      match dst with
      | some d => (s.landAll o d vals).endOp o
      | none => s.endOp o
    | _ => s

end Sys2Proof.Machine
end

