-- ==== Sys2Proof/Machine/Memory.lean ====
section
/-! DEFINITION. Memory instructions, opcodes 0x80 to 0x8B (R428 to R442), and the events that complete them (R19, R223,
R258, R269, R433). -/

namespace Sys2Proof
open Machine

/-! ## Forms -/

def F2.sx (f : F2) : Bool := f.modAt 10 1 == 1
def F2.fifo (f : F2) : Bool := f.modAt 11 1 == 1
def F2.six (f : F2) : Bool := f.modAt 11 1 == 1
def F2.scale (f : F2) : Nat := f.modAt 8 3

/-- What every load's encoding meets (R431, R432, R438). -/
def F2.loadOk (f : F2) : Bool :=
  decide (f.tyN ≤ 4) && f.hint != 3 && f.baseOk && f.c == 0 &&
    (if f.queued then decide (f.dN < 8) && f.tyN != 4 else wideOk f.tyN f.dN)

def F2.loadDest (f : F2) : Dest := if f.queued then .queue f.dN (memWords f.tyN) else .sel f.dN (memWords f.tyN) false

def F3.loadForm (f : F3) (ok : Bool) : Form :=
  { f.w.form 1 (f.w.loadOk && ok) with
    ctrs := [.ld], writes := f.w.queued || f.w.dN != 0xC9, a := f.w.basePos, d := f.w.loadDest }

/-- .sx only below 32 bits (R431). -/
def F2.sxOk (f : F2) : Bool := !f.sx || decide (f.tyN < 2)

def F3.ldGForm (f : F3) : Form := f.loadForm (f.w.b == 0 && f.w.modAt 11 1 == 0 && f.w.modAt 8 2 == 0 && f.w.sxOk)

def F3.ldSpForm (f : F3) : Form :=
  { f.loadForm (f.w.b == 0 && f.w.modAt 8 2 == 0 && f.w.sxOk && f.w.hint == 0 &&
      (!f.w.fifo || (f.w.baseScalar && (f.w.tyN == 2 || f.w.tyN == 3)))) with
    region := if f.w.fifo then .illegalOpen else .fine }

def F3.ldAcqForm (f : F3) : Form :=
  f.loadForm (f.w.b == 0 && f.w.modAt 11 2 == 0 && f.w.modAt 8 2 == 0 && f.w.sxOk && f.w.hint == 0)

def F3.ldvForm (f : F3) : Form :=
  { f.loadForm (decide (f.w.scale ≤ 4) && (f.w.tyN == 2 || f.w.tyN == 3) && f.w.baseScalar) with b := .sel f.w.bN 1 }

def F3.storeForm (f : F3) (ok : Bool) (data : Byte) : Form :=
  { f.w.form 1 (decide (f.w.tyN ≤ 4) && f.w.hint != 3 && f.w.baseOk && f.w.d == 0 && wideOk f.w.tyN data.toNat && ok) with
    ctrs := [.st], a := f.w.basePos }

def F3.stGForm (f : F3) : Form :=
  { f.storeForm (f.w.c == 0 && f.w.modAt 8 5 == 0) f.w.b with b := .sel f.w.bN (memWords f.w.tyN) }

def F3.stSpForm (f : F3) : Form :=
  { f.storeForm (f.w.c == 0 && f.w.modAt 12 1 == 0 && f.w.modAt 8 3 == 0 && f.w.hint == 0 &&
      (!f.w.fifo || (f.w.baseScalar && (f.w.tyN == 2 || f.w.tyN == 3)))) f.w.b with
    b := .sel f.w.bN (memWords f.w.tyN), region := if f.w.fifo then .illegalOpen else .fine }

def F3.stRelForm (f : F3) : Form := { f.stGForm with need := .release, region := .illegal }

def F3.stvForm (f : F3) : Form :=
  { f.storeForm (decide (f.w.scale ≤ 4) && (f.w.tyN == 2 || f.w.tyN == 3) && f.w.modAt 12 1 == 0 && f.w.baseScalar)
      f.w.c with
    b := .sel f.w.bN 1, c := .sel f.w.cN (memWords f.w.tyN) }

def F3.prefForm (f : F3) : Form :=
  { f.w.form 1 (f.w.tyN == 0 && decide (f.w.hint < 2) && f.w.baseOk && f.w.d == 0 && f.w.b == 0 && f.w.c == 0 &&
      f.w.modAt 8 5 == 0) with a := f.w.basePos }

def F2.l1Form (f : F2) : Form :=
  f.form 1 (f.tyN == 0 && f.d == 0 && f.a == 0 && f.b == 0 && f.c == 0 && f.mod == 0)
def F2.wbL1Form (f : F2) : Form := { f.l1Form with ctrs := [.st] }

end Sys2Proof

namespace Sys2Proof.Machine

/-! ## Addresses (R430) -/

/-- base + offset, or base + scaled index + offset. -/
def memAddr (f : F3) (F : Form) (indexed : Bool) (w : Wave) (lane : Lane) : Try Nat :=
  let off : Int := toSigned 32 f.imm.toNat
  if indexed then
    (both (F.a.val w lane) (F.b.val w lane)).map (fun x =>
      let idx : Int := if f.w.six then toSigned 32 x.2 else (x.2 : Int)
      wrap 64 ((x.1 : Int) + idx * (2 ^ f.w.scale : Nat) + off))
  else (F.a.val w lane).map (fun a => wrap 64 ((a : Int) + off))

/-! ## Loads -/

/-- A load's kind: its space, how it reads. -/
structure LoadKind where
  sp : Bool := false
  ro : Bool := false
  acq : Bool := false
  bypass : Bool := false
  indexed : Bool := false
  atomic : Bool := false
  deriving DecidableEq, Repr

/-- Destinations of the lanes that go on. -/
def Form.dstOf (F : Form) (w : Wave) (lanes : List Nat) (words : Nat) : Dst :=
  { lanes := lanes.filterMap (fun l => match F.d.slot w.regs (w.lane l) with
      | .ok s => some (l, s)
      | .error _ => none),
    words := words }

/-- A load of g, ro or sp (R436, R437, R440, R447). -/
def Env.load (env : Env) (f : F3) (F : Form) (k : LoadKind) (n : Nat) (s : State) : Res := do
  let asks : Asks := { kind := if k.ro then .ro else .load, bytes := n, write := false, cause := 1, noPark := f.w.queued,
                       atomic := k.atomic }
  let addr (_ : Nat) (lane : Lane) : Try Nat := (memAddr f F k.indexed env.w lane).map (fun a => if k.sp then a % 2 ^ 32 else a)
  let _ ← env.hintFits s f.w asks.kind addr
  let r ← env.reach (fun _ lane => (F.d.slot env.w.regs lane).map (fun _ => ())) addr
    (fun lane a => if k.sp then checkSp env lane asks a else s.checkVa env lane asks a)
  let lanes := r.accs.map (fun a => a.lane)
  let s2 := if lanes.isEmpty then s
    else (s.noteRecord env r).startAccess env.w (maskOf lanes) .ld f.w.la.toNat F.writes
      (.load (F.dstOf env.w lanes (ceilDiv n 4)) n (f.w.sx && !k.indexed) (k.bypass || k.acq) k.acq (f.w.hint == 2) k.ro r.accs)
      (env.act &&& env.is.residue)
  env.parkAnd 1 r (env.residues s2)

def execLdG (f : F3) (s : State) : Host.Outcome State Fault Refusal :=
  s.run f.ldGForm (fun env => env.load f f.ldGForm {} (memBytes f.w.tyN))

def execLdRo (f : F3) (s : State) : Host.Outcome State Fault Refusal :=
  s.run f.ldGForm (fun env => env.load f f.ldGForm { ro := true } (memBytes f.w.tyN))

def execLdAcq (f : F3) (s : State) : Host.Outcome State Fault Refusal :=
  s.run f.ldAcqForm (fun env => env.load f f.ldAcqForm { acq := true } (memBytes f.w.tyN))

def execLdv (f : F3) (s : State) : Host.Outcome State Fault Refusal :=
  s.run f.ldvForm (fun env => env.load f f.ldvForm { indexed := true } (memBytes f.w.tyN))

/-! ## FIFO banks (R439) -/

/-- The FIFO an instruction names: its gang, place and index. -/
def Env.fifoTry (env : Env) (addr : Nat) : Try (Nat × Nat × Nat) :=
  match env.gang with
  | none => .error cIndex
  | some g =>
    match g.codedPlace env.w (field addr 24 8) with
    | none => .error cIndex
    | some p =>
      match g.place? p with
      | some pl => if field addr 0 24 < pl.fifoBanks.length then .ok (g.id, p, field addr 0 24) else .error cIndex
      | none => .error cIndex

/-- The FIFO for every active lane, or their causes. -/
def Env.fifo (env : Env) (f : F3) (F : Form) (extra : Nat → Lane → Try Unit) : Except Raised (Nat × Nat × Nat) := do
  let at_ (_ : Nat) (lane : Lane) : Option Nat := match memAddr f F false env.w lane with
    | .ok a => some (a % 2 ^ 32)
    | .error _ => none
  let rs ← env.eachAt at_ (fun _ => false) (fun l lane =>
    (both (both (extra l lane) (if lane.pure_.isSome then (.error cPurity : Try Unit) else .ok ()))
      (match memAddr f F false env.w lane with
        | .error c => .error c
        | .ok a => env.fifoTry (a % 2 ^ 32))).map (fun x => x.2))
  match rs with
  | x :: _ => .ok x.2
  | [] => .error (env.raise cIndex)

def Env.fifoPop (env : Env) (f : F3) (F : Form) (s : State) : Res := do
  let (g, p, k) ← env.fifo f F (fun _ lane => (F.d.slot env.w.regs lane).map (fun _ => ()))
  env.fall (env.residues (s.startAccess env.w env.act .ld f.w.la.toNat F.writes
    (.fifoPop (F.dstOf env.w env.lanes (memWords f.w.tyN)) g p k (f.w.tyN == 3)) (env.act &&& env.is.residue)))

/-- The 128-byte entries of a push: lane l's word in place l, inactive lanes 0. -/
def Env.entries (env : Env) (F : Form) (words : Nat) : List (List PWord) :=
  (List.range words).map (fun i => laneList.map (fun l =>
    if hasLane env.act l then
      match F.b.read env.w (env.w.lane l) with
      | .ok ws => wordAt (stain (hasLane env.is.residue l) ws) i
      | .error _ => {}
    else {}))

def Env.fifoPush (env : Env) (f : F3) (F : Form) (s : State) : Res := do
  let (g, p, k) ← env.fifo f F (fun _ lane => (F.b.read env.w lane).map (fun _ => ()))
  env.fall (env.residues (s.startAccess env.w env.act .st 0 false (.fifoPush g p k (env.entries F (memWords f.w.tyN)))))

/-- ld.sp: a bank's value, or with .fifo a FIFO's oldest entries. -/
def execLdSp (f : F3) (s : State) : Host.Outcome State Fault Refusal :=
  s.run f.ldSpForm (fun env s =>
    if f.w.fifo then env.fifoPop f f.ldSpForm s else env.load f f.ldSpForm { sp := true } (memBytes f.w.tyN) s)

/-! ## Stores -/

/-- The KEY of a lane's operation of this issue (R286). -/
def Env.key (env : Env) (lane : Nat) : Nat :=
  let pos := match env.gang with
    | some g => ((indexed g.groups).find? (fun r => r.2.linear == env.w.group)).elim 0 (fun r => r.1)
    | none => 0
  keyOf pos env.w.index lane env.w.issued

/-- A store to g or sp (R269, R432, R436): inside a region its g words are held back, and only its counter waits. -/
def Env.store (env : Env) (f : F3) (F : Form) (sp rel indexed : Bool) (data : Pos) (s : State) : Res := do
  let n := memBytes f.w.tyN
  let asks : Asks := { kind := .store, bytes := n, write := true, cause := 2 }
  let addr (_ : Nat) (lane : Lane) : Try Nat := (memAddr f F indexed env.w lane).map (fun a => if sp then a % 2 ^ 32 else a)
  let _ ← env.hintFits s f.w .store addr
  let r ← env.reach (fun _ lane => (data.read env.w lane).map (fun _ => ())) addr
    (fun lane a => if sp then checkSp env lane asks a else s.checkVa env lane asks a)
  let items := r.accs.map (fun a => (a, match data.read env.w (env.w.lane a.lane) with
    | .ok ws => stain (hasLane env.is.residue a.lane) ws
    | .error _ => []))
  let lanes := maskOf (r.accs.map (fun a => a.lane))
  let s2 := if items.isEmpty then s
    else match env.gang with
      | some _ =>
        if env.buffering && !sp then
          s.startAccess env.w lanes .st 0 false (.pin n (env.key 0) env.is.w0 env.is.w1 items)
        else s.startAccess env.w lanes .st 0 false (.store n (f.w.hint == 2) rel items)
      | none => s.startAccess env.w lanes .st 0 false (.store n (f.w.hint == 2) rel items)
  env.parkAnd 2 r (env.residues s2)

def execStG (f : F3) (s : State) : Host.Outcome State Fault Refusal :=
  s.run f.stGForm (fun env => env.store f f.stGForm false false false f.stGForm.b)

def execStRel (f : F3) (s : State) : Host.Outcome State Fault Refusal :=
  s.run f.stRelForm (fun env => env.store f f.stRelForm false true false f.stRelForm.b)

def execStv (f : F3) (s : State) : Host.Outcome State Fault Refusal :=
  s.run f.stvForm (fun env => env.store f f.stvForm false false true f.stvForm.c)

def execStSp (f : F3) (s : State) : Host.Outcome State Fault Refusal :=
  s.run f.stSpForm (fun env s =>
    if f.w.fifo then env.fifoPush f f.stSpForm s else env.store f f.stSpForm true false false f.stSpForm.b s)

/-! ## Prefetch and L1 maintenance (R441, R442) -/

/-- A line becomes valid in a core's L1, as a load of each of its words would make it. -/
def State.fetchLine (s : State) (core pa : Nat) : State :=
  (List.range 32).foldl (fun s i => (s.loadWord core (pa / 128 * 128 + 4 * i) false true false).2) s

def execPref (f : F3) (s : State) : Host.Outcome State Fault Refusal :=
  s.run f.prefForm (fun env s =>
    env.fall (env.residues (env.lanes.foldl (fun s l =>
      match memAddr f f.prefForm false env.w (env.w.lane l) with
      | .ok a =>
        match s.checkVa env { (env.w.lane l) with pure_ := none } { kind := .load, bytes := 1, write := false, cause := 1 } a with
        | .go (.home pa) _ => s.fetchLine env.w.core pa
        | _ => s
      | .error _ => s) s)))

def execInvL1 (f : F2) (s : State) : Host.Outcome State Fault Refusal :=
  s.run f.l1Form (fun env s => env.fall (s.invalidateL1 env.w.core))

def execWbL1 (f : F2) (s : State) : Host.Outcome State Fault Refusal :=
  s.run f.wbL1Form (fun env s => env.fall (s.startAccess env.w env.act .st 0 false (.writeBack env.w.core)))

/-! ## Completion -/

/-- Operations that complete when their data lands: loads and deliveries. -/
def OpBody.lands : OpBody → Bool
  | .load _ _ _ _ _ _ _ _ | .deliver _ _ | .fifoPop _ _ _ _ _ => true
  | _ => false

/-- Those that complete when their writes are performed. -/
def OpBody.writesOut : OpBody → Bool
  | .store _ _ _ _ | .pin _ _ _ _ _ | .buffered | .fifoPush _ _ _ _ | .writeBack _ => true
  | _ => false

/-- A local operation of a kind is performed. -/
def State.performIf (s : State) (id : Nat) (fresh : Bool) (test : OpBody → Bool) : State :=
  match s.op? id with
  | some o => if test o.body && !o.body.isRemote then s.perform o fresh [] else s
  | none => s

def execLoadDataLands (op : Nat) (fresh : Bool) (s : State) : Host.Outcome State Fault Refusal :=
  .next (s.performIf op fresh OpBody.lands)

def execStorePerformed (op : Nat) (s : State) : Host.Outcome State Fault Refusal :=
  .next (s.performIf op false OpBody.writesOut)

/-- A delivery that waited for room pushes its entries (R223). -/
def execQueueDeliveryPush (op : Nat) (s : State) : Host.Outcome State Fault Refusal :=
  .next (s.performIf op false (fun b => b.lands && b.queue?.isSome))

/-- Does every package an operation asks lie behind no relay, so that it fails at once (R24)? -/
def Op.unroutable (o : Op) : Bool := o.body.remotes.all (fun a => o.cut.contains a.lane)

/-- Does an operation return values? -/
def OpBody.returns (b : OpBody) : Bool :=
  match b with
  | .load _ _ _ _ _ _ _ _ => true
  | .atom _ _ _ d _ _ => d.isSome
  | _ => false

/-- A store or an atomic without a value is lost (R19, R296, R307): its gang's error; one the commit had deferred kills the
gang. -/
def State.loseAccess (s : State) (o : Op) : State :=
  match o.gang with
  | some g =>
    let s := s.updGang g (fun g => { g with lost := g.lost + 1 })
    if o.wave = 0 then s.updGang g (fun g =>
      if g.st.live then { g with doom := some { source := 8, core := none, cause := 0, reason := 0, kill := true } } else g)
    else s.charge g 8 none
  | none =>
    match s.wave? o.wave with
    | some w => (s.gangsOf w).foldl (fun s g => (s.updGang g (fun g => { g with lost := g.lost + 1 })).charge g 8 none) s
    | none => s

end Sys2Proof.Machine
end

