-- ==== Sys2Proof/Machine/Atomics.lean ====
section
/-! DEFINITION. Atomics, reductions and gathers at a word's home, opcodes 0x90 to 0x93 (R443 to R447). -/

namespace Sys2Proof
open Machine

/-! ## Forms -/

/-- Is the operation floating: fatom.add, or red with MOD [12]? -/
def atomWidth (ty : Nat) (float : Bool) : Nat := if float then (if ty = 3 then 64 else 32) else if ty % 4 = 3 then 64 else 32
def atomTyOk (ty : Nat) (float : Bool) : Bool :=
  if float then ty == 0 || ty == 3 else ty == 2 || ty == 3 || ty == 6 || ty == 7

/-- Is there no return: D is zero (R444)? -/
def F2.noReturn (f : F2) : Bool := f.dN == 0xC9

def F3.atomForm (f : F3) (float cas : Bool) : Form :=
  let k := atomWidth f.w.tyN float / 32
  { f.w.form 1 (atomTyOk f.w.tyN float && f.w.hint == 0 && f.w.baseOk && f.w.modAt 8 5 == 0 && (cas || f.w.c == 0)) with
    ctrs := if f.w.noReturn then [.st] else [.ld], writes := !f.w.noReturn, a := f.w.basePos, b := .sel f.w.bN k
    c := if cas then .sel f.w.cN k else .none, d := .sel f.w.dN k false, notPure := true
    region := if f.w.noReturn then .fine else .illegal }

def F3.redForm (f : F3) (op : AtomOp) : Form :=
  let float := f.w.modAt 12 1 == 1
  { f.w.form 1 (atomTyOk f.w.tyN float && (!float || op == .add) && f.w.hint == 0 && f.w.baseOk && f.w.modAt 8 4 == 0 &&
      f.w.d == 0 && f.w.c == 0) with
    ctrs := [.st], a := f.w.basePos, b := .sel f.w.bN (atomWidth f.w.tyN float / 32), notPure := true }

def F3.hgatForm (f : F3) : Form :=
  let k := atomWidth f.w.tyN false / 32
  { f.w.form 1 (atomTyOk f.w.tyN false && f.w.hint == 0 && f.w.baseOk && f.w.baseScalar && f.w.modAt 12 1 == 0 &&
      decide (f.w.scale ≤ 4) && f.w.c == 0) with
    ctrs := [.ld], writes := f.w.dN != 0xC9, a := f.w.basePos, b := .sel f.w.bN 1, d := .sel f.w.dN k false, notPure := true }

end Sys2Proof

namespace Sys2Proof.Machine

/-! ## Issue -/

/-- Operands that name one word, reduced in lane order (R446). -/
def combine (op : AtomOp) (w : Nat) (sg : Bool) (items : List AtomItem) : List AtomItem :=
  items.foldl (fun done x =>
    if done.any (fun y => y.acc.loc == x.acc.loc) then
      done.map (fun y => if y.acc.loc = x.acc.loc then
        { y with b := BitVec.ofNat 64 (atomNew op w sg y.b.toNat x.b.toNat 0) } else y)
    else done ++ [x]) []

/-- The gang a lane's operation is made for: its wave's, or that of its record. -/
def State.laneGang (s : State) (env : Env) (lane : Nat) : Option Nat :=
  match env.w.gang with
  | some g => some g
  | none => ((env.w.lane lane).rec_.bind (fun r => s.gangOf r.launch r.gang)).map (fun g => g.id)

/-- Non-returning operations inside a region wait for the commit (R286, R291). -/
def State.deferAtoms (s : State) (env : Env) (gang : Nat) (op : AtomOp) (w : Nat) (sg cas : Bool) (items : List AtomItem) :
    State :=
  items.foldl (fun s x =>
    let operands := toBytes (w / 8) x.b.toNat ++ (if cas then toBytes (w / 8) x.c.toNat else [])
    s.deferOp gang { key := env.key x.acc.lane, core := env.w.core, va := x.acc.va, w0 := env.is.w0, w1 := env.is.w1,
                     body := .atom op w sg x.acc.loc x.b x.c } 3 env.is.w0.toNat 0 x.acc.va
      (slice 0 operands 0 112 ++ toBytes 4 env.is.w1.toNat)) s

/-- Floating operations of a deterministic launch are buffered (R305). -/
def State.bufferAtoms (s : State) (env : Env) (w : Nat) (items : List AtomItem) : State :=
  items.foldl (fun s x =>
    match s.laneGang env x.acc.lane with
    | some g => s.bufferDet g { key := (env.w.group, env.w.index, x.acc.lane, env.w.issued), loc := x.acc.loc, width := w,
                                b := x.b }
    | none => s) s

/-- Atomics and reductions (R443 to R446). -/
def Env.atomic (env : Env) (f : F3) (F : Form) (op : AtomOp) (w : Nat) (sg red : Bool) (s : State) : Res := do
  let k := w / 32
  let det := op == .fadd && s.detLaunch env.w.launch
  let ret := !red && !f.w.noReturn
  if det && ret then .error (env.raise cIllegal)
  else
    let asks : Asks := { kind := .store, bytes := w / 8, write := true, cause := 4, atomic := true }
    let slot (lane : Lane) : Try Unit := if ret then (F.d.slot env.w.regs lane).map (fun _ => ()) else .ok ()
    let r ← env.reach
      (fun _ lane => (both (slot lane) (both (F.b.val env.w lane) (F.c.val env.w lane))).map (fun _ => ()))
      (fun _ lane => memAddr f F false env.w lane) (fun lane a => s.checkVa env lane asks a)
    let item (a : Acc) : AtomItem :=
      let lane := env.w.lane a.lane
      let val (p : Pos) : Dword := match p.val env.w lane with | .ok v => BitVec.ofNat 64 v | .error _ => 0
      { acc := a, b := val F.b, c := val F.c }
    let items := if red then combine op w sg (r.accs.map item) else r.accs.map item
    let lanes := maskOf (r.accs.map (fun a => a.lane))
    let s1 := s.dropCopies env.w.core items (w / 8)
    let s2 :=
      if items.isEmpty then s
      else if ret then
        s1.startAccess env.w lanes .ld f.w.la.toNat true
          (.atom op w sg (some (F.dstOf env.w (r.accs.map (fun a => a.lane)) k)) items []) (env.act &&& env.is.residue)
      else match env.gang, env.buffering, det with
        | some g, true, _ =>
          (s1.deferAtoms env g.id op w sg (op == .cas) items).startAccess env.w lanes .st 0 false .buffered
        | _, _, true => (s1.bufferAtoms env w items).startAccess env.w lanes .st 0 false .buffered
        | _, _, false => s1.startAccess env.w lanes .st 0 false (.atom op w sg none items [])
    env.parkAnd 4 r (env.residues s2)

/-- An integer atomic of 0x90. -/
def State.atomOp (s : State) (f : F3) (F : Form) (op : AtomOp) : Host.Outcome State Fault Refusal :=
  s.run F (fun env => env.atomic f F op (atomWidth f.w.tyN false) (decide (f.w.tyN < 4)) false)

def execAtomAdd (f : F3) (s : State) : Host.Outcome State Fault Refusal := s.atomOp f (f.atomForm false false) .add
def execAtomMin (f : F3) (s : State) : Host.Outcome State Fault Refusal := s.atomOp f (f.atomForm false false) .min
def execAtomMax (f : F3) (s : State) : Host.Outcome State Fault Refusal := s.atomOp f (f.atomForm false false) .max
def execAtomAnd (f : F3) (s : State) : Host.Outcome State Fault Refusal := s.atomOp f (f.atomForm false false) .and
def execAtomOr (f : F3) (s : State) : Host.Outcome State Fault Refusal := s.atomOp f (f.atomForm false false) .or
def execAtomXor (f : F3) (s : State) : Host.Outcome State Fault Refusal := s.atomOp f (f.atomForm false false) .xor
def execAtomXch (f : F3) (s : State) : Host.Outcome State Fault Refusal := s.atomOp f (f.atomForm false false) .xch
def execAtomCas (f : F3) (s : State) : Host.Outcome State Fault Refusal := s.atomOp f (f.atomForm false true) .cas

def execFatomAdd (f : F3) (s : State) : Host.Outcome State Fault Refusal :=
  s.run (f.atomForm true false)
    (fun env => env.atomic f (f.atomForm true false) .fadd (atomWidth f.w.tyN true) false false)

/-- red (R446): MOD [12] makes red.add floating. -/
def State.redOp (s : State) (f : F3) (F : Form) (op : AtomOp) : Host.Outcome State Fault Refusal :=
  let float := f.w.modAt 12 1 == 1
  s.run F (fun env => env.atomic f F (if float then .fadd else op) (atomWidth f.w.tyN float)
    (!float && decide (f.w.tyN < 4)) true)

def execRedAdd (f : F3) (s : State) : Host.Outcome State Fault Refusal := s.redOp f (f.redForm .add) .add
def execRedMin (f : F3) (s : State) : Host.Outcome State Fault Refusal := s.redOp f (f.redForm .min) .min
def execRedMax (f : F3) (s : State) : Host.Outcome State Fault Refusal := s.redOp f (f.redForm .max) .max
def execRedAnd (f : F3) (s : State) : Host.Outcome State Fault Refusal := s.redOp f (f.redForm .and) .and
def execRedOr (f : F3) (s : State) : Host.Outcome State Fault Refusal := s.redOp f (f.redForm .or) .or
def execRedXor (f : F3) (s : State) : Host.Outcome State Fault Refusal := s.redOp f (f.redForm .xor) .xor

/-- hgat (R447): the current value at the home. -/
def execHgat (f : F3) (s : State) : Host.Outcome State Fault Refusal :=
  s.run f.hgatForm (fun env => env.load f f.hgatForm { bypass := true, indexed := true, atomic := true }
    (atomWidth f.w.tyN false / 8))

/-! ## The home (R256) -/

def execAtomicAtHome (op : Nat) (s : State) : Host.Outcome State Fault Refusal :=
  .next (s.performIf op false OpBody.isAtom)

end Sys2Proof.Machine
end

