-- ==== Sys2Proof/Machine/Geometry.lean ====
section
/-! DEFINITION. Rays and treelets (R148 to R154, R164 to R167, R173, R176): the box and triangle tests, and how a ray
traverses one treelet. -/

namespace Sys2Proof.Machine

/-! ## CTRL (R153) -/

def ctrlDone : Nat := 2 ^ 24
def ctrlRestart : Nat := 2 ^ 23
def ctrlIncomplete : Nat := 2 ^ 22
def ctrlBad : Nat := 2 ^ 21
def ctrlPoison : Nat := 2 ^ 20

/-- A bit of CTRL set. -/
def withBit (c bit : Nat) : Nat := if c / bit % 2 = 1 then c else c + bit

/-- Bits [24:18], which the device keeps, as 0. -/
def ctrlCast (c : Nat) : Nat := c - field c 18 7 * 2 ^ 18

def noPrim : Nat := 0xFFFFFFFF

/-- A ray as the traversal unit holds it: its unchanging parts, and its best candidate. -/
structure Ray where
  org : List Nat
  dir : List Nat
  tmin : Nat
  ctrl : Nat
  tmax : Nat
  prim : Nat
  u : Nat
  v : Nat
  treelet : Nat
  deriving DecidableEq, Repr

def wordNat (ws : List Word) (i : Nat) : Nat := (ws.getD i 0).toNat

/-- A record and its side state (R152, R156). -/
def rayOf (rec_ side : List Word) : Ray :=
  { org := [wordNat rec_ 0, wordNat rec_ 1, wordNat rec_ 2], dir := [wordNat rec_ 3, wordNat rec_ 4, wordNat rec_ 5]
    tmin := wordNat rec_ 6, ctrl := wordNat rec_ 9, tmax := wordNat rec_ 7, prim := wordNat rec_ 15, u := wordNat side 0
    v := wordNat side 1, treelet := wordNat side 2 }

/-- The parts that change, written back. -/
def Ray.record (r : Ray) (rec_ : List Word) : List Word :=
  putAt (putAt (putAt rec_ 7 (BitVec.ofNat 32 r.tmax)) 9 (BitVec.ofNat 32 r.ctrl)) 15 (BitVec.ofNat 32 r.prim)
def Ray.side (r : Ray) : List Word := [BitVec.ofNat 32 r.u, BitVec.ofNat 32 r.v, BitVec.ofNat 32 r.treelet]

/-! ## Malformed rays (R154) -/

def finite (b : Nat) : Bool := !f32.isNan b && !f32.isInf b

/-- Does a ray record break R154, its TYPE and its reserved bits (with TILE, 0 in ray records) apart from a beam's? -/
def rayBad (typeOk : Bool) (reserved : Nat) (org dir : List Nat) (tmin tmax : Nat) : Bool :=
  !typeOk || reserved != 0 || org.any (fun b => !finite b) || dir.any (fun b => !finite b) ||
  dir.all f32.isZero || f32.isNan tmin || (f32.neg tmin && !f32.isZero tmin) || f32.isNan tmax || f32.cond 2 tmax tmin

def recordBad (ws : List Word) : Bool :=
  let r := rayOf ws []
  rayBad (decide (r.ctrl / 2 ^ 28 ≤ 1)) (field r.ctrl 3 5 + field r.ctrl 16 2) r.org r.dir r.tmin r.tmax

/-! ## Beams (R173) -/

/-- Columns and rows of a beam; an invalid TILE counts as 4. -/
def beamWidth (ctrl : Nat) : Nat := if field ctrl 16 2 = 1 then 8 else 4

/-- The record of pixel (i, j). -/
def pixelRecord (ws : List Word) (i j : Nat) : List Word :=
  let ctrl := wordNat ws 9
  let w := beamWidth ctrl
  let step (k n : Nat) : Nat := f32.mul 0 (f32.ofInt 0 n) (wordNat ws k)
  let dir (k : Nat) : Word := BitVec.ofNat 32 (f32.add 0 (f32.add 0 (wordNat ws (3 + k)) (step (10 + k) i)) (step (13 + k) j))
  let id := BitVec.ofNat 32 (wordNat ws 8 + j * w + i)
  slice 0 ws 0 3 ++ [dir 0, dir 1, dir 2] ++ slice 0 ws 6 2 ++ [id] ++
    [BitVec.ofNat 32 (field ctrl 25 3 * 2 ^ 25 + field ctrl 8 8 * 2 ^ 8), 0, 0, 0, 0, id, BitVec.ofNat 32 noPrim]

def pixelRecords (ws : List Word) : List (List Word) :=
  let w := beamWidth (wordNat ws 9)
  ((List.range w).map (fun j => (List.range w).map (fun i => pixelRecord ws i j))).flatten

/-- Does a beam finish as misses at once? -/
def beamBad (ws : List Word) : Bool :=
  let c := wordNat ws 9
  c / 2 ^ 28 != 15 || decide (2 ≤ field c 16 2) || field c 3 5 != 0 || (pixelRecords ws).any recordBad

/-! ## The box test (R164) -/

structure Box where
  lo : List Nat
  hi : List Nat
  deriving DecidableEq, Repr

/-- 1 + 2^-21. -/
def slack : Nat := 0x3F800004

def fmin2 (a b : Nat) : Nat := f32.minmax false a b
def fmax2 (a b : Nat) : Nat := f32.minmax true a b

/-- The slab of an axis: its lesser and greater end. -/
def slab (org dir lo hi : Nat) : Nat × Nat :=
  let inv := f32.div 0 f32.one dir
  let a := f32.mul 0 (f32.sub 0 lo org) inv
  let b := f32.mul 0 (f32.sub 0 hi org) inv
  let a := if f32.isNan a then f32.signed true f32.inf else a
  let b := if f32.isNan b then f32.inf else b
  (fmin2 a b, fmax2 a b)

/-- Does the box pass, and the entry distance. -/
def boxTest (r : Ray) (b : Box) : Bool × Nat :=
  let s (c : Nat) : Nat × Nat := slab (r.org.getD c 0) (r.dir.getD c 0) (b.lo.getD c 0) (b.hi.getD c 0)
  let near := fmax2 (fmax2 (fmax2 (s 0).1 (s 1).1) (s 2).1) r.tmin
  let far := fmin2 (fmin2 (fmin2 (s 0).2 (s 1).2) (s 2).2) r.tmax
  (f32.cond 3 near (f32.mul 2 far slack), near)

/-! ## The triangle test (R165) -/

/-- A candidate: t, u, v. -/
structure Hit where
  t : Nat
  u : Nat
  v : Nat
  deriving DecidableEq, Repr

/-- The axis of the largest component, the lowest on a tie. -/
def largestAxis (dir : List Nat) : Nat :=
  let m (i : Nat) : Nat := f32.mag (dir.getD i 0)
  if m 0 ≥ m 1 ∧ m 0 ≥ m 2 then 0 else if m 1 ≥ m 2 then 1 else 2

/-- An edge function, with the sign that counts: FP64's where FP32 gives 0. -/
def edge (px py qx qy : Nat) : Nat × Int :=
  let sign (neg zero : Bool) : Int := if zero then 0 else if neg then -1 else 1
  let e := f32.sub 0 (f32.mul 0 px qy) (f32.mul 0 py qx)
  if f32.isZero e then
    let d (b : Nat) : Nat := convert f32 f64 0 b
    let x := f64.sub 0 (f64.mul 0 (d px) (d qy)) (f64.mul 0 (d py) (d qx))
    (convert f64 f32 0 x, sign (f64.neg x) (f64.isZero x))
  else (e, sign (f32.neg e) false)

/-- A vertex in the ray's sheared space. -/
def shear (org p : List Nat) (kx ky kz sx sy sz : Nat) : Nat × Nat × Nat :=
  let q (c : Nat) : Nat := f32.sub 0 (p.getD c 0) (org.getD c 0)
  (f32.sub 0 (q kx) (f32.mul 0 sx (q kz)), f32.sub 0 (q ky) (f32.mul 0 sy (q kz)), f32.mul 0 sz (q kz))

def triTest (r : Ray) (a b c : List Nat) : Option Hit :=
  let d (i : Nat) : Nat := r.dir.getD i 0
  let kz := largestAxis r.dir
  let k1 := (kz + 1) % 3
  let k2 := (kz + 2) % 3
  let (kx, ky) := if f32.neg (d kz) then (k2, k1) else (k1, k2)
  let sx := f32.div 0 (d kx) (d kz)
  let sy := f32.div 0 (d ky) (d kz)
  let sz := f32.div 0 f32.one (d kz)
  let A := shear r.org a kx ky kz sx sy sz
  let B := shear r.org b kx ky kz sx sy sz
  let C := shear r.org c kx ky kz sx sy sz
  let e0 := edge B.1 B.2.1 C.1 C.2.1
  let e1 := edge C.1 C.2.1 A.1 A.2.1
  let e2 := edge A.1 A.2.1 B.1 B.2.1
  let signs := [e0.2, e1.2, e2.2]
  if signs.any (fun s => decide (s < 0)) && signs.any (fun s => decide (s > 0)) then none
  else
    let det := f32.add 0 (f32.add 0 e0.1 e1.1) e2.1
    if f32.isZero det then none
    else if (bitOf r.ctrl 27 && f32.cond 2 det 0) || (bitOf r.ctrl 26 && f32.cond 4 det 0) then none
    else
      let t := f32.add 0 (f32.add 0 (f32.mul 0 e0.1 A.2.2) (f32.mul 0 e1.1 B.2.2)) (f32.mul 0 e2.1 C.2.2)
      some { t := f32.div 0 t det, u := f32.div 0 e1.1 det, v := f32.div 0 e2.1 det }

/-- Is a hit a candidate (R166)? -/
def Ray.isCand (r : Ray) (h : Hit) (prim : Nat) : Bool :=
  f32.cond 3 r.tmin h.t && (f32.cond 2 h.t r.tmax || (f32.cond 0 h.t r.tmax && decide (prim < r.prim)))

def Ray.accept (r : Ray) (h : Hit) (prim treelet : Nat) : Ray :=
  { r with tmax := h.t, prim := prim, u := h.u, v := h.v, treelet := treelet }

/-! ## Treelets (R147 to R151) -/

/-- A treelet image as a pass holds it: its ID, bytes, poisoned 8-byte units, and the scene's treelet count, with whether
PCANY is set and the context tolerates poison. -/
structure Treelet where
  id : Nat
  bytes : List Byte
  marks : List Nat
  count : Nat
  anyHit : Bool
  tolerant : Bool
  deriving DecidableEq, Repr

def Treelet.nodes (t : Treelet) : Nat := numAt t.bytes 0x08 4
def Treelet.tris (t : Treelet) : Nat := numAt t.bytes 0x0C 4
def Treelet.triOff (t : Treelet) : Nat := numAt t.bytes 0x10 4

/-- Does the image's header keep R148? -/
def Treelet.ok (t : Treelet) : Bool :=
  numAt t.bytes 0 4 == 0x5358544C && numAt t.bytes 4 4 == t.id && decide (1 ≤ t.nodes) && decide (t.nodes ≤ 4096) &&
    (slice 0 t.bytes 0x14 44).all (· == 0) && decide (0x40 + 128 * t.nodes ≤ t.triOff) &&
    decide (t.triOff + 48 * t.tris ≤ t.bytes.length)

/-- Is a byte of a range poisoned? -/
def Treelet.bad (t : Treelet) (off n : Nat) : Bool := t.marks.any (fun u => decide (off / 8 ≤ u) && decide (u ≤ (off + n - 1) / 8))

def wordsNat (bs : List Byte) (off : Nat) (n : Nat) : List Nat := (List.range n).map (fun i => numAt bs (off + 4 * i) 4)

/-- What is left to visit: a node, or the triangles of a leaf, each with the reference. -/
inductive Visit where
  | node (n : Nat)
  | leaf (first count : Nat)
  deriving DecidableEq, Repr

/-- A child of a node that passed: its entry distance, its box, and where it leads. -/
structure Child where
  near : Nat
  box : Box
  goes : Visit ⊕ Nat
  deriving DecidableEq, Repr

/-- An exit that passed: its entry distance, box and treelet. -/
structure Exit where
  near : Nat
  box : Box
  id : Nat
  deriving DecidableEq, Repr

/-- A child slot, read and tested. -/
inductive SlotRead where
  | skip (poisoned : Bool)
  | bad
  | consumed
  | child (c : Child)
  deriving DecidableEq, Repr

def Treelet.slot (t : Treelet) (r : Ray) (node k : Nat) : SlotRead :=
  let base := 0x40 + 128 * node
  let ref := numAt t.bytes (base + 0x60 + 4 * k) 4
  let kind := ref / 2 ^ 30
  if t.bad (base + 0x60 + 4 * k) 4 || (kind != 0 && t.bad (base + 24 * k) 24) then
    if t.tolerant then .skip true else .consumed
  else if kind = 0 then if ref = 0 then .skip false else .bad
  else
    let goes : Option (Visit ⊕ Nat) :=
      if kind = 1 then
        if field ref 12 18 = 0 ∧ 1 ≤ field ref 0 12 ∧ field ref 0 12 < t.nodes then some (.inl (.node (field ref 0 12))) else none
      else if kind = 2 then
        if field ref 0 24 + field ref 24 6 + 1 ≤ t.tris then some (.inl (.leaf (field ref 0 24) (field ref 24 6 + 1))) else none
      else if field ref 24 6 = 0 ∧ field ref 0 24 < t.count ∧ field ref 0 24 ≠ t.id then some (.inr (field ref 0 24)) else none
    match goes with
    | none => .bad
    | some goes =>
      let b := wordsNat t.bytes (base + 24 * k) 6
      let box : Box := { lo := b.take 3, hi := b.drop 3 }
      let (pass, near) := boxTest r box
      if pass then .child { near := near, box := box, goes := goes } else .skip false

/-- Nearer first; equal ones keep their order (the lower slot first). -/
def insertNear (c : Child) : List Child → List Child
  | [] => [c]
  | x :: t => if f32.cond 2 c.near x.near then c :: x :: t else x :: insertNear c t

/-- How a traversal stands. -/
structure Walker where
  ray : Ray
  exits : List Exit := []
  verdicts : List Nat
  deriving DecidableEq, Repr

/-- How it ends: malformed geometry, consumed poison, a candidate that waits for its verdict, finished at an accepted
candidate, or all of the treelet seen, with the exits that passed. -/
inductive Trav where
  | bad (ray : Ray)
  | consumed
  | waits (ray : Ray) (h : Hit) (prim : Nat)
  | ends (ray : Ray)
  | through (ray : Ray) (exits : List Exit)
  deriving DecidableEq, Repr

/-- The four slots of a node: children that passed, nearest first. -/
def Treelet.children (t : Treelet) (node : Nat) : List Nat → Walker → List Child → Except Trav (Walker × List Child)
  | [], w, cs => .ok (w, cs)
  | k :: rest, w, cs =>
    match t.slot w.ray node k with
    | .skip p => t.children node rest
        (if p then { w with ray := { w.ray with ctrl := withBit w.ray.ctrl ctrlPoison } } else w) cs
    | .bad => .error (.bad w.ray)
    | .consumed => .error .consumed
    | .child c => t.children node rest w (insertNear c cs)

/-- The triangles of a leaf, in index order (R165, R166, R171). -/
def Treelet.leaf (t : Treelet) : Nat → Nat → Walker → Except Trav Walker
  | 0, _, w => .ok w
  | n + 1, i, w =>
    let off := t.triOff + 48 * i
    let r := w.ray
    if t.bad off 48 then
      if t.tolerant then t.leaf n (i + 1) { w with ray := { r with ctrl := withBit r.ctrl ctrlPoison } } else .error .consumed
    else
      let prim := numAt t.bytes (off + 0x24) 4
      let flags := numAt t.bytes (off + 0x28) 4
      if flags ≥ 2 ∨ prim = noPrim then .error (.bad r)
      else match triTest r (wordsNat t.bytes off 3) (wordsNat t.bytes (off + 12) 3) (wordsNat t.bytes (off + 24) 3) with
        | none => t.leaf n (i + 1) w
        | some h =>
          if !r.isCand h prim then t.leaf n (i + 1) w
          else
            let r2 := r.accept h prim t.id
            if flags = 1 || bitOf r.ctrl 25 || !t.anyHit then
              if r.ctrl / 2 ^ 28 = 1 then .error (.ends r2) else t.leaf n (i + 1) { w with ray := r2 }
            else match w.verdicts with
              | [] => .error (.waits r h prim)
              | v :: rest =>
                let w := { w with verdicts := rest }
                if v = 1 then t.leaf n (i + 1) w
                else if v = 2 ∨ r.ctrl / 2 ^ 28 = 1 then .error (.ends r2)
                else t.leaf n (i + 1) { w with ray := r2 }

/-- Depth first, nearest entry first (R164). A hierarchy that runs longer than its nodes allow is malformed (log 29). -/
def Treelet.walk (t : Treelet) : Nat → List Visit → Walker → Trav
  | 0, _, w => .bad w.ray
  | _ + 1, [], w => .through w.ray w.exits
  | fuel + 1, .leaf first count :: rest, w =>
    match t.leaf count first w with
    | .error e => e
    | .ok w => t.walk fuel rest w
  | fuel + 1, .node n :: rest, w =>
    match t.children n [0, 1, 2, 3] w [] with
    | .error e => e
    | .ok (w, cs) =>
      let exits := cs.filterMap (fun c => match c.goes with | .inr id => some { near := c.near, box := c.box, id := id : Exit } | .inl _ => none)
      let inner := cs.filterMap (fun c => match c.goes with | .inl v => some v | .inr _ => none)
      t.walk fuel (inner ++ rest) { w with exits := w.exits ++ exits }

/-- A ray's traversal of a treelet from its root, with the verdicts it has had. -/
def Treelet.run (t : Treelet) (r : Ray) (verdicts : List Nat) : Trav :=
  if t.bad 0 64 then
    if t.tolerant then .through { r with ctrl := withBit r.ctrl ctrlPoison } [] else .consumed
  else if !t.ok then .bad r
  else t.walk 65536 [.node 0] { ray := r, verdicts := verdicts }

/-! ## Leaving a treelet (R167) -/

/-- The pending treelets, bottom first. -/
def stackOfRec (rec_ : List Word) : List Nat :=
  (List.range 4).filterMap (fun i => let w := wordNat rec_ (10 + i); if w ≥ 2 ^ 31 then some (w % 2 ^ 24) else none)

/-- Farther exits are pushed first, of equal ones the higher treelet. -/
def pushesBefore (a b : Exit) : Bool := f32.cond 2 b.near a.near || (f32.cond 0 a.near b.near && decide (b.id < a.id))

/-- A push; a full stack loses its bottom and sets RESTART. -/
def pushOne (x : List Nat × Bool) (id : Nat) : List Nat × Bool :=
  if x.1.length ≥ 4 then (x.1.drop 1 ++ [id], true) else (x.1 ++ [id], x.2)

/-- Where a ray goes from its treelet: to another with its record, or it has finished. -/
inductive Leaves where
  | to (id : Nat) (rec_ side : List Word)
  | done (rec_ side : List Word)
  deriving DecidableEq, Repr

/-- A record with its stack and PCOUNT. -/
def withStack (rec_ : List Word) (st : List Nat) : List Word :=
  let at_ (i : Nat) : Word := match st[i]? with | some id => BitVec.ofNat 32 (2 ^ 31 + id) | none => 0
  let c := wordNat rec_ 9
  putAt (putMany rec_ 10 [at_ 0, at_ 1, at_ 2, at_ 3]) 9 (BitVec.ofNat 32 (c / 8 * 8 + st.length))

def finishRay (r : Ray) (rec_ : List Word) : Leaves :=
  let r := { r with ctrl := withBit r.ctrl ctrlDone }
  .done (withStack (r.record rec_) []) r.side

/-- A malformed ray ends as a miss (R151, R154). -/
def badRay (r : Ray) (rec_ : List Word) : Leaves :=
  finishRay { r with ctrl := withBit r.ctrl ctrlBad, prim := noPrim, u := 0, v := 0, treelet := noPrim } rec_

def leaveTreelet (root : Nat) (r : Ray) (rec_ : List Word) (exits : List Exit) : Leaves :=
  let start : List Nat × Bool := (stackOfRec rec_, bitOf r.ctrl 23)
  let (st, restart) := ((sortBy pushesBefore exits).map (fun x => x.id)).foldl pushOne start
  let r := if restart then { r with ctrl := withBit r.ctrl ctrlRestart } else r
  match st.getLast? with
  | some id => .to id (withStack (r.record rec_) st.dropLast) r.side
  | none =>
    if !restart then finishRay r rec_
    else
      let n := field r.ctrl 18 2
      let c := r.ctrl - ctrlRestart
      if n < 3 then .to root (withStack ({ r with ctrl := c + 2 ^ 18 }.record rec_) []) r.side
      else finishRay { r with ctrl := withBit r.ctrl ctrlIncomplete } rec_

end Sys2Proof.Machine
end

