-- ==== Sys2Proof/Machine/Fetch.lean ====
section
/-! DEFINITION. Code as it is fetched (R334 to R337): clause headers, the walk that
finds them, and what a partition issues from a frontier entry. -/

namespace Sys2Proof.Machine

/-! ## Clause headers (R335, R336) -/

def headerOk (w : Nat) : Bool := field w 28 4 == 15 && field w 24 4 != 0 && field w 21 3 != 7 && field w 18 2 == 0
def headerCount (w : Nat) : Nat := field w 24 4
def headerClass (w : Nat) : Nat := field w 21 3
def headerYield (w : Nat) : Bool := bitOf w 20

/-- Thresholds for ld, st, cp, mx, ry, co; 7 means no wait. -/
def headerWaits (w : Nat) : List Nat := [field w 15 3, field w 12 3, field w 9 3, field w 6 3, field w 3 3, field w 0 3]

/-- Are the waits of a header met (R337)? -/
def waitsMet (w : Nat) (c : Counters) : Bool :=
  ((headerWaits w).zip c.all).all (fun x => x.1 == 7 || decide (x.2 ≤ x.1))

/-- The instructions a header counts, walked: the byte after the clause, when every opcode is assigned and the clause ends
within the code. -/
def walkClause (code : List Byte) (len : Nat) : Nat → Nat → Option Nat
  | 0, off => if off ≤ len then some off else none
  | n + 1, off =>
    if off + 4 > len then none
    else
      let op := numAt code (off + 3) 1
      if assignedOp op then walkClause code len n (off + 4 * wordsOfOp op) else none

/-- The headers of a code range, by offset (R334). -/
def walkHeaders (code : List Byte) (len : Nat) : Nat → Nat → List Nat
  | 0, _ => []
  | fuel + 1, off =>
    if off + 4 > len then []
    else
      let h := numAt code off 4
      if !headerOk h then []
      else match walkClause code len (headerCount h) (off + 4) with
        | none => []
        | some next => off :: walkHeaders code len fuel next

/-- The header map of a code range that starts at ENTRY. -/
def headerMap (entry : Nat) (code : List Byte) : List Nat :=
  (walkHeaders code code.length (code.length / 4 + 1) 0).map (fun off => entry + off)

/-! ## What an entry issues -/

/-- A code word as fetched, or why not. -/
inductive CodeWord where
  | word (w : PWord)
  | cause (c : Nat)
  | invalid
  deriving DecidableEq, Repr

def State.fetchWord (s : State) (cx : Ctx) (va : Nat) : CodeWord :=
  match s.xlate cx .fetch va with
  | .cause c => .cause c
  | .invalid => .invalid
  | .ok (.home pa) _ _ => .word (s.current pa)
  | .ok _ _ _ => .cause cPermission

/-- What the fetch of an entry gives: something to issue, its word 2 and the entry as it issues, standing at the
instruction inside its clause; a cause for every lane; a page to park on. -/
inductive Fetched where
  | issue (is : Issue) (w2 : Word) (e : Entry)
  | raise (is : Issue) (e : Entry) (c : Nat)
  | park (va : Nat)
  deriving DecidableEq, Repr

/-- The words of the instruction at the PC of an entry inside a clause. -/
def State.fetchAt (s : State) (cx : Ctx) (w : Wave) (e : Entry) (c : Clause) : Fetched :=
  let base : Issue := { wave := w.id, pc := e.pc, depth := e.depth, next := e.pc + 4, last := decide (c.left ≤ 1),
                        cls := c.cls, w0 := 0, w1 := 0 }
  let get (va : Nat) (k : PWord → Fetched) : Fetched :=
    match s.fetchWord cx va with
    | .word x => if x.mark then .raise base e cPoison else k x
    | .cause n => .raise base e n
    | .invalid => .park va
  get e.pc (fun w0 =>
    let n := wordsOfOp (w0.val.toNat / 2 ^ 24)
    let is : Issue := { base with next := e.pc + 4 * n, w0 := w0.val }
    if n = 1 then .issue is 0 e
    else get (e.pc + 4) (fun w1 =>
      let is : Issue := { is with w1 := w1.val }
      if n = 2 then .issue is 0 e
      else get (e.pc + 8) (fun w2 => .issue is w2.val e)))

/-- The next instruction of an entry (R334, R336, R337): at a header it reads that first, which must be in the map and
still pass the header test. -/
def State.fetchEntry (s : State) (cx : Ctx) (w : Wave) (e : Entry) : Fetched :=
  match e.clause with
  | some c => s.fetchAt cx w e c
  | none =>
    let base : Issue := { wave := w.id, pc := e.pc, depth := e.depth, next := e.pc + 4, last := false, cls := 6, w0 := 0,
                          w1 := 0 }
    if !(s.headersOf w).contains e.pc then .raise base e cTarget
    else match s.fetchWord cx e.pc with
      | .cause c => .raise base e c
      | .invalid => .park e.pc
      | .word h =>
        if h.mark then .raise base e cPoison
        else if !headerOk h.val.toNat then .raise base e cIllegal
        else
          let c : Clause := { hdr := e.pc, cls := headerClass h.val.toNat, left := headerCount h.val.toNat }
          s.fetchAt cx w { e with pc := e.pc + 4, clause := some c } c

/-- An entry of a wave is replaced by what it becomes. -/
def State.setEntry (s : State) (wave : Nat) (old new : Entry) : State :=
  s.updWave wave (fun w => { w with frontier := w.frontier.map (fun x => if x = old then new else x) })

/-- A cause that no instruction of the wave raises now (a park or a claim that fails): it is raised for a blocked entry's
lanes at its instruction (R205, R265). -/
def State.raiseBlocked (s : State) (w : Wave) (e : Entry) (cause : Nat) (addrs : List (Nat × Nat)) : State :=
  match s.ctx? w.ctx with
  | none => s
  | some cx =>
    let s := s.setEntry w.id e { e with block := .none, firstPark := [] }
    let (is, e2) : Issue × Entry := match s.fetchEntry cx w { e with block := .none, firstPark := [] } with
      | .issue is _ e2 => (is, e2)
      | .raise is e2 _ => (is, e2)
      | .park _ => ({ wave := w.id, pc := e.pc, depth := e.depth, next := e.pc + 4, last := false, cls := 6, w0 := 0, w1 := 0 },
                    { e with block := .none, firstPark := [] })
    let s := s.setEntry w.id { e with block := .none, firstPark := [] } e2
    match s.wave? w.id with
    | none => s
    | some w =>
      let env : Env := { w := w, is := is, e := e2, act := e2.mask, cx := cx, gang := w.gang.bind s.gang?,
                         headers := s.headersOf w }
      s.takeTrap env (raisedOf ((lanesOf e2.mask).map (fun l => (l, cause))) addrs)

/-- A blocked entry whose wait ends goes on behind its instruction of n words (R338): to the next of its clause, or to
the next header, where it may merge. -/
def Entry.past (e : Entry) (cls n : Nat) : Entry :=
  { e with
    pc := e.pc + 4 * n
    block := .none
    passed := 0
    clause := match e.clause with
      | some c => if c.left ≤ 1 then none else some { c with left := c.left - 1, prev := some cls }
      | none => none }

/-- The wave's blocked entries that a wait frees go on, those a handler holds back among them; each arrives where it
goes. -/
def Wave.freeEntries (w : Wave) (cls n : Nat) (freed : Entry → Bool) : Wave :=
  let free (es : List Entry) : List Entry :=
    ((es.filter freed).map (fun e => e.past cls n)).foldl arrive (es.filter (fun e => !freed e))
  { w with frontier := free w.frontier, heldEntries := free w.heldEntries }

end Sys2Proof.Machine
end

