-- ==== Sys2Proof/Machine/Flags.lean ====
section
/-! DEFINITION. Integer types and conditions: reading a w-bit operand by its type, the exact result's reduction or
saturation (R353, R355), and the truth of a condition (R364, R389). The SX9 has no flags register: compares write
predicates. -/

namespace Sys2Proof.Machine

/-- Width of an integer TYPE code (R343): 8, 16, 32, 64. -/
def tyWidth (ty : Nat) : Nat := 8 * 2 ^ (ty % 4)

/-- Codes 0 to 3 are the signed types .i. -/
def tySigned (ty : Nat) : Bool := decide (ty < 4)

/-- 32-bit words of an operand of a type. -/
def tyWords (ty : Nat) : Nat := if ty % 4 = 3 then 2 else 1

/-- An operand read by its type (R353): the low w bits, two's complement or binary. -/
def tyVal (ty n : Nat) : Int :=
  if tySigned ty then toSigned (tyWidth ty) n else ((n % 2 ^ tyWidth ty : Nat) : Int)

/-- Least and greatest value of a type. -/
def tyMin (ty : Nat) : Int := if tySigned ty then -(2 ^ (tyWidth ty - 1) : Nat) else 0
def tyMax (ty : Nat) : Int :=
  if tySigned ty then ((2 ^ (tyWidth ty - 1) - 1 : Nat) : Int) else ((2 ^ tyWidth ty - 1 : Nat) : Int)

/-- A w-bit value as it fills D (R353): extended to 32 bits below that width, by the type's sign. -/
def tyExtend (ty n : Nat) : Nat :=
  let w := tyWidth ty
  if w < 32 then wrap 32 (if tySigned ty then toSigned w n else ((n % 2 ^ w : Nat) : Int)) else n % 2 ^ w

/-- An exact result as it is written (R355): clamped with saturation, else modulo 2^w. -/
def tyResult (ty : Nat) (sat : Bool) (r : Int) : Nat :=
  let r := if sat then min (max r (tyMin ty)) (tyMax ty) else r
  tyExtend ty (wrap (tyWidth ty) r)

/-- "a cond b" of R364: 0 eq, 1 ne, 2 lt, 3 le, 4 gt, 5 ge. -/
def intCond (cond : Nat) (a b : Int) : Bool :=
  match cond with
  | 0 => decide (a = b)
  | 1 => decide (a ≠ b)
  | 2 => decide (a < b)
  | 3 => decide (a ≤ b)
  | 4 => decide (a > b)
  | _ => decide (a ≥ b)

end Sys2Proof.Machine
end

