-- ==== Sys2Proof/Machine/Control.lean ====
section
/-! DEFINITION. Control instructions, opcodes 0x30 to 0x38 (R197 to R205, R373 to R383). -/

namespace Sys2Proof
open Machine

/-- bra and call (R374, R376): word 2 is a signed byte offset, MOD [15:8] the target priority, C the other. -/
def F3.target (f : F3) (pc : Nat) : Nat := wrap 64 ((pc : Int) + toSigned 32 f.imm.toNat)
def F2.pt (f : F2) : Nat := f.modAt 8 8
def F2.pf (f : F2) : Nat := f.cN

def F3.braForm (f : F3) : Form :=
  { f.w.form 4 (f.w.tyN == 0 && f.w.d == 0 && f.w.a == 0 && f.w.b == 0 && !f.w.mod.getLsbD 8) with always := true }

/-- A direct main-file pair or v[xk] (R376). -/
def pairDest (code : Nat) : Bool := decide (code < 0xC0) || (decide (0xD0 ≤ code) && decide (code < 0xD8))

def F3.callForm (f : F3) : Form :=
  { f.w.form 4 (f.w.tyN == 0 && pairDest f.w.dN && f.w.a == 0 && f.w.b == 0 && !f.w.mod.getLsbD 8) with
    always := true, resume := true, d := .sel f.w.dN 2 false }

def F2.brxForm (f : F2) : Form :=
  { f.form 4 (f.tyN == 0 && f.d == 0 && f.b == 0) with always := true, a := .sel f.aN 2 }

def F2.callxForm (f : F2) : Form :=
  { f.form 4 (f.tyN == 0 && pairDest f.dN && f.b == 0) with
    always := true, resume := true, a := .sel f.aN 2, d := .sel f.dN 2 false }

/-- ret (R377): MOD [15:8] is reserved. -/
def F2.retForm (f : F2) : Form :=
  { f.form 4 (f.tyN == 0 && f.d == 0 && f.b == 0 && f.mod.toNat % 256 == 0) with always := true, a := .sel f.aN 2 }

/-- exit and tsk.exit: every field is 0. -/
def F2.exitForm (f : F2) : Form :=
  { f.form 4 (f.tyN == 0 && f.d == 0 && f.a == 0 && f.b == 0 && f.c == 0 && f.mod == 0) with
    need := .release, region := .illegal }

/-- rgive and rclaim: n in C (R380). -/
def F2.poolForm (f : F2) : Form :=
  { f.form 4 (f.tyN == 0 && f.d == 0 && f.a == 0 && f.b == 0 && f.mod == 0 && f.cN % 8 == 0 && decide (8 ≤ f.cN) &&
      decide (f.cN ≤ 184)) with region := .illegalOpen }

def F2.rgiveForm (f : F2) : Form := { f.poolForm with need := .given f.cN }

def F2.repackForm (f : F2) : Form :=
  { f.form 4 (f.tyN == 0 && f.d == 0 && f.b == 0 && f.c == 0 && f.mod.toNat % 256 == 0) with
    always := true, resume := true, a := .sel f.aN 1, need := .release }

end Sys2Proof

namespace Sys2Proof.Machine

/-! ## Branches (R374 to R377) -/

/-- Where an active lane of a branch goes, with what it writes into D. -/
structure Jump where
  pc : Nat
  depth : Nat
  prio : Nat
  slot : Slot := .discard
  deriving DecidableEq, Repr

/-- A lane's target must name a header (R374). -/
def Env.headerTry (env : Env) (j : Jump) : Try Jump := if env.headers.contains j.pc then .ok j else .error cTarget

/-- The fall-through of lanes outside the active set (R374). -/
def Env.restTry (env : Env) : Try Unit :=
  if !env.is.last || env.headers.contains env.is.next then .ok () else .error cTarget

/-- Where an active lane goes, its target checked. -/
def Env.jumpTry (env : Env) (g : Nat → Lane → Try Jump) (l : Nat) : Try Jump :=
  match g l (env.w.lane l) with
  | .error c => .error c
  | .ok j => env.headerTry j

/-- The causes of the active lanes, and of the others. -/
def Env.jumpCauses (env : Env) (go : Nat → Try Jump) : List (Nat × Nat) :=
  env.lanes.filterMap (fun l => match go l with | .error c => some (l, c) | .ok _ => none)
def Env.restCauses (env : Env) (rest : List Nat) : List (Nat × Nat) :=
  match env.restTry with
  | .error c => rest.map (fun l => (l, c))
  | .ok _ => []

/-- Every branch form (R374): targets and fall-throughs are checked first, then return words are written, and one entry
forms per key. -/
def Env.branch (env : Env) (pf : Nat) (g : Nat → Lane → Try Jump) (s : State) : Res := do
  let rest := lanesOf (env.e.mask &&& ~~~ env.act)
  let bad := env.jumpCauses (env.jumpTry g) ++ env.restCauses rest
  if bad.isEmpty then
    let js ← env.each (fun l _ => env.jumpTry g l)
    let word := wordsOf 2 (env.is.next + 2 ^ 56 * pf)
    let s2 := s.updWave env.w.id (fun w => js.foldl (fun w j => w.land j.1 j.2.slot word) w)
    env.replace s2 (formEntries env (js.map (fun j => ⟨j.1, j.2.pc, j.2.depth, j.2.prio⟩) ++
      rest.map (fun l => ⟨l, env.is.next, env.e.depth, pf⟩))) []
  else .error (raisedOf bad)

/-- A 64-bit address read as a branch target: bits [63:56] must be 0 (R375). -/
def targetTry (a : Nat) : Try Nat := if a < 2 ^ 56 then .ok a else .error cTarget

def execBra (f : F3) (s : State) : Host.Outcome State Fault Refusal :=
  s.run f.braForm (fun env => env.branch f.w.pf (fun _ _ =>
    .ok { pc := f.target env.is.pc, depth := env.e.depth, prio := f.w.pt }))

def execBrx (f : F2) (s : State) : Host.Outcome State Fault Refusal :=
  s.run f.brxForm (fun env => env.branch f.pf (fun _ lane => do
    let t ← targetTry (← f.brxForm.a.val env.w lane)
    .ok { pc := t, depth := env.e.depth, prio := f.pt }))

/-- The callee's depth (R188, R376). -/
def deeper (env : Env) : Try Nat := if env.e.depth ≥ 255 then .error cIndex else .ok (env.e.depth + 1)

def execCall (f : F3) (s : State) : Host.Outcome State Fault Refusal :=
  s.run f.callForm (fun env => env.branch f.w.pf (fun _ lane =>
    (both (both (deeper env) (f.callForm.d.slot env.w.regs lane))
      ((env.headerTry ⟨f.target env.is.pc, 0, 0, .discard⟩))).map
      (fun x => { pc := x.2.pc, depth := x.1.1, prio := f.w.pt, slot := x.1.2 })))

def execCallx (f : F2) (s : State) : Host.Outcome State Fault Refusal :=
  s.run f.callxForm (fun env => env.branch f.pf (fun _ lane =>
    (both (both (deeper env) (f.callxForm.d.slot env.w.regs lane))
      (match f.callxForm.a.val env.w lane with
        | .error c => .error c
        | .ok a => match targetTry a with
          | .error c => .error c
          | .ok t => env.headerTry ⟨t, 0, 0, .discard⟩)).map
      (fun x => { pc := x.2.pc, depth := x.1.1, prio := f.pt, slot := x.1.2 })))

def execRet (f : F2) (s : State) : Host.Outcome State Fault Refusal :=
  s.run f.retForm (fun env => env.branch f.pf (fun _ lane => do
    if env.e.depth = 0 then .error cTarget
    else
      let a ← f.retForm.a.val env.w lane
      .ok { pc := a % 2 ^ 56, depth := env.e.depth - 1, prio := a / 2 ^ 56 }))

/-! ## exit (R127, R379) -/

/-- The active lanes' threads end; the others fall through. -/
def Env.exit (env : Env) (s : State) : Res :=
  (env.go (env.falls (env.e.mask &&& ~~~ env.act)) s).map
    (fun s => (s.endLanes env.w.id env.act).settleWave env.w.id)

def execExit (f : F2) (s : State) : Host.Outcome State Fault Refusal :=
  s.run f.exitForm (fun env => env.exit)

/-! ## Register pools (R203 to R205) -/

/-- Registers free in the wave's pool, and the claims before it. -/
def State.poolOf (s : State) (w : Wave) : Pool :=
  match w.gang.bind s.gang? with
  | some g =>
    match g.group? w.group with
    | some r => (r.pools.find? (fun p => p.core == w.core && p.partition == w.partition)).getD
        { core := w.core, partition := w.partition }
    | none => { core := w.core, partition := w.partition }
  | none => { core := w.core, partition := w.partition, free := w.spare }

/-- The pool of a wave is changed. -/
def State.updPool (s : State) (w : Wave) (f : Pool → Pool) : State :=
  match w.gang with
  | some g => s.updGroup g w.group (fun r =>
      if r.pools.any (fun p => p.core == w.core && p.partition == w.partition) then
        { r with pools := r.pools.map (fun (p : Pool) =>
            if p.core = w.core ∧ p.partition = w.partition then f p else p) }
      else { r with pools := r.pools ++ [f { core := w.core, partition := w.partition }] })
  | none => s.updWave w.id (fun x => { x with spare := (f { core := w.core, partition := w.partition, free := x.spare }).free })

/-- Registers enter a wave, each reading 0 (R204). -/
def Wave.grow (w : Wave) (n : Nat) : Wave :=
  { w with
    regs := w.regs + n
    latch := none, abufs := []
    lanes := w.lanes.map (fun l => { l with v := l.v ++ List.replicate n {} }) }

/-- The n highest registers leave a wave with their values and marks. -/
def Wave.shrink (w : Wave) (n : Nat) : Wave :=
  { w with
    regs := w.regs - n
    latch := none, abufs := []
    lanes := w.lanes.map (fun l => { l with v := l.v.take (w.regs - n) }) }

def execRgive (f : F2) (s : State) : Host.Outcome State Fault Refusal :=
  s.run f.rgiveForm (fun env s =>
    if env.w.regs < f.cN + 8 then .error (env.raise cIllegal)
    else env.fall ((s.updWave env.w.id (fun w => w.shrink f.cN)).updPool env.w (fun p => { p with free := p.free + f.cN })))

/-- A claim is met at once when its pool can and no earlier claim waits; else the entry waits in line. A task wave's own
pool that cannot meet it never will (log 23). -/
def execRclaim (f : F2) (s : State) : Host.Outcome State Fault Refusal :=
  s.run f.poolForm (fun env s =>
    let p := s.poolOf env.w
    if env.w.regs + f.cN + 2 * (env.w.maxEntries - 8) > 192 then .error (env.raise cIllegal)
    else if p.claims.isEmpty && decide (p.free ≥ f.cN) then
      env.fall ((s.updWave env.w.id (fun w => w.grow f.cN)).updPool env.w (fun p => { p with free := p.free - f.cN }))
    else if env.w.gang.isNone then .error (env.raise cClaim)
    else if env.is.last && !env.headers.contains env.is.next then
      .error (raisedOf (env.badTargets (env.falls env.e.mask)))
    else
      let claim : Claim := { wave := env.w.id, pc := env.is.pc, depth := env.is.depth, n := f.cN }
      let s := if p.claims.contains claim then s
        else s.updPool env.w (fun p => { p with claims := p.claims ++ [claim] })
      (env.stay (.rclaim f.cN) s).map (fun s => s.updWave env.w.id (fun w => { w with latch := none, abufs := [] })))

/-! ## repack (R197 to R201, R381) -/

def Wave.queuesEmpty (w : Wave) : Bool := w.lanes.all (fun l => l.q.all (fun q => q.isEmpty))

/-- The entry arrives with every thread's key; REPACK_MOVE sorts them. -/
def execRepack (f : F2) (s : State) : Host.Outcome State Fault Refusal :=
  s.run f.repackForm (fun env s => do
    let ks ← env.each (fun _ lane => f.repackForm.a.val env.w lane)
    if !env.headers.contains env.is.next then .error (raisedOf (env.badTargets (env.falls env.e.mask)))
    else if !env.w.queuesEmpty then .error (env.raise cIllegal)
    else
      let keys := (lanesOf env.e.mask).map (fun l => (l, (lookupBy l ks).getD 0xFFFFFFFF))
      let s2 ← env.stay (.repack keys) s
      .ok (s2.updWave env.w.id (fun w => { w with latch := none, abufs := [] })))

end Sys2Proof.Machine
end

