-- ==== Sys2Proof/Machine/Tasks.lean ====
section
/-! DEFINITION. Task instructions, opcodes 0xB0 to 0xB6 (R124 to R129, R138, R143, R145, R462 to R468). -/

namespace Sys2Proof
open Machine

/-- n of the four task forms, in MOD [12:8]. -/
def F2.nCarried (f : F2) : Nat := f.modAt 8 5

/-- What the four task forms share: base in D, vC to v(C + n - 1) and `more` behind them. -/
def F2.taskForm (f : F2) (more : Nat) (ok : Bool) : Form :=
  { f.form 4 (f.tyN == 0 && f.modAt 13 3 == 0 && decide (f.nCarried ≤ 16) && decide (f.dN < 192) && decide (f.cN < 0xC0) &&
      ok) with ranges := [(f.cN, f.nCarried + more)], notPure := true }

def F2.spawnForm (f : F2) : Form :=
  { f.taskForm 0 (f.nCarried != 0 || f.c == 0) with
    a := .sel f.aN 2, b := .sel f.bN 2, need := .release, unit := .tasks }
def F2.spawnpForm (f : F2) : Form :=
  { f.taskForm 8 true with a := .sel f.aN 2, b := .sel f.bN 2, need := .release, unit := .tasks }
def F2.joinForm (f : F2) : Form :=
  { f.taskForm 0 (f.b == 0) with a := .sel f.aN 2, resume := true, unit := .park, region := .illegalOpen }
def F2.parkForm (f : F2) : Form :=
  { f.taskForm 0 (f.a == 0 && !f.mod.getLsbD 8 && decide (f.bN < 64) && f.b != 0) with
    resume := true, unit := .park, region := .illegalOpen }

def F2.reuInvForm (f : F2) : Form :=
  { f.form 4 (f.tyN == 0 && f.d == 0 && f.b == 0 && f.c == 0 && f.mod.toNat % 256 == 0) with
    a := .sel f.aN 2, region := .illegal, notPure := true }
def F2.reuStatForm (f : F2) : Form :=
  { f.form 4 (f.tyN == 0 && f.a == 0 && f.b == 0 && f.mod == 0 && decide (f.cN < 10)) with
    ctrs := [.ld], writes := f.dN != 0xC9, d := .sel f.dN 2 false, notPure := true }

end Sys2Proof

namespace Sys2Proof.Machine

/-! ## The kernel a wave runs (R79, R128) -/

/-- The scene a wave of records runs under (R170): that of its records, else one whose code it runs. -/
def State.waveScene (s : State) (w : Wave) : Option Scene :=
  let all := s.scenes ++ s.oldScenes
  match (w.lanes.findSome? (fun l => l.rec_)).bind (fun r => all.find? (fun c => c.ctx == w.ctx && c.addr == r.scene)) with
  | some c => some c
  | none => all.find? (fun c => c.ctx == w.ctx && c.shadeHeaders == w.headers)

/-- Its launch's kernel header, or its scene's SHADEK. -/
def State.kernelOf (s : State) (w : Wave) : Option KHdr :=
  match s.launch? w.launch with
  | some l => some l.hdr
  | none => (s.waveScene w).map (fun c => c.shade)

def State.kernelRegs (s : State) (w : Wave) : Nat := ((s.kernelOf w).map (fun h => h.regs)).getD w.regs

/-- LAUNCH and GANG of records that a lane's thread makes (R124). -/
def Env.owner (env : Env) (lane : Lane) : Nat × Nat :=
  match lane.rec_ with
  | some r => (r.launch, r.gang)
  | none => (env.w.launch % 65536, (env.gang.map (fun g => g.index)).getD noGang)

/-- A record of a lane: the carried registers with their marks (R120, R462). -/
def Env.build (env : Env) (f : F2) (lane : Lane) (kind pc join depth : Nat) (tail : List Word) : Rec :=
  let n := f.nCarried
  let ws := lane.main f.cN n
  let (launch, gang) := env.owner lane
  { pc := pc, join := join, tenant := env.cx.tenant, ctx := env.cx.id, kind := kind, nreg := n, dbase := f.dN,
    depth := depth, launch := launch
    poison := BitVec.ofNat 16 (((indexed ws).map (fun x => if x.2.mark then 2 ^ x.1 else 0)).foldl (· + ·) 0)
    gang := gang, regs := slice 0 (ws.map (fun w => w.val)) 0 16, tail := slice 0 tail 0 8
    scene := (lane.rec_.map (fun r => r.scene)).getD 0 }

/-! ## Spawning (R124, R462, R463) -/

/-- What a lane's spawn comes to: a record, or the pages it parks for. -/
inductive SpawnTo where
  | go (r : Rec)
  | wait (vas : List Nat)
  deriving DecidableEq, Repr

/-- Do two tiles share a byte? -/
def tilesMeet (x y : Nat × Nat) : Bool := decide (0 < x.2) && decide (0 < y.2) && rangesMeet x.1 x.2 y.1 y.2

/-- The pure block of a lane (R122, R463), its own rules. -/
def blockTry (r : Rec) : Try Unit :=
  let w (i : Nat) : Nat := (r.tail.getD i 0).toNat
  let res := r.res
  let bad := decide (r.nargs > 4) || decide (w 7 ≥ 256) ||
    (List.range 4).any (fun i => decide (r.nargs ≤ i) && w (2 + i) != 0) ||
    res.2 == 0 || decide (res.2 > 131072) || res.1 / pageBytes != (res.1 + res.2 - 1) / pageBytes ||
    r.args.any (fun t => tilesMeet t res)
  match leastCause [if r.tbase % 256 = 0 then none else some cAlign, if r.tbase / 2 ^ 56 = 0 then none else some cTranslation,
      if bad then some cIndex else none] with
  | some c => .error c
  | none => .ok ()

/-- The pages of a pure spawn's tiles, as they are mapped. -/
def State.tileLooks (s : State) (cx : Ctx) (r : Rec) : List (Nat × Xlat) :=
  let look (k : Access) (t : Nat × Nat) : List (Nat × Xlat) := (tilePages t).map (fun p => (p * pageBytes, s.xlate cx k (p * pageBytes)))
  (r.args.map (look .load)).flatten ++ look .store r.res

/-- The pages of a pure spawn's tiles: those that are not there, or the cause (R463). -/
def State.tileTry (s : State) (cx : Ctx) (r : Rec) : Try (List Nat) :=
  let all := s.tileLooks cx r
  match leastCause (all.map (fun x => match x.2 with | .cause c => some c | _ => none)) with
  | some c => .error c
  | none => .ok (all.filterMap (fun x => match x.2 with | .invalid => some x.1 | _ => none))

/-- The join word a spawn names: none waits, or the page it parks for (R125). -/
def State.joinTry (s : State) (cx : Ctx) (va : Nat) : Try (List Nat) :=
  if va = 0 then .ok []
  else match s.xlate cx .store va with
    | .cause c => .error c
    | .invalid => .ok [va]
    | .ok (.home pa) _ _ => if anyMark [s.current pa, s.current (pa + 4)] then .error cPoison else .ok []
    | .ok _ _ _ => .error cPermission

/-- A lane's spawn, checked (R312, R462). -/
def State.spawnTry (s : State) (env : Env) (f : F2) (F : Form) (pure_ : Bool) (lane : Lane) : Try SpawnTo :=
  match both (F.a.val env.w lane) (F.b.val env.w lane) with
  | .error c => .error c
  | .ok (a, b) =>
    let block := lane.main (f.cN + f.nCarried) (if pure_ then 8 else 0)
    let r := env.build f lane (if pure_ then 1 else 0) (a % 2 ^ 56) b 0 (block.map (fun w => w.val))
    let checks : Try (List (List Nat)) := allTry [
      if env.headers.contains a then .ok [] else .error cTarget,
      if b % 8 = 0 then .ok [] else .error cAlign,
      if f.dN + f.nCarried ≤ s.kernelRegs env.w then .ok [] else .error cIndex,
      s.joinTry env.cx b,
      if anyMark block then .error cPoison else .ok [],
      if pure_ then (both (blockTry r) (s.tileTry env.cx r)).map (fun x => x.2) else .ok []]
    checks.map (fun vs => if vs.flatten.isEmpty then .go r else .wait vs.flatten)

/-- The address at which a lane's spawn meets a cause of memory or waits (R317): its join word's, else a tile's. -/
def State.spawnAddr (s : State) (env : Env) (f : F2) (F : Form) (pure_ : Bool) (lane : Lane) : Option Nat :=
  let clear (b : Nat) : Bool := b % 8 == 0 && (match s.joinTry env.cx b with | .ok [] => true | _ => false)
  let bound : Bool := match s.spawnTry env f F pure_ lane with | .error c => c == cIndex | .ok _ => false
  match both (F.a.val env.w lane) (F.b.val env.w lane) with
  | .ok (_, b) =>
    if bound then none
    else if !clear b then some b
    else
      let r := env.build f lane 1 0 b 0 ((lane.main (f.cN + f.nCarried) 8).map (fun w => w.val))
      some (((s.tileLooks env.cx r).find? (fun x => match x.2 with | .ok _ _ _ => false | _ => true)).elim r.tbase (fun x => x.1))
  | .error _ => none

/-- A record that was checked goes its way: now, or at the commit (R129). -/
def State.spawnNow (s : State) (env : Env) (l : Nat) (r : Rec) : State :=
  match env.gang, env.buffering with
  | some g, true =>
    s.deferOp g.id { key := env.key l, core := env.w.core, va := 0, w0 := env.is.w0, w1 := env.is.w1, body := .spawn r }
      5 0 0 0 r.bytes
  | _, _ =>
    let s := if r.join = 0 then s else match s.localPa env.cx .store r.join with
      | some pa => s.joinInc env.cx.id pa
      | none => s
    s.spawnRec env.cx env.w.core r

def Env.spawn (env : Env) (f : F2) (F : Form) (pure_ : Bool) (s : State) : Res := do
  let flagsOk := match s.kernelOf env.w with | some h => bitOf h.flags 1 | none => false
  if pure_ && !flagsOk then .error (env.raise cIllegal)
  else
    let rs ← env.eachAt (fun _ lane => s.spawnAddr env f F pure_ lane) (fun x => match x with | .wait _ => true | .go _ => false)
      (fun _ lane => s.spawnTry env f F pure_ lane)
    let waits := rs.filterMap (fun x => match x.2 with | .wait vas => some (x.1, vas) | .go _ => none)
    let s := rs.foldl (fun s x => match x.2 with
      | .go r => s.spawnNow env x.1 r
      | .wait _ => s) s
    env.parkAnd 4 { accs := [], parked := (waits.map (fun x => x.2.map (fun va => (x.1, va)))).flatten } s

def execTskSpawn (f : F2) (s : State) : Host.Outcome State Fault Refusal :=
  s.run f.spawnForm (fun env => env.spawn f f.spawnForm false)

def execTskSpawnp (f : F2) (s : State) : Host.Outcome State Fault Refusal :=
  s.run f.spawnpForm (fun env => env.spawn f f.spawnpForm true)

/-! ## Parking (R126, R464, R465) -/

/-- The thread of a lane leaves as a record in a pool slot: its pending writes go, its task goes with the record. -/
def State.parkThread (s : State) (env : Env) (l slot : Nat) (r : Rec) : State :=
  let s := s.putRec env.cx (env.cx.poolVa slot) r
  let s := if (env.w.lane l).rec_.isSome then s else s.await r
  (s.discardPending env.w.id (laneBit l)).updWave env.w.id (fun w =>
    w.updLane l (fun lane => { lane with rec_ := none, pure_ := none }))

/-- A kind-2 record of a lane. -/
def Env.parked (env : Env) (f : F2) (l waiton next req : Nat) : Rec :=
  let lane := env.w.lane l
  env.build f lane 2 env.is.next ((lane.rec_.map (fun r => r.join)).getD 0) env.e.depth
    (wordsOfNat waiton next req)
where
  /-- The wait block's words. -/
  wordsOfNat (waiton next req : Nat) : List Word :=
    [BitVec.ofNat 32 waiton, BitVec.ofNat 32 (waiton / 2 ^ 32), BitVec.ofNat 32 next, BitVec.ofNat 32 req, 0, 0, 0, 0]

/-- Lanes that stay fall through; a wave all of whose lanes left is settled. -/
def Env.leave (env : Env) (gone : Mask) (s : State) : Res :=
  (env.go (env.falls (env.e.mask &&& ~~~ gone)) s).map (fun s => s.settleWave env.w.id)

/-- The fall-through is where records resume: it must be a header. -/
def Env.resumeOk (env : Env) : Except Raised Unit :=
  if env.headers.contains env.is.next then .ok () else .error (raisedOf (env.badTargets (env.falls env.e.mask)))

def Env.baseFits (env : Env) (s : State) (f : F2) : Try Unit :=
  if f.dN + f.nCarried ≤ s.kernelRegs env.w then .ok () else .error cIndex

/-- A lane's join word: where it lies, or the page it parks for. -/
inductive JoinTo where
  | at_ (va pa : Nat)
  | wait (va : Nat)
  deriving DecidableEq, Repr

def State.tskJoinTry (s : State) (env : Env) (f : F2) (F : Form) (lane : Lane) : Try JoinTo :=
  match F.a.val env.w lane with
  | .error c => .error c
  | .ok a =>
    let x : Try JoinTo :=
      match s.xlate env.cx .store a with
      | .cause c => .error c
      | .invalid => .ok (.wait a)
      | .ok (.home pa) _ _ =>
        if anyMark [s.current (pa / 4 * 4), s.current (pa / 4 * 4 + 4)] then .error cPoison else .ok (.at_ a pa)
      | .ok _ _ _ => .error cPermission
    (both (both (if a % 8 = 0 then .ok () else .error cAlign) (env.baseFits s f)) x).map (fun r => r.2)

/-- The lanes of a join in turn: those whose count is 0 go on, the others park on the word. -/
def Env.joinLanes (env : Env) (f : F2) : List (Nat × Nat × Nat) → State → Mask → State × Mask
  | [], s, gone => (s, gone)
  | (l, va, pa) :: rest, s, gone =>
    let w := ofBytes ((s.currentBytes pa 8).map (fun b => b.1))
    if w % 2 ^ 32 = 0 then Env.joinLanes env f rest (s.acquire env.w.core) gone
    else
      let (slot, s) := s.poolTake env.cx
      let s := s.parkThread env l slot (env.parked f l va (w / 2 ^ 32) 0)
      let s := s.writeMem (some env.cx.id) (putsOf (pa + 4) ((toBytes 4 slot).map (fun b => (b, false))))
      Env.joinLanes env f rest s (gone ||| laneBit l)

def execTskJoin (f : F2) (s : State) : Host.Outcome State Fault Refusal :=
  s.run f.joinForm (fun env s => do
    let rs ← env.eachAt (fun _ lane => match s.tskJoinTry env f f.joinForm lane, f.joinForm.a.val env.w lane with
        | .error c, .ok a => if c = cIndex then none else some a
        | _, .ok a => some a
        | _, _ => none)
      (fun x => match x with | .wait _ => true | .at_ _ _ => false) (fun _ lane => s.tskJoinTry env f f.joinForm lane)
    let _ ← env.resumeOk
    let (s, gone) := env.joinLanes f (rs.filterMap (fun x => match x.2 with
      | .at_ va pa => some (x.1, va, pa)
      | .wait _ => none)) s 0
    let waits := rs.filterMap (fun x => match x.2 with | .wait va => some (x.1, va) | _ => none)
    if waits.isEmpty then env.leave gone s
    else
      let pages := waits.foldl (fun ps x => addSet (x.2 / pageBytes) ps) []
      let s := pages.foldl (fun s p => s.requestPage env.w.ctx 4 (s.gangIndex env.w.gang) (p * pageBytes)) s
      let rest : Env := { env with e := { env.e with mask := env.e.mask &&& ~~~ gone } }
      rest.parkLanes waits s)

/-- The counters a mask names (R454, R460). -/
def maskCtrs (mask : Nat) : List Ctr :=
  ((indexed [Ctr.ld, .st, .cp, .mx, .ry, .co]).filter (fun x => bitOf mask x.1)).map (fun x => x.2)

def execTskPark (f : F2) (s : State) : Host.Outcome State Fault Refusal :=
  s.run f.parkForm (fun env s => do
    let _ ← env.each (fun _ _ => env.baseFits s f)
    let _ ← env.resumeOk
    let r := env.cx.nextReq
    let set := (s.ops.filter (fun o => o.wave == env.w.id && (match o.ctr with
      | some c => (maskCtrs f.bN).contains c
      | none => false))).map (fun o => o.id)
    let s := s.updCtx env.cx.id (fun c => { c with nextReq := if r + 1 ≥ 2 ^ 32 then 1 else r + 1 })
    let (s, slots) := env.lanes.foldl (fun (x : State × List Nat) l =>
      let (slot, s) := x.1.poolTake env.cx
      (s.parkThread env l slot (env.parked f l 0 0 r), x.2 ++ [slot])) (s, [])
    let s := s.updCtx env.cx.id (fun c => { c with parked := c.parked ++ [{ req := r, ops := set, slots := slots }] })
    (env.leave env.act s).map (fun s => s.releaseParks env.cx.id env.w.core))

/-- The end of a task (R127, R466). -/
def execTskExit (f : F2) (s : State) : Host.Outcome State Fault Refusal :=
  s.run f.exitForm (fun env s => if env.w.task then env.exit s else .error (env.raise cIllegal))

/-! ## The reuse table (R143, R467, R468) -/

/-- Entries of a kind end: pending ones are marked, valid ones go and, for a context, count in INVAL. Hits whose copies
run are dropped. -/
def State.invalidateReuse (s : State) (by_ : Option Nat) (mine : Reuse → Bool) : State :=
  let gone := s.reuse.filter (fun r => mine r && r.st == 1)
  let spawns := s.spawns.map (fun p => match p.hit with
    | some (d, st, w) => if gone.any (fun r => r.die == d && r.set == st && r.way == w) then { p with dropHit := true } else p
    | none => p)
  let s := { s with
    spawns := spawns
    reuse := (s.reuse.map (fun r => if mine r && r.st == 2 then { r with st := 3 } else r)).filter
      (fun r => !(mine r && r.st == 1)) }
  match by_ with
  | some c => s.countReuse c (fun n => { n with inval := (n.inval + gone.length) % 2 ^ 64 })
  | none => s

def execReuInv (f : F2) (s : State) : Host.Outcome State Fault Refusal :=
  s.run f.reuInvForm (fun env s => do
    let a ← (match f.reuInvForm.a.val env.w (env.w.lane env.first) with
      | .ok a => .ok a
      | .error c => .error (env.raise c) : Except Raised Nat)
    let page := s.localPa env.cx .load a
    env.fall (s.invalidateReuse (some env.cx.id) (fun r => r.tenant == env.cx.tenant &&
      (a == 0 || (match page with
        | some pa => r.watch.contains (pa / pageBytes)
        | none => false)))))

/-- The counters of R145, by index. -/
def ReuseCtrs.get (n : ReuseCtrs) (i : Nat) : Nat :=
  [n.lookup, n.hit, n.miss, n.insert, n.drop, n.noway, n.inval, n.purity, n.joinUf, n.badRec].getD i 0

/-- A value every active lane's D receives when a counter falls (R461). -/
def Env.deliverTo (env : Env) (f : F2) (F : Form) (words : Nat) (vals : List (Nat × List PWord)) (s : State) : Res :=
  env.fall (s.startOp env.w env.act (some .ld) f.la.toNat F.writes
    (.deliver (F.dstOf env.w env.lanes words) vals)).2

def execReuStat (f : F2) (s : State) : Host.Outcome State Fault Refusal :=
  s.run f.reuStatForm (fun env s => do
    let _ ← env.each (fun _ lane => f.reuStatForm.d.slot env.w.regs lane)
    let n := ((s.ctx? env.cx.id).map (fun c => c.reuse.get f.cN)).getD 0
    env.deliverTo f f.reuStatForm 2 (env.lanes.map (fun l => (l, wordsOf 2 n))) s)

/-! ## Room in the park pool (R134) -/

/-- Free slots behind one of the chain, up to n. -/
def State.chainFree (s : State) (c : Ctx) : Nat → Nat → Nat
  | 0, _ => 0
  | n + 1, slot => if slot = 0 then 0 else 1 + s.chainFree c n (s.readVaNat c (c.poolVa slot + 0x68) 4)

/-- Has the pool n free slots? -/
def State.poolRoom (s : State) (c : Ctx) (n : Nat) : Bool :=
  decide (n ≤ c.ringSlots + 1 - s.areaGet c 0x18 4 + s.chainFree c n (s.areaGet c 0x04 4))

/-- Lanes of a join or a park that would park now. -/
def Env.parksNow (env : Env) (F : Form) (s : State) : Nat :=
  (env.lanes.filter (fun l => match F.a with
    | .none => true
    | a => match a.val env.w (env.w.lane l) with
      | .ok va => (match s.localPa env.cx .store va with
        | some pa => ofBytes ((s.currentBytes pa 4).map (fun b => b.1)) != 0
        | none => false)
      | .error _ => false)).length

end Sys2Proof.Machine
end

