-- ==== Sys2Proof/Machine/Launch.lean ====
section
/-! DEFINITION. Page tables as the device writes them (R259 to R262, R207), kernel headers and launch records (R75 to
R81, R239), and krn.launch (R382). -/

namespace Sys2Proof.Machine

/-! ## Page-table nodes (R259) -/

/-- The node below an entry, taken from the free pool when there is none. -/
def State.nodeBelow (s : State) (node idx : Nat) : Option (Nat × State) :=
  let at_ := node + 8 * idx
  let e := readNat s.mem at_ 8
  if bitOf e 0 then some (field e 16 36 * 65536, s)
  else match s.takePage with
    | none => none
    | some (p, s) => some (p * pageBytes, s.layHome (putsOf at_ ((toBytes 8 (p * pageBytes + 1)).map (fun b => (b, false)))))

/-- The level-3 entry's address, its nodes taken as needed. -/
def State.leafAt (s : State) (root va : Nat) : Option (Nat × State) :=
  match s.nodeBelow root (pteIndex 1 va) with
  | none => none
  | some (n2, s) => (s.nodeBelow n2 (pteIndex 2 va)).map (fun x => (x.1 + 8 * pteIndex 3 va, x.2))

/-- A level-3 entry is written. -/
def State.putPte (s : State) (root va e : Nat) : Option State :=
  (s.leafAt root va).map (fun x => x.2.layHome (putsOf x.1 ((toBytes 8 e).map (fun b => (b, false)))))

/-- Has a node no entry left? -/
def State.nodeEmpty (s : State) (node : Nat) : Bool := !s.mem.any (fun c => node ≤ c.1 && c.1 < node + 65536)

/-- The nodes on the way to an address that exist: level 2, level 3. -/
def State.nodesOf (s : State) (root va : Nat) : Option Nat × Option Nat :=
  let e1 := readNat s.mem (root + 8 * pteIndex 1 va) 8
  if !bitOf e1 0 then (none, none)
  else
    let n2 := field e1 16 36 * 65536
    let e2 := readNat s.mem (n2 + 8 * pteIndex 2 va) 8
    (some n2, if bitOf e2 0 then some (field e2 16 36 * 65536) else none)

def State.zeroAt (s : State) (pa n : Nat) : State := { s with mem := clearBytes s.mem pa n }

/-- A level-3 entry is cleared, and nodes that are left empty go to the Groom. -/
def State.clearPte (s : State) (root va : Nat) : State :=
  match s.nodesOf root va with
  | (some n2, some n3) =>
    let s := s.zeroAt (n3 + 8 * pteIndex 3 va) 8
    if !s.nodeEmpty n3 then s
    else
      let s := (s.zeroAt (n2 + 8 * pteIndex 2 va) 8).freePage (n3 / pageBytes)
      if !s.nodeEmpty n2 then s
      else (s.zeroAt (root + 8 * pteIndex 1 va) 8).freePage (n2 / pageBytes)
  | _ => s

/-- A level-3 entry's fields (R261). -/
def pteOf (tenant ppn size : Nat) (pt x w : Bool) : Nat :=
  2 ^ 48 * tenant + 2 ^ 13 * ppn + 2 ^ 11 * size + (if pt then 2 ^ 9 else 0) + (if x then 2 ^ 7 else 0) +
    (if w then 2 ^ 6 else 0) + 1

/-! ## What a context maps (R68, R70) -/

/-- The valid entries of a node that are not poisoned: index and entry. -/
def State.nodeEntries (s : State) (node : Nat) : List (Nat × Nat) :=
  (s.mem.filter (fun c => decide (node ≤ c.1) && decide (c.1 < node + 65536) && c.1 % 8 == 0 && bitOf c.2.toNat 0 && !s.unitBad c.1)).map
    (fun c => ((c.1 - node) / 8, readNat s.mem c.1 8))

/-- The node an entry of level 1 or 2 names. -/
def nextNode (e : Nat) : Nat := field e 16 36 * 65536

/-- The nodes of a tree: the root, and with their first virtual address those of level 2 and of level 3. -/
def State.nodes2 (s : State) (root : Nat) : List (Nat × Nat) :=
  (s.nodeEntries root).map (fun e => (e.1 * 2 ^ 43, nextNode e.2))
def State.nodes3 (s : State) (root : Nat) : List (Nat × Nat) :=
  ((s.nodes2 root).map (fun n => (s.nodeEntries n.2).map (fun e => (n.1 + e.1 * 2 ^ 30, nextNode e.2)))).flatten

/-- Level-3 entries, each with its virtual address. -/
def State.leaves (s : State) (root : Nat) : List (Nat × Nat) :=
  ((s.nodes3 root).map (fun n => (s.nodeEntries n.2).map (fun e => (n.1 + e.1 * pageBytes, e.2)))).flatten

/-- The local page that an entry maps at an address. -/
def leafPage? (va e : Nat) : Option Nat := if pteR e then none else some (ptePa e va / pageBytes)

/-- The local pages a context maps. -/
def State.pagesOf (s : State) (cx : Ctx) : List Nat := (s.leaves cx.root).filterMap (fun l => leafPage? l.1 l.2)

/-- Those that live contexts map. -/
def State.livePages (s : State) (mine : Ctx → Bool) : List Nat := ((s.ctxs.filter mine).map s.pagesOf).flatten

/-- Pages that nothing maps any more go to the Groom. -/
def State.freeUnmapped (s : State) (pages : List Nat) : State :=
  let live := s.livePages (fun _ => true)
  ((pages.foldl (fun l p => addSet p l) []).filter (fun p => !live.contains p)).foldl (fun s p => s.freePage p) s

/-! ## The retained record (R207; log 8) -/

/-- The highest page of the address space, from one on, that nothing maps and that lies outside every range MEM_MAP has
written. -/
def State.spareVa (s : State) (cx : Ctx) : Nat → Nat → Option Nat
  | 0, _ => none
  | fuel + 1, page =>
    match cx.ranges.find? (fun r => decide (r.1 ≤ page * pageBytes) && decide (page * pageBytes < r.1 + r.2)) with
    | some r => if r.1 = 0 then none else s.spareVa cx fuel (r.1 / pageBytes - 1)
    | none =>
      match s.walk cx.root (page * pageBytes) with
      | .invalid => some (page * pageBytes)
      | _ => s.spareVa cx fuel (page - 1)

/-- The record's copy in a read-only page of the context: its address and page. -/
def State.retain (s : State) (cx : Ctx) (bytes : List Byte) : Option (Nat × Nat × State) :=
  match s.spareVa cx (s.launches.length + s.pool.used.length + cx.ranges.length + 1) (2 ^ 39 - 1) with
  | none => none
  | some va =>
    match s.takePage with
    | none => none
    | some (p, s) =>
      match (s.layHome (putsOf (p * pageBytes) (bytes.map (fun b => (b, false))))).putPte cx.root va
          (pteOf cx.tenant p 0 false false false) with
      | none => none
      | some s => some (va, p, s)

/-- The page is unmapped when the launch completes; what watches it hears (R141). -/
def State.unretain (s : State) (l : Launch) : State :=
  match s.ctx? l.ctx with
  | some cx =>
    (match s.walk cx.root l.recordVa with
      | .found e => if leafPage? l.recordVa e = some l.recordPage then
          ((s.clearPte cx.root l.recordVa).unwatch none l.recordPage).freeUnmapped [l.recordPage] else s
      | _ => s)
  | none => s

/-! ## Kernel headers (R79, R80) -/

def khdrOf (b : List Byte) : KHdr :=
  { flags := numAt b 0x06 2, entry := numAt b 0x08 8, codeSize := numAt b 0x10 4, group := numAt b 0x14 2,
    gang := numAt b 0x16 1, frontier := numAt b 0x17 1, regs := numAt b 0x18 1, scalars := numAt b 0x19 1,
    preload := (slice 0 b 0x1A 1).getD 0 0, barriers := numAt b 0x1B 1, spBanks := numAt b 0x1C 1,
    fifoBanks := numAt b 0x1D 1
    roles := (List.range (min 8 (numAt b 0x1E 1))).map (fun i => (numAt b (0x29 + 2 * i) 1, numAt b (0x28 + 2 * i) 1))
    regionLog := numAt b 0x20 4 }

/-- The first byte of a range that is not 0, as a failing offset. -/
def nonzeroIn (b : List Byte) (lo n : Nat) : List (Nat × Nat) :=
  match (indexed (slice 0 b lo n)).find? (fun x => x.2 != 0) with
  | some x => [(lo + x.1, 4)]
  | none => []

def failIf (bad : Bool) (off status : Nat) : List (Nat × Nat) := if bad then [(off, status)] else []

/-- Failing fields of a kernel header, with the status of each: 0x04 where a reserved bit or the form is wrong, 0x05 where
a value is out of range (log 28). -/
def hdrFails (s : State) (cx : Ctx) (b : List Byte) : List (Nat × Nat) :=
  let h := khdrOf b
  let extra := 2 * (h.frontier - 8)
  let regsOk (r : Nat) : Bool := decide (8 ≤ r) && decide (r ≤ 192) && r % 8 == 0 && decide (r + extra ≤ 192)
  let entryOk := match s.xlate cx .fetch h.entry with | .ok (.home _) _ _ => true | _ => false
  let n := numAt b 0x1E 1
  let sum := (h.roles.map (fun r => r.1)).foldl (· + ·) 0
  failIf (numAt b 0 4 != 0x53584B48) 0x00 4 ++ failIf (numAt b 4 2 != 1) 0x04 4 ++ failIf (decide (h.flags ≥ 8)) 0x06 4 ++
  failIf (bitOf h.flags 2 && !cx.policy.deviceLaunch) 0x06 5 ++
  failIf (h.entry % 4 != 0 || decide (h.entry ≥ 2 ^ 56)) 0x08 4 ++ failIf (!entryOk) 0x08 5 ++
  failIf (h.codeSize == 0 || decide (h.codeSize > 131072)) 0x10 5 ++
  failIf (h.group % 32 != 0 || decide (h.group < 32) || decide (h.group > 4096)) 0x14 5 ++
  failIf (h.gang == 0 || decide (h.gang > 16)) 0x16 5 ++
  failIf (decide (h.frontier < 8) || decide (h.frontier > 32)) 0x17 5 ++ failIf (!regsOk h.regs) 0x18 5 ++
  failIf (decide (h.scalars < 2) || decide (h.scalars > 64)) 0x19 5 ++ failIf (decide (h.preload.toNat ≥ 64)) 0x1A 4 ++
  failIf (decide (h.barriers > 64)) 0x1B 5 ++ failIf (decide (h.spBanks > 28)) 0x1C 5 ++
  failIf (decide (h.spBanks + h.fifoBanks > 28)) 0x1D 5 ++ failIf (n == 0 || decide (n > 8)) 0x1E 5 ++
  nonzeroIn b 0x1F 1 ++
  failIf (decide (h.regionLog > 65535) || (if bitOf h.flags 0 then decide (h.regionLog < h.snapPages + 2) else h.regionLog != 0))
    0x20 5 ++
  nonzeroIn b 0x24 4 ++ failIf (sum != h.group / 32) 0x28 5 ++
  ((indexed h.roles).map (fun r => failIf (!regsOk r.2.2) (0x28 + 2 * r.1) 5)).flatten ++
  nonzeroIn b (0x28 + 2 * min 8 n) (2 * (8 - min 8 n)) ++ nonzeroIn b 0x38 200

/-- Bytes of a range of code, for the header map (R334). -/
def State.codeOf (s : State) (cx : Ctx) (h : KHdr) : List Byte :=
  (s.readVa cx h.entry h.codeSize).map (fun b => b.1)

/-! ## Launch records (R75 to R77, R239) -/

def launchOfBytes (b : List Byte) : LaunchRec :=
  { khdr := numAt b 0 8, args := BitVec.ofNat 64 (numAt b 8 8), gx := numAt b 0x10 4, gy := numAt b 0x14 4,
    gz := numAt b 0x18 4, flags := numAt b 0x1C 2, relaunch := numAt b 0x1E 1, logBase := numAt b 0x20 8,
    exitRec := numAt b 0x28 8, done := numAt b 0x30 8
    slots := (List.range 8).map (fun i => BitVec.ofNat 64 (numAt b (0x40 + 8 * i) 8)), bytes := b }

/-- Failing bytes of a format slot. -/
def slotFails (b : List Byte) (off : Nat) : List (Nat × Nat) :=
  let at_ (i : Nat) : Nat := numAt b (off + i) 1
  let k := at_ 0
  if k > 6 then [(off, 5)]
  else if k = 0 then nonzeroIn b (off + 1) 7
  else
    failIf (if k = 5 then decide (at_ 1 < 2) || decide (at_ 1 > 8) else at_ 1 != (if k = 6 then 8 else 0)) (off + 1) 5 ++
    failIf (at_ 2 != (if k ≥ 5 then 32 else 0)) (off + 2) 5 ++
    failIf (if k = 5 then decide (at_ 3 > 1) else at_ 3 != (if k = 6 then 1 else 0)) (off + 3) 5 ++
    failIf (decide (at_ 4 ≥ 4)) (off + 4) 4 ++ failIf (decide (at_ 5 ≥ 2)) (off + 5) 4 ++
    failIf (at_ 6 != 0 && (decide (at_ 6 < 8) || decide (at_ 6 > 60))) (off + 6) 5 ++ failIf (at_ 7 != 0) (off + 7) 4

/-- Failing fields of a record that need nothing else. -/
def recFails (b : List Byte) : List (Nat × Nat) :=
  let r := launchOfBytes b
  let dim (g : Nat) : Bool := g == 0 || decide (g > 1048576)
  failIf (r.khdr % 256 != 0 || decide (r.khdr ≥ 2 ^ 56)) 0 4 ++ failIf (dim r.gx) 0x10 5 ++ failIf (dim r.gy) 0x14 5 ++
  failIf (dim r.gz) 0x18 5 ++ failIf (decide (r.gx * r.gy * r.gz ≥ 2 ^ 32)) 0x18 5 ++ failIf (decide (r.flags ≥ 4)) 0x1C 4 ++
  failIf (decide (r.relaunch > 15)) 0x1E 5 ++ nonzeroIn b 0x1F 1 ++
  failIf (r.logBase % pageBytes != 0 || decide (r.logBase ≥ 2 ^ 56)) 0x20 4 ++ failIf (decide (r.exitRec ≥ 2 ^ 56)) 0x28 4 ++
  failIf (r.done % 8 != 0 || decide (r.done ≥ 2 ^ 56)) 0x30 4 ++ nonzeroIn b 0x38 8 ++
  ((List.range 8).map (fun i => slotFails b (0x40 + 8 * i))).flatten

/-- The lowest failing offset: (offset, status). -/
def firstFail : List (Nat × Nat) → Option (Nat × Nat)
  | [] => none
  | x :: t =>
    match firstFail t with
    | none => some x
    | some y => if y.1 < x.1 then some y else some x

/-- The kernel header a record names: its bytes with the offset of each, or the failing offset of its page. -/
def State.hdrBytes (s : State) (cx : Ctx) (khdr : Nat) : Except (Nat × Nat) (List (Byte × Bool)) :=
  match s.localPa cx .load khdr with
  | none => .error (0x100, 5)
  | some _ => .ok (s.readVa cx khdr 256)

/-- Failing fields of a header as it was read: a poisoned 64-byte unit fails at its first byte (R77), and what lies from
there on is unknown. -/
def State.hdrCheck (s : State) (cx : Ctx) (bs : List (Byte × Bool)) : List (Nat × Nat) :=
  let fs := hdrFails s cx (bs.map (fun b => b.1))
  match (List.range 4).find? (fun u => (slice (0, false) bs (64 * u) 64).any (fun b => b.2)) with
  | some u => fs.filter (fun f => decide (f.1 < 64 * u)) ++ [(64 * u, 4)]
  | none => fs

def LaunchRec.groups (r : LaunchRec) : Nat := r.gx * r.gy * r.gz

/-- The areas a record names are mapped writable for their full size (R77). -/
def areaFails (s : State) (cx : Ctx) (r : LaunchRec) : List (Nat × Nat) :=
  failIf (r.exitRec != 0 && !s.rangeWritable cx r.exitRec (r.groups * 128)) 0x28 5 ++
  failIf (r.done != 0 && !s.rangeWritable cx r.done 8) 0x30 5

/-- The log of a launch whose header passes is mapped writable, and so is the task area (R69, R77), which the model wants on
this package (DESIGN CHOICE, log 105). -/
def logFails (s : State) (cx : Ctx) (r : LaunchRec) (h : KHdr) : List (Nat × Nat) :=
  let area := (2 * cx.taskPages + 1) * pageBytes
  failIf (h.regionLog != 0 && !s.rangeWritable cx r.logBase (ceilDiv r.groups h.gang * h.regionLog * pageBytes)) 0x20 5 ++
  failIf (!s.rangeWritable cx cx.taskArea area || !s.rangeHere cx cx.taskArea area) 0x200 5

/-- A launch checked (R77): its header, or the first failing offset and the status. -/
def State.checkLaunch (s : State) (cx : Ctx) (b : List Byte) : Except (Nat × Nat) KHdr :=
  let r := launchOfBytes b
  let fs := recFails b
  if fs.any (fun f => f.1 == 0) then .error (0, 4)
  else match s.hdrBytes cx r.khdr with
    | .error f => .error ((firstFail (fs ++ [f])).getD f)
    | .ok bs =>
      let hs := s.hdrCheck cx bs
      let h := khdrOf (bs.map (fun b => b.1))
      let sized := !fs.any (fun f => decide (0x10 ≤ f.1) && decide (f.1 < 0x1C))
      let all := fs ++ hs.map (fun f => (0x100 + f.1, f.2)) ++ (if sized then areaFails s cx r else []) ++
        (if sized && hs.isEmpty then logFails s cx r h else [])
      match firstFail all with
      | some f => .error f
      | none => .ok h

/-- A launch's number, whose low 16 bits no launch that lives has as its handle. -/
def State.launchId (s : State) : Nat → Nat → Nat
  | 0, n => n
  | fuel + 1, n =>
    if n % 65536 = 65535 ∨ s.launches.any (fun l => l.id % 65536 == n % 65536) then s.launchId fuel (n + 1) else n

/-- A launch is accepted (R75, R77, R81, R133, R135, R207, R334): the status and DETAIL. The spec gives no status for a launch
refused while a die is lost (R8): 0x06 with DETAIL 0; nor for one that finds no free handle, or whose retained record finds no
free page or no spare address: 0x05 with DETAIL 0 (DESIGN CHOICE, log 106). -/
def State.acceptLaunch (s : State) (ctx : Nat) (b : List Byte) (tag : Nat) (device : Bool) : (Nat × Nat) × State :=
  match s.ctx? ctx with
  | none => ((2, 0), s)
  | some cx =>
    if !s.dev.rmap.published || !s.dev.rmap.diesLost.isEmpty then ((6, 0), s)
    else if device && decide (4096 ≤ (s.launches.filter (fun l => l.ctx == ctx && l.device)).length) then ((5, 0), s)
    else match s.checkLaunch cx b with
      | .error (off, status) => ((status, off), s)
      | .ok h =>
        if 65535 ≤ s.launches.length then ((5, 0), s)
        else match s.retain cx b with
        | none => ((5, 0), s)
        | some (va, page, s) =>
          let id := s.launchId (s.launches.length + 2) s.nextId
          let r := launchOfBytes b
          let code := s.codeOf cx h
          let s := if cx.areaReady then s else (s.areaInit cx).updCtx ctx (fun c => { c with areaReady := true })
          ((0, 0), { s with
            nextId := id + 1
            launches := s.launches ++ [{
              id := id, ctx := ctx, tag := tag, device := device, record := r, hdr := h
              headers := headerMap h.entry code, codeHash := sha512t256 code, recordVa := va, recordPage := page
              acceptedAt := s.time, gangs := ceilDiv r.groups h.gang }] })

end Sys2Proof.Machine

namespace Sys2Proof
open Machine

/-- krn.launch (R382). -/
def F2.krnForm (f : F2) : Form :=
  { f.form 4 (f.tyN == 0 && f.b == 0 && f.c == 0 && f.mod.toNat % 256 == 0) with
    ctrs := [.ld], writes := f.dN != 0xC9, a := .sel f.aN 2, d := .sel f.dN 1 false, need := .release, region := .illegal
    notPure := true }

end Sys2Proof

namespace Sys2Proof.Machine

/-- A lane's record as it is read: a load of 128 bytes of a local page. -/
def State.krnTry (s : State) (env : Env) (F : Form) (lane : Lane) : Try LaneTo :=
  match both (F.d.slot env.w.regs lane) (F.a.val env.w lane) with
  | .error c => .error c
  | .ok (_, a) =>
    if a % 128 ≠ 0 then .error cAlign
    else if s.inLog env.cx.id a 128 then .error cPermission
    else match s.xlate env.cx .load a with
      | .cause c => .error c
      | .invalid => .ok .park
      | .ok (.home pa) pt _ => .ok (.go (.home pa) pt)
      | .ok _ _ _ => .error cPermission

/-- A lane's launch: the status it gets. -/
def State.krnOne (s : State) (ctx pa : Nat) : Nat × State :=
  let bs := s.currentBytes pa 128
  match (List.range 2).find? (fun u => (slice (0, false) bs (64 * u) 64).any (fun b => b.2)) with
  | some u => (4 + 2 ^ 16 * (64 * u), s)
  | none =>
    let ((status, detail), s) := s.acceptLaunch ctx (bs.map (fun b => b.1)) 0 true
    (status + 2 ^ 16 * detail, s)

def execKrnLaunch (f : F2) (s : State) : Host.Outcome State Fault Refusal :=
  s.run f.krnForm (fun env s => do
    let allowed := match s.launch? env.w.launch with
      | some l => bitOf l.hdr.flags 2
      | none => (s.waveScene env.w).any (fun c => bitOf c.shade.flags 2)
    if !allowed then .error (env.raise cIllegal)
    else
      let rs ← env.eachAt (fun _ lane => match f.krnForm.d.slot env.w.regs lane, f.krnForm.a.val env.w lane with
          | .ok _, .ok a => some a
          | _, _ => none)
        (fun x => x == .park) (fun _ lane => s.krnTry env f.krnForm lane)
      let addr (l : Nat) : Nat := match f.krnForm.a.val env.w (env.w.lane l) with | .ok a => a | .error _ => 0
      let go := rs.filterMap (fun x => match x.2 with | .go (.home pa) _ => some (x.1, pa) | _ => none)
      let parked := rs.filterMap (fun x => match x.2 with | .park => some (x.1, addr x.1) | _ => none)
      let (vals, s) := go.foldl (fun (acc : List (Nat × List PWord) × State) x =>
        let (v, s) := acc.2.krnOne env.cx.id x.2
        (acc.1 ++ [(x.1, [PWord.ofNat v])], s)) ([], s)
      let s := if go.isEmpty then s
        else (s.startOp env.w (maskOf (go.map (fun x => x.1))) (some .ld) f.la.toNat f.krnForm.writes
          (.deliver (f.krnForm.dstOf env.w (go.map (fun x => x.1)) 1) vals)).2
      env.parkAnd 1 { accs := [], parked := parked } s)

end Sys2Proof.Machine
end

