-- ==== Sys2Proof/Machine/Rays.lean ====
section
/-! DEFINITION. Ray instructions, opcodes 0xC0 to 0xC3 (R469 to R472): registering a scene (R146, R147, R155), appending
to a treelet's queue (R156, R157), verdicts, and the words of a record's tail. -/

namespace Sys2Proof
open Machine

/-- ray.cast and ray.beam: a status word in D, the record in n registers from A, the scene table in B. -/
def F2.emitForm (f : F2) (n : Nat) : Form :=
  { f.form 3 (f.tyN == 0 && f.c == 0 && f.mod == 0 && decide (f.aN < 0xC0)) with
    ctrs := [.ry], writes := f.dN != 0xC9, b := .sel f.bN 2, d := .sel f.dN 1 false, ranges := [(f.aN, n)]
    need := .release, unit := .rays, region := .illegal, notPure := true }

def F2.verdictForm (f : F2) : Form :=
  { f.form 3 (f.tyN == 0 && f.d == 0 && f.b == 0 && f.c == 0 && f.mod.toNat % 256 == 0) with
    a := .sel f.aN 1, region := .illegal, notPure := true }

def F2.rayRdForm (f : F2) : Form :=
  { f.form 3 (f.tyN == 0 && f.a == 0 && f.b == 0 && f.mod == 0 && decide (f.cN < 8)) with
    ctrs := [.ld], writes := f.dN != 0xC9, d := .sel f.dN 1 false, region := .illegal, notPure := true }

end Sys2Proof

namespace Sys2Proof.Machine

/-! ## Scenes (R146, R147, R155) -/

def State.scene? (s : State) (ctx addr : Nat) : Option Scene :=
  s.scenes.find? (fun c => c.ctx == ctx && c.addr == addr)

def State.updScene (s : State) (ctx addr : Nat) (f : Scene → Scene) : State :=
  { s with scenes := s.scenes.map (fun (c : Scene) => if c.ctx = ctx ∧ c.addr = addr then f c else c) }

/-- The pages a range touches. -/
def pagesFrom (va n : Nat) : List Nat := if n = 0 then [] else (List.range ((va + n - 1) / pageBytes - va / pageBytes + 1)).map
  (fun i => va / pageBytes + i)

/-- Are the pages of a range mapped for the Wrangler's reads (R263)? -/
def State.tableMapped (s : State) (cx : Ctx) (va n : Nat) : Bool :=
  (pagesFrom va n).all (fun p => (s.localPa cx .engineFill (p * pageBytes)).isSome)

/-- Pages of a scene's directory. -/
def directoryPages (count : Nat) : Nat := ceilDiv (16 * count) pageBytes

/-- Segments of a queue area: the directory's pages are not among them. -/
def segmentsOf (base count pages : Nat) : List Nat :=
  (List.range ((pages - directoryPages count) * 16)).map (fun k => base + directoryPages count * pageBytes + 8192 * k)

/-- The scene a header describes, when it and the queue area keep R146, R147 and R155. -/
def State.sceneOf (s : State) (cx : Ctx) (addr : Nat) (b : List Byte) : Option Scene :=
  let n (off k : Nat) : Nat := numAt b off k
  let count := n 4 4
  let age := n 0x0C 2
  let pages := n 0x48 4
  let base := n 0x40 8
  let plain := n 0 4 == 0x53585343 && decide (1 ≤ count) && decide (count ≤ 16777216) && decide (n 8 4 < count) &&
    (age == 0 || (decide (5 ≤ age) && decide (age ≤ 200))) && n 0x0F 1 == 0 && n 0x4C 4 == 0 &&
    (slice 0 b 0x50 48).all (· == 0) && n 0x30 8 % 8 == 0 && base % pageBytes == 0 &&
    decide ((pages - directoryPages count) * 16 ≥ 1024)
  if !plain then none
  else match s.hdrBytes cx (n 0x10 8) with
    | .error _ => none
    | .ok bs =>
      let h := khdrOf (bs.map (fun b => b.1))
      if !(s.hdrCheck cx bs).isEmpty then none
      else
        let heads := headerMap h.entry (s.codeOf cx h)
        let pcOk (pc : Nat) : Bool := pc == 0 || heads.contains pc
        let areaOk := s.rangeWritable cx base (pages * pageBytes) && s.rangeHere cx base (pages * pageBytes) &&
          (s.readVa cx base (16 * count)).all (fun x => x.1 == 0 && !x.2)
        if n 0x0E 1 + 8 ≤ h.regs ∧ pcOk (n 0x18 8) ∧ pcOk (n 0x20 8) ∧ pcOk (n 0x28 8) ∧ areaOk then
          some { ctx := cx.id, addr := addr, count := count, root := n 8 4, ageBound := (if age = 0 then 20 else age) * 100000
                 dbase := n 0x0E 1, shade := h, shadeHeaders := heads, pcHit := n 0x18 8, pcAny := n 0x20 8
                 pcMiss := n 0x28 8, join := n 0x30 8, args := BitVec.ofNat 64 (n 0x38 8), qBase := base
                 free := segmentsOf base count pages, residentAt := [], requested := [], idleSince := some s.time }
        else none

/-- The scene of an address, registered now if need be, or the refusal code of R470. -/
def State.sceneFor (s : State) (cx : Ctx) (addr : Nat) : Except Nat (Scene × State) :=
  match s.scene? cx.id addr with
  | some c => .ok (c, s)
  | none =>
    if !s.tableMapped cx addr 128 then .error 3
    else
      let hdr := s.readVa cx addr 128
      let b := hdr.map (fun x => x.1)
      let count := numAt b 4 4
      if decide (1 ≤ count) && decide (count ≤ 16777216) && !s.tableMapped cx addr (128 + 16 * count) then .error 3
      else if hdr.any (fun x => x.2) then .error 1
      else match s.sceneOf cx addr b with
        | none => .error 1
        | some c =>
          if (s.scenes.filter (fun x => x.ctx == cx.id)).length ≥ 16 then .error 2
          else .ok (c, { s with scenes := s.scenes ++ [c] })

/-! ## Queues (R155 to R157) -/

/-- First and last segment of a treelet's queue. -/
def State.headOf (s : State) (cx : Ctx) (c : Scene) (t : Nat) : Nat := s.readVaNat cx (c.qBase + 16 * t) 8
def State.tailOf (s : State) (cx : Ctx) (c : Scene) (t : Nat) : Nat := s.readVaNat cx (c.qBase + 16 * t + 8) 8

def segNext (seg : Nat) : Nat := seg + 0x1800
def segEnq (seg : Nat) : Nat := seg + 0x1808
def segTreelet (seg : Nat) : Nat := seg + 0x1810
def segFill (seg : Nat) : Nat := seg + 0x1814

def State.fillOf (s : State) (cx : Ctx) (seg : Nat) : Nat := s.readVaNat cx (segFill seg) 1

/-- A fresh segment at a queue's tail; none while the free list is empty. -/
def State.newSegment (s : State) (cx : Ctx) (addr t : Nat) : Option (Nat × State) :=
  match s.scene? cx.id addr with
  | none => none
  | some c =>
    match c.free with
    | [] => none
    | seg :: rest =>
      let tail := s.tailOf cx c t
      let s := s.updScene cx.id addr (fun c => { c with free := rest })
      let s := s.writeVa cx (segNext seg) ((toBytes 8 0 ++ toBytes 8 s.stamp ++ toBytes 4 t ++ toBytes 4 0).map (fun b => (b, false)))
      let s := s.writeVaNat cx (if tail = 0 then c.qBase + 16 * t else segNext tail) 8 seg
      some (seg, s.writeVaNat cx (c.qBase + 16 * t + 8) 8 seg)

/-- Words with marks as bytes. -/
def markedBytes (ws : List PWord) : List (Byte × Bool) :=
  (ws.map (fun w => (toBytes 4 w.val.toNat).map (fun b => (b, w.mark)))).flatten

def cleanWords (ws : List Word) : List PWord := ws.map (fun w => { val := w })

def freshSide : List Word := [0, 0, BitVec.ofNat 32 noPrim]

/-- Is a queue's record a beam's? TYPE tells, but of a malformed one, of which the device keeps what emitted it (`odd`: a
beam or not). -/
def isBeam (odd : Option Bool) (rec_ : List Word) : Bool := odd.getD (wordNat rec_ 9 / 2 ^ 28 == 15)

/-- The rays of a record: itself, or the pixels of a beam (R173), with BAD set where it was malformed (R154). -/
def raysOf (idx : Nat) (odd : Option Bool) (rec_ side : List Word) (poisoned : Bool) : List RayState :=
  let mark (r : List Word) : List Word :=
    if odd.isSome then putAt r 9 (BitVec.ofNat 32 (withBit (wordNat r 9) ctrlBad)) else r
  if poisoned then [{ idx := idx, rec_ := rec_, side := side, poisoned := true }]
  else if isBeam odd rec_ then
    (pixelRecords rec_).map (fun r => { idx := idx, rec_ := mark r, side := freshSide, poisoned := false, pixel := true })
  else [{ idx := idx, rec_ := mark rec_, side := side, poisoned := false }]

/-- How many rays a record counts for in JOIN (R172, R173). -/
def joinWeight (beam : Bool) (rec_ : List Word) : Nat :=
  if beam then beamWidth (wordNat rec_ 9) * beamWidth (wordNat rec_ 9) else 1

/-- The malformed records of a segment leave with it. -/
def Scene.forget (c : Scene) (seg : Nat) : Scene :=
  { c with malformed := c.malformed.filter (fun x => !(decide (seg ≤ x.1) && decide (x.1 < seg + 0x1000))) }

/-- Does a pass have the segment open? It takes the new ray as well. -/
def State.streamIn (s : State) (ctx seg : Nat) (rs : List RayState) : State :=
  { s with passes := s.passes.map (fun (p : Pass) =>
      if p.ctx = ctx then { p with segs := p.segs.map (fun (g : OpenSeg) =>
        if g.addr = seg then { g with rays := g.rays ++ rs } else g) } else p) }

/-- A record joins a treelet's queue (R157): at the tail segment, or at a fresh one; `odd` says of a malformed one whether it
is a beam's. -/
def State.appendRay (s : State) (cx : Ctx) (addr t : Nat) (odd : Option Bool) (rec_ side : List PWord) : Option State :=
  match s.scene? cx.id addr with
  | none => none
  | some c =>
    let tail := s.tailOf cx c t
    let at_ : Option (Nat × State) := if tail = 0 ∨ 64 ≤ s.fillOf cx tail then s.newSegment cx addr t else some (tail, s)
    at_.map (fun x =>
      let (seg, s) := x
      let n := s.fillOf cx seg
      let s := s.writeVa cx (seg + 64 * n) (markedBytes rec_)
      let s := s.writeVa cx (seg + 0x1000 + 32 * n) (markedBytes side ++ List.replicate 20 (0, false))
      let s := s.writeVaNat cx (segFill seg) 1 (n + 1)
      let s := s.updScene cx.id addr (fun c =>
        { c with idleSince := none, malformed := match odd with | some b => (seg + 64 * n, b) :: c.malformed | none => c.malformed })
      s.streamIn cx.id seg (raysOf n odd (rec_.map (fun w => w.val)) (side.map (fun w => w.val)) (anyMark (rec_ ++ side))))

/-! ## Emitting rays (R469, R470) -/

/-- A cast record (R152, R153): bits [24:18] of CTRL are written as 0. -/
def castRecord (ws : List PWord) : List PWord :=
  let ctrl : PWord := { (wordAt ws 9) with val := BitVec.ofNat 32 (ctrlCast (wordAt ws 9).val.toNat) }
  slice {} ws 0 9 ++ [ctrl, {}, {}, {}, {}, wordAt ws 10, PWord.ofNat noPrim]

/-- A beam record (R173): its registers as they are. -/
def beamRecord (ws : List PWord) : List PWord := slice {} ws 0 16

/-- Does a record finish as misses (R154, R173)? -/
def emitOdd (beam : Bool) (rec_ : List PWord) : Option Bool :=
  let ws := rec_.map (fun w => w.val)
  if (if beam then beamBad ws else recordBad ws) then some beam else none

/-- n counts are added to a scene's JOIN (R172). -/
def State.joinAdd (s : State) (cx : Ctx) (va : Nat) : Nat → State
  | 0 => s
  | n + 1 =>
    match s.localPa cx .store va with
    | some pa => if anyMark [s.current pa, s.current (pa + 4)] then s else State.joinAdd (s.joinInc cx.id pa) cx va n
    | none => s

/-- A lane's record is appended, or refused: the status. -/
def State.emitRay (s : State) (cx : Ctx) (addr : Nat) (beam : Bool) (rec_ : List PWord) : Nat × State :=
  match s.sceneFor cx addr with
  | .error code => (code, s)
  | .ok (c, s) =>
    let s := if c.join = 0 then s else s.joinAdd cx c.join (joinWeight beam (rec_.map (fun w => w.val)))
    match s.appendRay cx addr c.root (emitOdd beam rec_) rec_ (cleanWords freshSide) with
    | some s => (0, s)
    | none => (1, s)

/-- The join word a lane's record counts in, 0 for none: its scene's, where it has one. -/
def State.emitJoin (s : State) (cx : Ctx) (addr : Nat) : Nat :=
  match s.sceneFor cx addr with
  | .ok (c, _) => c.join
  | .error _ => 0

/-- A lane's ray.cast or ray.beam, checked: its scene's address, and the page of the scene's join word it parks for (R125). -/
def State.emitTry (s : State) (env : Env) (F : Form) (lane : Lane) : Try (Nat × List Nat) :=
  match both (F.d.slot env.w.regs lane) (F.b.val env.w lane) with
  | .error c => .error c
  | .ok (_, a) =>
    if a % 256 ≠ 0 then .error cAlign
    else (s.joinTry env.cx (s.emitJoin env.cx a)).map (fun vas => (a, vas))

/-- The address at which that meets a cause of memory (R317). -/
def State.emitAddr (s : State) (env : Env) (F : Form) (lane : Lane) : Option Nat :=
  match both (F.d.slot env.w.regs lane) (F.b.val env.w lane) with
  | .error _ => none
  | .ok (_, a) => if a % 256 ≠ 0 then some a else some (s.emitJoin env.cx a)

/-- The lanes of a ray.cast or ray.beam in turn; D and ry wait for RAY_APPEND_COMPLETE. -/
def Env.emit (env : Env) (f : F2) (F : Form) (beam : Bool) (n : Nat) (make : List PWord → List PWord) (s : State) : Res := do
  let rs ← env.eachAt (fun _ lane => s.emitAddr env F lane) (fun x => !x.2.isEmpty) (fun _ lane => s.emitTry env F lane)
  let go := rs.filter (fun x => x.2.2.isEmpty)
  let (vals, s) := go.foldl (fun (x : List (Nat × List PWord) × State) r =>
    let (code, s) := x.2.emitRay env.cx r.2.1 beam (make ((env.w.lane r.1).main f.aN n))
    (x.1 ++ [(r.1, [PWord.ofNat code])], s)) ([], s)
  let lanes := go.map (fun x => x.1)
  let s := if lanes.isEmpty then s
    else (s.startOp env.w (maskOf lanes) (some .ry) f.la.toNat F.writes (.ray (F.dstOf env.w lanes 1) vals)).2
  env.parkAnd 4 { accs := [], parked := (rs.map (fun x => x.2.2.map (fun va => (x.1, va)))).flatten } s

def execRayCast (f : F2) (s : State) : Host.Outcome State Fault Refusal :=
  s.run (f.emitForm 11) (fun env => env.emit f (f.emitForm 11) false 11 castRecord)

def execRayBeam (f : F2) (s : State) : Host.Outcome State Fault Refusal :=
  s.run (f.emitForm 16) (fun env => env.emit f (f.emitForm 16) true 16 beamRecord)

/-- Every record is appended or refused: D lands and ry falls. -/
def execRayAppendComplete (op : Nat) (s : State) : Host.Outcome State Fault Refusal :=
  .next (match s.op? op with
    | some o =>
      match o.body with
      | .ray d vals => (s.landAll o d vals).endOp o
      | _ => s
    | none => s)

/-! ## Verdicts (R171, R471) -/

/-- A lane's verdict reaches the pass of its handle; the lane's own candidate has then had one. -/
def Env.verdict (env : Env) (F : Form) (v : Verdict) (s : State) : Res := do
  let rs ← env.each (fun _ lane => F.a.val env.w lane)
  let s := rs.foldl (fun (s : State) r => s.giveVerdict env.w.ctx r.2 v) s
  env.fall (s.updWave env.w.id (fun w => rs.foldl (fun (w : Wave) r =>
    w.updLane r.1 (fun l => { l with spoke := l.spoke || l.rec_.any (fun x => x.kind == 4 && x.handle == r.2) })) w))

def execRayAccept (f : F2) (s : State) : Host.Outcome State Fault Refusal :=
  s.run f.verdictForm (fun env => env.verdict f.verdictForm .accept)

def execRayIgnore (f : F2) (s : State) : Host.Outcome State Fault Refusal :=
  s.run f.verdictForm (fun env => env.verdict f.verdictForm .ignore)

def execRayTerm (f : F2) (s : State) : Host.Outcome State Fault Refusal :=
  s.run f.verdictForm (fun env => env.verdict f.verdictForm .term)

/-! ## The record's tail (R472) -/

def execRayRd (f : F2) (s : State) : Host.Outcome State Fault Refusal :=
  s.run f.rayRdForm (fun env s => do
    let _ ← env.each (fun _ lane => f.rayRdForm.d.slot env.w.regs lane)
    env.deliverTo f f.rayRdForm 1 (env.lanes.map (fun l => (l, [{ val := (env.w.lane l).tail.getD f.cN 0 }]))) s)

end Sys2Proof.Machine
end

