-- ==== Sys2Proof/Machine/Float.lean ====
section
/-! DEFINITION. Floating instructions, opcodes 0x40 to 0x5E (R384 to R396). -/

namespace Sys2Proof.Machine

/-- The format of a floating TYPE (R385): 0 .f32, 1 .bf16, 2 .h16, two elements to a word; .f64 by opcode. -/
def floatFmt (wide : Bool) (ty : Nat) : Fmt :=
  if wide then f64 else match ty with
  | 0 => f32
  | 1 => bf16
  | _ => h16

def floatWords (wide : Bool) : Nat := if wide then 2 else 1

end Sys2Proof.Machine

namespace Sys2Proof
open Machine

def F2.rnd (f : F2) : Nat := f.modAt 14 2
def F2.fsat (f : F2) : Bool := f.modAt 13 1 == 1
def F2.fmt (f : F2) (wide : Bool) : Fmt := floatFmt wide f.tyN

/-- Encoding checks of R386: TYPE, rounding, saturation, MOD [12] 0, the greatest MOD [11:8]. -/
def F2.floatOk (f : F2) (wide rnd sat : Bool) (low : Nat) : Bool :=
  (if wide then f.tyN == 0 else decide (f.tyN ≤ 2)) && (rnd || f.rnd == 0) && (sat || !f.fsat) && f.modAt 12 1 == 0 &&
    decide (f.modAt 8 4 ≤ low)

/-- D ← A op B. -/
def F2.floatTwo (f : F2) (wide rnd : Bool) : Form :=
  { f.form 0 (f.floatOk wide rnd rnd 0 && f.c == 0) with
    a := .sel f.aN (floatWords wide), b := .sel f.bN (floatWords wide), d := .sel f.dN (floatWords wide) true }

/-- D ← op A, `dw` words of D. -/
def F2.floatOne (f : F2) (wide rnd : Bool) (dw : Nat) : Form :=
  { f.form 0 (f.floatOk wide rnd rnd 0 && f.b == 0 && f.c == 0) with
    a := .sel f.aN (floatWords wide), d := .sel f.dN dw true }

def F2.fmaForm (f : F2) (wide : Bool) : Form :=
  { f.form 0 (f.floatOk wide true true 0) with
    a := .sel f.aN (floatWords wide), b := .sel f.bN (floatWords wide), c := .sel f.cN (floatWords wide)
    d := .sel f.dN (floatWords wide) true }

/-- fcmp (R389): a predicate in D [2:0]; MOD [11] names an element in .h16 alone. -/
def F2.fcmpForm (f : F2) (wide : Bool) : Form :=
  { f.form 0 (f.floatOk wide false false 15 && f.c == 0 && decide (f.dN < 8) &&
      ((!wide && f.tyN == 2) || f.modAt 11 1 == 0)) with
    a := .sel f.aN (floatWords wide), b := .sel f.bN (floatWords wide) }

/-- fscale (R394): B is one 32-bit word. -/
def F2.fscaleForm (f : F2) (wide : Bool) : Form :=
  { f.form 0 (f.floatOk wide true true 0 && f.c == 0) with
    a := .sel f.aN (floatWords wide), b := .sel f.bN 1, d := .sel f.dN (floatWords wide) true }

/-- The four functions have no .f64 form. -/
def F2.funcForm (f : F2) : Form := f.floatOne false true 1

end Sys2Proof

namespace Sys2Proof.Machine

/-- Element e of a word in a format: .h16 has two. -/
def element (F : Fmt) (e n : Nat) : Nat := n / 2 ^ (F.width * e) % 2 ^ F.width

/-- An elementwise function (R228, R385): both elements in .h16, else the one, in the low bits. -/
def elementwise (F : Fmt) (g : Nat → Nat) : Nat :=
  if F = h16 then g 0 + 2 ^ 16 * g 1 else g 0

/-- The flushing policy of the context (R230). -/
def Env.flush (env : Env) : Bool := env.cx.policy.flush

/-- D ← an elementwise function of A, B and C, rounded and saturated (R387). -/
def State.floatOp (s : State) (F : Form) (f : F2) (wide : Bool) (g : Fmt → Nat → Nat → Nat → Nat → Nat) :
    Host.Outcome State Fault Refusal :=
  s.run F (fun env => env.vec F true wide (fun _ lane => (F.args env.w lane).map (fun x =>
    let fm := f.fmt wide
    let at_ (e v : Nat) : Nat := fm.flush env.flush (element fm e v)
    wordsOf F.resultWords (elementwise fm (fun e =>
      fm.sat f.fsat (g fm f.rnd (at_ e x.a) (at_ e x.b) (at_ e x.c)))))))

/-- D ← a 32-bit code of each element of A (R390, R395). -/
def State.floatCode (s : State) (F : Form) (f : F2) (wide : Bool) (g : Fmt → Nat → Nat → Nat) :
    Host.Outcome State Fault Refusal :=
  s.run F (fun env => env.vec F true wide (fun _ lane => (F.args env.w lane).map (fun x =>
    let fm := f.fmt wide
    wordsOf 1 (elementwise fm (fun e => g fm (if fm = h16 then 16 else 32) (fm.flush env.flush (element fm e x.a)))))))

/-- pD ← a compare of one element (R389). -/
def State.floatCmp (s : State) (F : Form) (f : F2) (wide : Bool) : Host.Outcome State Fault Refusal :=
  s.run F (fun env => env.vecPred f.dN wide (fun _ lane => (F.args env.w lane).map (fun x =>
    let fm := f.fmt wide
    let at_ (v : Nat) : Nat := fm.flush env.flush (element fm (f.modAt 11 1) v)
    fm.cond (f.modAt 8 3) (at_ x.a) (at_ x.b))))

/-- D ← A × 2^n, each element with its own n (R394). -/
def State.floatScale (s : State) (F : Form) (f : F2) (wide : Bool) : Host.Outcome State Fault Refusal :=
  s.run F (fun env => env.vec F true wide (fun _ lane => (F.args env.w lane).map (fun x =>
    let fm := f.fmt wide
    wordsOf F.resultWords (elementwise fm (fun e =>
      let n := if fm = h16 then toSigned 16 (element fm e x.b) else toSigned 32 x.b
      fm.sat f.fsat (fm.scale f.rnd (fm.flush env.flush (element fm e x.a)) n))))))

/-! ## .f32, .bf16 and .h16 (0x40 to 0x4E) -/

def execFadd (f : F2) (s : State) : Host.Outcome State Fault Refusal :=
  s.floatOp (f.floatTwo false true) f false (fun F r a b _ => F.add r a b)
def execFsub (f : F2) (s : State) : Host.Outcome State Fault Refusal :=
  s.floatOp (f.floatTwo false true) f false (fun F r a b _ => F.sub r a b)
def execFmul (f : F2) (s : State) : Host.Outcome State Fault Refusal :=
  s.floatOp (f.floatTwo false true) f false (fun F r a b _ => F.mul r a b)
def execFma (f : F2) (s : State) : Host.Outcome State Fault Refusal :=
  s.floatOp (f.fmaForm false) f false (fun F r a b c => F.fma r a b c)
def execFmin (f : F2) (s : State) : Host.Outcome State Fault Refusal :=
  s.floatOp (f.floatTwo false false) f false (fun F _ a b _ => F.minmax false a b)
def execFmax (f : F2) (s : State) : Host.Outcome State Fault Refusal :=
  s.floatOp (f.floatTwo false false) f false (fun F _ a b _ => F.minmax true a b)
def execFcmp (f : F2) (s : State) : Host.Outcome State Fault Refusal := s.floatCmp (f.fcmpForm false) f false
def execFclass (f : F2) (s : State) : Host.Outcome State Fault Refusal :=
  s.floatCode (f.floatOne false false 1) f false (fun F _ a => 2 ^ F.classBit a)
def execFrnd (f : F2) (s : State) : Host.Outcome State Fault Refusal :=
  s.floatOp (f.floatOne false true 1) f false (fun F r a _ _ => F.rint r a)
def execFdiv (f : F2) (s : State) : Host.Outcome State Fault Refusal :=
  s.floatOp (f.floatTwo false true) f false (fun F r a b _ => F.div r a b)
def execFsqrt (f : F2) (s : State) : Host.Outcome State Fault Refusal :=
  s.floatOp (f.floatOne false true 1) f false (fun F r a _ _ => F.sqrt r a)
def execFrcp (f : F2) (s : State) : Host.Outcome State Fault Refusal :=
  s.floatOp (f.floatOne false true 1) f false (fun F r a _ _ => F.rcp r a)
def execFrsq (f : F2) (s : State) : Host.Outcome State Fault Refusal :=
  s.floatOp (f.floatOne false true 1) f false (fun F r a _ _ => F.rsq r a)
def execFexp2 (f : F2) (s : State) : Host.Outcome State Fault Refusal :=
  s.floatOp f.funcForm f false (fun F r a _ _ => F.exp2 r a)
def execFlog2 (f : F2) (s : State) : Host.Outcome State Fault Refusal :=
  s.floatOp f.funcForm f false (fun F r a _ _ => F.log2 r a)
def execFsin (f : F2) (s : State) : Host.Outcome State Fault Refusal :=
  s.floatOp f.funcForm f false (fun F r a _ _ => F.sinPi r a)
def execFcos (f : F2) (s : State) : Host.Outcome State Fault Refusal :=
  s.floatOp f.funcForm f false (fun F r a _ _ => F.cosPi r a)
def execFscale (f : F2) (s : State) : Host.Outcome State Fault Refusal := s.floatScale (f.fscaleForm false) f false
def execFexpo (f : F2) (s : State) : Host.Outcome State Fault Refusal :=
  s.floatCode (f.floatOne false false 1) f false (fun F w a => F.expo w a)

/-! ## .f64 (0x50 to 0x5E) -/

def execFaddF64 (f : F2) (s : State) : Host.Outcome State Fault Refusal :=
  s.floatOp (f.floatTwo true true) f true (fun F r a b _ => F.add r a b)
def execFsubF64 (f : F2) (s : State) : Host.Outcome State Fault Refusal :=
  s.floatOp (f.floatTwo true true) f true (fun F r a b _ => F.sub r a b)
def execFmulF64 (f : F2) (s : State) : Host.Outcome State Fault Refusal :=
  s.floatOp (f.floatTwo true true) f true (fun F r a b _ => F.mul r a b)
def execFmaF64 (f : F2) (s : State) : Host.Outcome State Fault Refusal :=
  s.floatOp (f.fmaForm true) f true (fun F r a b c => F.fma r a b c)
def execFminF64 (f : F2) (s : State) : Host.Outcome State Fault Refusal :=
  s.floatOp (f.floatTwo true false) f true (fun F _ a b _ => F.minmax false a b)
def execFmaxF64 (f : F2) (s : State) : Host.Outcome State Fault Refusal :=
  s.floatOp (f.floatTwo true false) f true (fun F _ a b _ => F.minmax true a b)
def execFcmpF64 (f : F2) (s : State) : Host.Outcome State Fault Refusal := s.floatCmp (f.fcmpForm true) f true
def execFclassF64 (f : F2) (s : State) : Host.Outcome State Fault Refusal :=
  s.floatCode (f.floatOne true false 1) f true (fun F _ a => 2 ^ F.classBit a)
def execFrndF64 (f : F2) (s : State) : Host.Outcome State Fault Refusal :=
  s.floatOp (f.floatOne true true 2) f true (fun F r a _ _ => F.rint r a)
def execFdivF64 (f : F2) (s : State) : Host.Outcome State Fault Refusal :=
  s.floatOp (f.floatTwo true true) f true (fun F r a b _ => F.div r a b)
def execFsqrtF64 (f : F2) (s : State) : Host.Outcome State Fault Refusal :=
  s.floatOp (f.floatOne true true 2) f true (fun F r a _ _ => F.sqrt r a)
def execFrcpF64 (f : F2) (s : State) : Host.Outcome State Fault Refusal :=
  s.floatOp (f.floatOne true true 2) f true (fun F r a _ _ => F.rcp r a)
def execFrsqF64 (f : F2) (s : State) : Host.Outcome State Fault Refusal :=
  s.floatOp (f.floatOne true true 2) f true (fun F r a _ _ => F.rsq r a)
def execFscaleF64 (f : F2) (s : State) : Host.Outcome State Fault Refusal := s.floatScale (f.fscaleForm true) f true
def execFexpoF64 (f : F2) (s : State) : Host.Outcome State Fault Refusal :=
  s.floatCode (f.floatOne true false 1) f true (fun F w a => F.expo w a)

end Sys2Proof.Machine
end

