-- ==== Sys2Proof/Machine/Convert.lean ====
section
/-! DEFINITION. Conversions and block formats, opcodes 0x60 to 0x65 (R234 to R240, R397 to R405). -/

namespace Sys2Proof.Machine

/-! ## Blocks (R234, R235, R237, R238) -/

/-- An element's exact value × 2^(m − 2) × 2^127: the integer q and the exponent of its scale (R234). -/
def blockVal (mbits sc code : Nat) : Dyadic :=
  { i := toSigned mbits code, e := (sc : Int) - 127 - ((mbits : Int) - 2) }

/-- The largest code qnt writes. -/
def qmaxOf (mbits : Nat) : Nat := 2 ^ (mbits - 1) - 1

/-- x × 2^(127 − S + m − 2) rounded to an integer. -/
def quantAt (z : FSlot) (sc : Nat) (neg : Bool) (m : Nat) (e : Int) : Int :=
  toInteger z.rnd neg m (e + 127 - sc + z.mbits - 2)

/-- The greatest scale. -/
def FSlot.smax (z : FSlot) : Nat := if z.kind = 6 then 0xFE else 0xFF

/-- The smallest scale from k on at which the magnitude fits, or the greatest. -/
def fitScale (z : FSlot) (m : Nat) (e : Int) (k : Nat) : Nat → Nat
  | 0 => z.smax
  | fuel + 1 =>
    if k ≥ z.smax then z.smax
    else if quantAt z k false m e ≤ qmaxOf z.mbits then k
    else fitScale z m e (k + 1) fuel

/-- A block as it is quantised: its scale, codes, and whether it is poisoned (R237, R402). -/
structure Quant where
  scale : Nat
  codes : List Int
  poisoned : Bool
  deriving DecidableEq, Repr

/-- The largest finite magnitude of FP32 values, as m × 2^e, ordered by its bits. -/
def maxMag (xs : List Nat) : Nat := (xs.map f32.mag).foldl max 0

/-- R237 on 32 FP32 bit patterns. -/
def quantize (z : FSlot) (xs : List Nat) : Quant :=
  if xs.any f32.isNan then { scale := 0, codes := xs.map (fun _ => 0), poisoned := true }
  else
    let q : Int := qmaxOf z.mbits
    if xs.any f32.isInf then
      { scale := z.smax
        codes := xs.map (fun x => match f32.val x with
          | .inf s => if s then -q else q
          | .fin s m e => min (max (quantAt z z.smax s m e) (-q)) q
          | .nan => 0)
        poisoned := !z.sat }
    else match f32.val (maxMag xs) with
      | .fin _ m e =>
        if m = 0 then { scale := 0, codes := xs.map (fun _ => 0), poisoned := false }
        else
          let sc := fitScale z m e 0 256
          { scale := sc
            codes := xs.map (fun x => match f32.val x with
              | .fin s m e => min (max (quantAt z sc s m e) (-q)) q
              | _ => 0)
            poisoned := false }
      | _ => { scale := 0, codes := [], poisoned := true }

/-- A block element decoded to a format (R238): its bits; a zero is +0. -/
def decodeBlock (z : FSlot) (G : Fmt) (sc code : Nat) : Nat :=
  let x := blockVal z.mbits sc code
  G.sat z.sat (G.ofDyadic z.rnd 0 x)

/-- Codes packed from the least significant bit (R235). -/
def packCodes (mbits : Nat) (codes : List Nat) : Nat := ofDigits codes mbits
where
  ofDigits : List Nat → Nat → Nat
    | [], _ => 0
    | c :: t, m => c % 2 ^ m + 2 ^ m * ofDigits t m

/-- The qword of an element (R400). -/
def qword (sc : Nat) (code : Int) : Nat := 2 ^ 8 * sc + wrap 8 code

/-! ## Types of cvt (R397) -/

/-- Codes 0 to 7 are integer types, 8 .f64, 9 .f32, 10 .bf16, 11 .h16. -/
def cvtFmt (code : Nat) : Fmt :=
  match code with
  | 8 => f64
  | 9 => f32
  | 10 => bf16
  | _ => h16
def cvtWords (code : Nat) : Nat := if code = 3 ∨ code = 7 ∨ code = 8 then 2 else 1

/-- A converted value (R398). -/
def cvtVal (dst src rnd : Nat) (sat flush : Bool) (n : Nat) : Nat :=
  if src < 8 then
    let v := tyVal src n
    if dst < 8 then tyResult dst sat v
    else (cvtFmt dst).sat sat ((cvtFmt dst).ofInt rnd v)
  else
    let F := cvtFmt src
    let b := F.flush flush (n % 2 ^ F.width)
    if dst < 8 then
      match F.val b with
      | .nan => 0
      | .inf s => tyResult dst false (if s then tyMin dst else tyMax dst)
      | .fin s m e => tyResult dst true (toInteger rnd s m e)
    else (cvtFmt dst).sat sat (convert F (cvtFmt dst) rnd b)

end Sys2Proof.Machine

namespace Sys2Proof
open Machine

def F2.cvtDst (f : F2) : Nat := field f.cN 4 4
def F2.cvtSrc (f : F2) : Nat := field f.cN 0 4
def F2.cvtPair (f : F2) : Bool := f.modAt 9 1 == 1

def F2.cvtForm (f : F2) : Form :=
  { f.form 0 (f.tyN == 0 && decide (f.cvtDst < 12) && decide (f.cvtSrc < 12) && f.modAt 12 1 == 0 && f.modAt 10 1 == 0 &&
      f.modAt 8 1 == 0 && (f.cvtSrc == 11 || f.modAt 11 1 == 0) && (!f.cvtPair || f.cvtDst == 11) &&
      (f.cvtPair || f.b == 0)) with
    a := .sel f.aN (cvtWords f.cvtSrc)
    b := if f.cvtPair then .sel f.bN (cvtWords f.cvtSrc) else .none
    d := .sel f.dN (cvtWords f.cvtDst) true }

/-- Encoding checks of the block forms (R400): MOD [15:12] 0; MOD [9:8] a float type up to `ft`; MOD [10], MOD [11]. -/
def F2.blockOk (f : F2) (ft : Nat) (mode elem : Bool) : Bool :=
  f.modAt 12 4 == 0 && f.b == 0 && f.c == 0 && decide (f.modAt 8 2 ≤ ft) && (mode || f.modAt 10 1 == 0) &&
    ((elem && f.modAt 8 2 == 2) || f.modAt 11 1 == 0)

def F2.blockForm (f : F2) (ft : Nat) (mode elem : Bool) (dw : Nat) : Form :=
  { f.form 0 (f.blockOk ft mode elem) with a := .sel f.aN 1, d := .sel f.dN dw true }

def F2.qntForm (f : F2) : Form := f.blockForm 2 false true 1
def F2.bmaxForm (f : F2) : Form := f.blockForm 2 true true 1
def F2.dqntForm (f : F2) : Form := f.blockForm 3 false false (if f.modAt 8 2 = 3 then 2 else 1)
def F2.packForm (f : F2) : Form := f.blockForm 0 false false 1

end Sys2Proof

namespace Sys2Proof.Machine

/-- cvt (R397 to R399). -/
def execCvt (f : F2) (s : State) : Host.Outcome State Fault Refusal :=
  s.run f.cvtForm (fun env => env.vec f.cvtForm true false (fun _ lane => (f.cvtForm.args env.w lane).map (fun x =>
    let at_ (n : Nat) : Nat := if f.cvtSrc = 11 then element h16 (f.modAt 11 1) n else n
    let conv (n : Nat) : Nat := cvtVal f.cvtDst f.cvtSrc f.rnd f.fsat env.flush (at_ n)
    wordsOf f.cvtForm.resultWords (conv x.a + (if f.cvtPair then 2 ^ 16 * conv x.b else 0)))))

/-- A block form reads its slot, which must be of a block kind (R240, R400). -/
def State.blockOp (s : State) (F : Form) (f : F2) (k : FSlot → Env → State → Res) : Host.Outcome State Fault Refusal :=
  s.run F (fun env s =>
    let z := env.w.slot f.tyN
    if z.isBlock then k z env s else .error (env.raise cIllegal))

/-- The float type of MOD [9:8] (R400). -/
def blockFmt (code : Nat) : Fmt :=
  match code with
  | 0 => f32
  | 1 => bf16
  | 2 => h16
  | _ => f64

/-- The block's 32 values as FP32, +0 where no lane is active; marked words are consumed. -/
def Env.blockIn (env : Env) (F : Form) (f : F2) : Except Raised (List Nat) := do
  let vs ← env.each (fun _ lane => F.a.val env.w lane)
  let G := blockFmt (f.modAt 8 2)
  .ok (laneList.map (fun l => match lookupBy l vs with
    | some v => convert G f32 0 (G.flush env.flush (element G (f.modAt 11 1) v))
    | none => 0))

/-- qnt (R402). -/
def execQnt (f : F2) (s : State) : Host.Outcome State Fault Refusal :=
  s.blockOp f.qntForm f (fun z env s => do
    let xs ← env.blockIn f.qntForm f
    let q := quantize z xs
    env.vec f.qntForm true false (fun l _ =>
      .ok [{ PWord.ofNat (qword q.scale (q.codes.getD l 0)) with mark := q.poisoned }]) s)

/-- bmax's M (R401). -/
def blockMax (xs : List Nat) : Nat := if xs.any f32.isNan then f32.nan else maxMag xs

/-- bmax (R401): M, or with MOD [10] the scale qnt would write. -/
def execBmax (f : F2) (s : State) : Host.Outcome State Fault Refusal :=
  s.blockOp f.bmaxForm f (fun z env s => do
    let xs ← env.blockIn f.bmaxForm f
    let q := quantize z xs
    env.vec f.bmaxForm true false (fun _ _ =>
      .ok [if f.modAt 10 1 = 1 then { PWord.ofNat q.scale with mark := q.poisoned }
           else PWord.ofNat (blockMax xs)]) s)

/-- dqnt (R403): a kind-6 scale of 0xFF gives +0, marked. -/
def execDqnt (f : F2) (s : State) : Host.Outcome State Fault Refusal :=
  s.blockOp f.dqntForm f (fun z env s =>
    env.vec f.dqntForm true false (fun _ lane => (f.dqntForm.a.val env.w lane).map (fun v =>
      let sc := field v 8 8
      if z.kind = 6 ∧ sc = 0xFF then (wordsOf f.dqntForm.resultWords 0).map (fun w => { w with mark := true })
      else wordsOf f.dqntForm.resultWords (decodeBlock z (blockFmt (f.modAt 8 2)) sc (v % 2 ^ z.mbits)))) s)

/-- pack (R404). -/
def execPack (f : F2) (s : State) : Host.Outcome State Fault Refusal :=
  s.blockOp f.packForm f (fun z env s => do
    let vs ← env.each (fun _ lane => f.packForm.a.val env.w lane)
    let n := packCodes z.mbits (laneList.map (fun l => (lookupBy l vs).getD 0))
    let sc := field ((lookupBy env.first vs).getD 0) 8 8
    env.vec f.packForm true false (fun l _ =>
      .ok [PWord.ofNat (if l = 0 then sc else if l ≤ z.mbits then n / 2 ^ (32 * (l - 1)) % 2 ^ 32 else 0)]) s)

/-- unpack (R405): it reads lanes 0 to m alone, so a mark in a lane above them is not consumed (R225). -/
def execUnpack (f : F2) (s : State) : Host.Outcome State Fault Refusal :=
  s.blockOp f.packForm f (fun z env s => do
    let vs ← env.each (fun l lane =>
      if l ≤ z.mbits then f.packForm.a.val env.w lane else (f.packForm.a.read env.w lane).map (fun _ => 0))
    let at_ (l : Nat) : Nat := (lookupBy l vs).getD 0
    let n := ((List.range z.mbits).map (fun i => at_ (i + 1) * 2 ^ (32 * i))).foldl (· + ·) 0
    let sc := at_ 0 % 2 ^ 8
    env.vec f.packForm true false (fun l _ =>
      .ok [PWord.ofNat (qword sc (toSigned z.mbits (n / 2 ^ (z.mbits * l))))]) s)

end Sys2Proof.Machine
end

