-- ==== Sys2Proof/Machine/Matrix.lean ====
section
/-! DEFINITION. Matrix engines, opcodes 0x70 to 0x76 (R407 to R427), and the sums, checksums and drains of R241 to R244. -/

namespace Sys2Proof.Machine

/-! ## Exact sums (R241) -/

def FVal.isNan : FVal → Bool
  | .nan => true
  | _ => false
def FVal.isInf : FVal → Bool
  | .inf _ => true
  | _ => false
def FVal.isNeg : FVal → Bool
  | .nan => false
  | .inf s => s
  | .fin s _ _ => s

def FVal.prod : FVal → FVal → FVal
  | .nan, _ => .nan
  | _, .nan => .nan
  | .inf s, .inf t => .inf (s != t)
  | .inf s, .fin t m _ => if m = 0 then .nan else .inf (s != t)
  | .fin s m _, .inf t => if m = 0 then .nan else .inf (s != t)
  | .fin s m e, .fin t n k => .fin (s != t) (m * n) (e + k)

def FVal.abs : FVal → FVal
  | .nan => .nan
  | .inf _ => .inf false
  | .fin _ m e => .fin false m e

def FVal.dyadic : FVal → Dyadic
  | .fin s m e => { i := signedMant s m, e := e }
  | _ => { i := 0, e := 0 }

def FVal.isNegZero : FVal → Bool
  | .fin s m _ => s && m == 0
  | _ => false

def Dyadic.val (x : Dyadic) : FVal := .fin (decide (x.i < 0)) x.i.natAbs x.e

def sumDyadic (xs : List Dyadic) : Dyadic := xs.foldl Dyadic.add { i := 0, e := 0 }

/-- A sum held exactly (R423): a NaN or an infinity among the terms makes it no number. -/
def sumExact (xs : List FVal) : FVal :=
  if xs.any (fun x => x.isNan || x.isInf) then .nan else (sumDyadic (xs.map FVal.dyadic)).val

/-- One rounding step of an accumulator (R231, R241). -/
def Fmt.step (F : Fmt) (acc : Nat) (ts : List FVal) : Nat :=
  let all := F.val acc :: ts
  if all.any FVal.isNan then F.nan
  else if all.any FVal.isInf then
    let infs := all.filter FVal.isInf
    if infs.any FVal.isNeg && infs.any (fun x => !x.isNeg) then F.nan else F.signed (infs.any FVal.isNeg) F.inf
  else F.ofDyadic 0 (if all.all FVal.isNegZero then F.sign else 0) (sumDyadic (all.map FVal.dyadic))

/-- Chunk by chunk, in increasing k: terms carry their k. -/
def Fmt.accumulate (F : Fmt) (chunk : Nat) (ts : List (Nat × FVal)) : Nat → Nat → Nat → Nat
  | 0, _, acc => acc
  | n + 1, at_, acc =>
    let mine := (ts.filter (fun t => decide (at_ ≤ t.1) && decide (t.1 < at_ + chunk))).map (fun t => t.2)
    let full := mine ++ List.replicate (chunk - mine.length) (.fin false 0 0)
    Fmt.accumulate F chunk ts n (at_ + chunk) (F.step acc full)

/-! ## Operands (R412 to R414) -/

/-- A kept element of a row of A, or of a column of B: its dense position, its value as a floating number or as a code with
its scale, and whether it is poisoned. -/
structure Term where
  k : Nat
  v : FVal := .fin false 0 0
  q : Int := 0
  sc : Nat := 0
  mark : Bool := false
  deriving DecidableEq, Repr

def slotFmt (kind : Nat) : Fmt :=
  match kind with
  | 1 => f64 | 2 => f32 | 3 => bf16 | _ => h16

/-- Bytes of an element of a floating kind. -/
def elemBytes (kind : Nat) : Nat := (slotFmt kind).width / 8

/-- Dense position of kept element j (R414): its index in its group of 4 is a 2-bit field of the metadata. -/
def densePos (pattern : Option Nat) (metaBits j : Nat) : Nat :=
  match pattern with
  | none => j
  | some p => 4 * (j / keptOf p) + field metaBits (2 * j) 2

/-- A row of A: its words as numbers and marks. -/
def rowTerms (z : FSlot) (k : Nat) (pattern : Option Nat) (flush : Bool) (row : List PWord) : List Term :=
  let nw := rowWords z k pattern
  let metas := row.drop nw
  let metaBits := wordsVal metas
  let mbad (j : Nat) : Bool := (wordAt metas (2 * j / 32)).mark
  let kept := match pattern with | some p => k * keptOf p / 4 | none => k
  if z.isBlock then
    let per := kept / (k / 32)
    let wpb := nw / (k / 32)
    ((List.range (k / 32)).map (fun b =>
      let ws := (row.drop (b * wpb)).take wpb
      let codes := wordsVal (ws.drop 1)
      let sc := (wordAt ws 0).val.toNat % 256
      let bad := anyMark ws || (z.kind == 6 && sc == 0xFF)
      (List.range per).map (fun i =>
        { k := densePos pattern metaBits (b * per + i), q := toSigned z.mbits (codes / 2 ^ (z.mbits * i)), sc := sc,
          mark := bad || mbad (b * per + i) : Term }))).flatten
  else
    let F := slotFmt z.kind
    (List.range kept).map (fun j =>
      let (bits, bad) : Nat × Bool :=
        match z.kind with
        | 1 => (wordsVal ((row.drop (2 * j)).take 2), anyMark ((row.drop (2 * j)).take 2))
        | 2 => ((wordAt row j).val.toNat, (wordAt row j).mark)
        | _ => (field (wordAt row (j / 2)).val.toNat (16 * (j % 2)) 16, (wordAt row (j / 2)).mark)
      { k := densePos pattern metaBits j, v := F.val (F.flush flush bits), mark := bad || mbad j })

/-- Bytes of B (R413). -/
def bBytes (z : FSlot) (k n : Nat) : Nat :=
  if z.isBlock then k / 32 * n * (4 * z.mbits + (if z.separate then 1 else 4)) else k * n * elemBytes z.kind

def byteNum (bs : List (Byte × Bool)) : Nat := ofBytes (bs.map (fun b => b.1))
def byteBad (bs : List (Byte × Bool)) : Bool := bs.any (fun b => b.2)

/-- Column n of B, in increasing k. -/
def bColumn (z : FSlot) (k cols : Nat) (tb flush : Bool) (bs : List (Byte × Bool)) (n : Nat) : List Term :=
  let get (off len : Nat) : List (Byte × Bool) := (bs.drop off).take len
  if z.isBlock then
    ((List.range (k / 32)).map (fun b =>
      let j := b * cols + n
      let codes := if z.separate then get (j * (4 * z.mbits)) (4 * z.mbits) else get (j * (4 * z.mbits + 4) + 4) (4 * z.mbits)
      let scale := if z.separate then get (k / 32 * cols * (4 * z.mbits) + j) 1 else get (j * (4 * z.mbits + 4)) 1
      let sc := byteNum scale
      let bad := byteBad codes || byteBad scale || (z.kind == 6 && sc == 0xFF)
      (List.range 32).map (fun i =>
        { k := 32 * b + i, q := toSigned z.mbits (byteNum codes / 2 ^ (z.mbits * i)), sc := sc, mark := bad : Term }))).flatten
  else
    let F := slotFmt z.kind
    let e := elemBytes z.kind
    (List.range k).map (fun i =>
      let x := get ((if tb then n * k + i else i * cols + n) * e) e
      { k := i, v := F.val (F.flush flush (byteNum x)), mark := byteBad x })

/-! ## Tiles (R409, R418) -/

/-- Format of a tile's accumulators. -/
def tileFmt (kind : Nat) : Fmt := if kind = 2 then f64 else f32

/-- KIND a slot's accumulators have (R410, R415). -/
def accKind (kind : Nat) : Nat := if kind = 1 then 2 else 1

def Tile.elem (t : Tile) (i n : Nat) : Nat := ((lookupBy (64 * i + n) t.acc).getD 0).toNat
def Tile.row (t : Tile) (i : Nat) : Check := (lookupBy i t.rows).getD {}
def Tile.col (t : Tile) (n : Nat) : Check := (lookupBy n t.cols).getD {}

/-- The tile's last zeroing (R409, R418): elements, marks, checksum state and CORR; `ck` says whether CKFAIL clears too. -/
def Tile.zeroed (t : Tile) (ck : Bool) : Tile :=
  { kind := t.kind, m := t.m, n := t.n, ckFail := !ck && t.ckFail }

def codeSize (code : Nat) : Nat := 16 * 2 ^ code

/-! ## mma in the engine (R241, R416, R423) -/

def termAt (ts : List Term) (k : Nat) : List Term := ts.filter (fun t => t.k == k)

/-- Products of a row and a column. -/
def products (a b : List Term) : List (Nat × FVal) :=
  (a.map (fun x => (termAt b x.k).map (fun y => (x.k, x.v.prod y.v)))).flatten

def magnitudes (a b : List Term) : List (Nat × FVal) :=
  (a.map (fun x => (termAt b x.k).map (fun y => (x.k, x.v.abs.prod y.v.abs)))).flatten

/-- Does a poisoned term feed the element? -/
def feedsMark (a b : List Term) : Bool :=
  a.any (fun x => x.mark || (termAt b x.k).any (fun y => y.mark))

/-- The integer sum of a block pair, and its exponent. -/
def pairSum (a b : List Term) (blk : Nat) : Int :=
  let mine := a.filter (fun x => x.k / 32 == blk)
  (mine.map (fun x => ((termAt b x.k).map (fun y => x.q * y.q)).foldl (· + ·) 0)).foldl (· + ·) 0

/-- The terms of a block with their codes' magnitudes (R242). -/
def absTerms (ts : List Term) : List Term := ts.map (fun t => { t with q := t.q.natAbs })

def scaleOf (ts : List Term) (blk : Nat) : Nat :=
  match ts.find? (fun x => x.k / 32 == blk) with | some x => x.sc | none => 0

def pairExp (za zb : FSlot) (a b : List Term) (blk : Nat) : Int :=
  (scaleOf a blk : Int) + scaleOf b blk - 254 - ((za.mbits : Int) - 2) - ((zb.mbits : Int) - 2)

/-- One element, row or column sum of a block kind: a rounding per pair. -/
def accumulateBlocks (terms : Nat → Dyadic) : Nat → Nat → Nat → Nat
  | 0, _, acc => acc
  | n + 1, blk, acc => accumulateBlocks terms n (blk + 1) (f32.step acc [(terms blk).val])

/-- A column whose elements are sums over the columns of B (R423): bs[k], exact. -/
def sumColumn (cols : List (List Term)) (abs : Bool) (k : Nat) : List Term :=
  (List.range k).map (fun i =>
    { k := i, v := sumExact ((cols.map (fun c => (termAt c i).map (fun t => if abs then t.v.abs else t.v))).flatten) })

/-- A row whose elements are sums over the rows of A. -/
def sumRow (rows : List (List Term)) (abs : Bool) (k : Nat) : List Term :=
  (List.range k).map (fun i =>
    { k := i, v := sumExact ((rows.map (fun r => (termAt r i).map (fun t => if abs then t.v.abs else t.v))).flatten) })

/-- An mma or mmas of a tile (R416): rows of A, columns of B; the elements, then the checksum state. -/
def Tile.mma (t : Tile) (za zb : FSlot) (k : Nat) (rows cols : List (List Term)) (stamp : Nat × Nat) : Tile :=
  let F := tileFmt (accKind za.kind)
  let chunk := if za.kind = 1 then 4 else 8
  let cells := ((indexed rows).map (fun r => (indexed cols).map (fun c => (r, c)))).flatten
  let blocks := k / 32
  let one (old : Nat) (a b : List Term) : Nat :=
    if za.isBlock then
      accumulateBlocks (fun blk => { i := pairSum a b blk, e := pairExp za zb a b blk }) blocks 0 old
    else F.accumulate chunk (products a b) (k / chunk) 0 old
  let acc := cells.map (fun x => (64 * x.1.1 + x.2.1, BitVec.ofNat 64 (one (t.elem x.1.1 x.2.1) x.1.2 x.2.2)))
  let marks := (cells.filter (fun x => feedsMark x.1.2 x.2.2)).map (fun x => 64 * x.1.1 + x.2.1)
  let acc' := (t.acc.filter (fun x => !acc.any (fun y => y.1 == x.1))) ++ acc
  let bs := sumColumn cols false k
  let bm := sumColumn cols true k
  let as_ := sumRow rows false k
  let am := sumRow rows true k
  let sumOf (f : List Term → Nat → Dyadic) (xs : List (List Term)) (blk : Nat) : Dyadic := sumDyadic (xs.map (fun x => f x blk))
  let pairOf (a b : List Term) (blk : Nat) : Dyadic := { i := pairSum a b blk, e := pairExp za zb a b blk }
  let pairAbs (a b : List Term) (blk : Nat) : Dyadic := pairOf (absTerms a) (absTerms b) blk
  let rowCk (i : Nat) (a : List Term) : Check :=
    let o := t.row i
    if za.isBlock then
      { o with sum := BitVec.ofNat 64 (accumulateBlocks (sumOf (pairOf a) cols) blocks 0 o.sum.toNat)
               mag := BitVec.ofNat 64 (accumulateBlocks (sumOf (pairAbs a) cols) blocks 0 o.mag.toNat) }
    else
      { o with sum := BitVec.ofNat 64 (F.accumulate chunk (products a bs) (k / chunk) 0 o.sum.toNat)
               mag := BitVec.ofNat 64 (F.accumulate chunk (magnitudes a bm) (k / chunk) 0 o.mag.toNat) }
  let colCk (n : Nat) (b : List Term) : Check :=
    let o := t.col n
    if za.isBlock then
      { o with sum := BitVec.ofNat 64 (accumulateBlocks (sumOf (fun a => pairOf a b) rows) blocks 0 o.sum.toNat)
               mag := BitVec.ofNat 64 (accumulateBlocks (sumOf (fun a => pairAbs a b) rows) blocks 0 o.mag.toNat) }
    else
      { o with sum := BitVec.ofNat 64 (F.accumulate chunk (products as_ b) (k / chunk) 0 o.sum.toNat)
               mag := BitVec.ofNat 64 (F.accumulate chunk (magnitudes am b) (k / chunk) 0 o.mag.toNat) }
  { t with
    acc := acc'
    marks := marks.foldl (fun ms x => addSet x ms) t.marks
    rows := (indexed rows).map (fun r => (r.1, rowCk r.1 r.2))
    cols := (indexed cols).map (fun c => (c.1, colCk c.1 c.2))
    tau := za.tau
    block := za.isBlock
    stamps := if t.stamps.contains stamp then t.stamps else t.stamps ++ [stamp] }

/-! ## The check of a drain (R242, R423, R424) -/

/-- Is a row or column out of tolerance? `xs` are its elements. -/
def Tile.isOff (t : Tile) (c : Check) (xs : List FVal) (marked : Bool) : Bool :=
  let F := tileFmt t.kind
  if marked || xs.any (fun x => x.isNan || x.isInf) then false
  else if t.block then c.resid % (2 ^ 48 : Int) != 0
  else
    match F.val c.sum.toNat, F.val c.mag.toNat with
    | .fin s m e, .fin _ g h =>
      let r := (sumDyadic (xs.map FVal.dyadic)).add { i := -(signedMant s m), e := e }
      Dyadic.lt { i := (g : Int), e := h - (t.tau : Int) } { r with i := r.i.natAbs }
    | _, _ => false

/-- What the check finds. -/
inductive Checked where
  | clean
  | corrected
  | failed
  deriving DecidableEq, Repr

/-- The check over a whole tile: the tile as it goes on, and what was found. -/
def Tile.check (t : Tile) (m n : Nat) : Tile × Checked :=
  let F := tileFmt t.kind
  let v (i j : Nat) : FVal := F.val (t.elem i j)
  let rowOff (i : Nat) : Bool :=
    t.isOff (t.row i) ((List.range n).map (fun j => v i j)) ((List.range n).any (fun j => t.marks.contains (64 * i + j)))
  let colOff (j : Nat) : Bool :=
    t.isOff (t.col j) ((List.range m).map (fun i => v i j)) ((List.range m).any (fun i => t.marks.contains (64 * i + j)))
  let ri := (List.range m).filter rowOff
  let ci := (List.range n).filter colOff
  match ri, ci with
  | [], [] => (t, .clean)
  | [i], [j] =>
    let others := ((List.range n).filter (fun x => x != j)).map (fun x => ((v i x).dyadic).neg)
    let x := sumDyadic ((F.val (t.row i).sum.toNat).dyadic :: others)
    let fix (k : Nat) (l : List (Nat × Check)) : List (Nat × Check) :=
      setBy k { (lookupBy k l).getD {} with resid := 0 } l
    ({ t with acc := setBy (64 * i + j) (BitVec.ofNat 64 (F.ofDyadic 0 0 x)) t.acc, corr := min 255 (t.corr + 1)
              rows := fix i t.rows, cols := fix j t.cols }, .corrected)
  | _, _ =>
    ({ t with marks := ((List.range m).map (fun i => (List.range n).map (fun j => 64 * i + j))).flatten, ckFail := true },
      .failed)

/-! ## Engine commands -/

/-- The tile of a command's context on its core is changed. -/
def State.updTile (s : State) (ctx core k : Nat) (f : Tile → Tile) : State :=
  s.updCtxCore ctx core (fun c => { c with tiles := (indexed c.tiles).map (fun t => if t.1 = k then f t.2 else t.2) })

def State.tileAt (s : State) (ctx core k : Nat) : Tile := (s.ctxCoreAt ctx core).tiles.getD k {}

/-- A tile is written in a gang's attempt (R298). -/
def State.noteTile (s : State) (gang : Option Nat) (core k : Nat) : State :=
  match gang with
  | some g => s.updRegion g (fun r =>
      if r.replayable && !r.tiles.contains (core, k) then { r with tiles := r.tiles ++ [(core, k)] } else r)
  | none => s

/-- The attempt a form is issued in: the gang and one more than its commits, 0 before its open and outside a region. -/
def stampOf (g : Option Gang) : Nat × Nat :=
  match g with
  | some g => (g.id, if g.region.inside then g.region.region + 1 else 0)
  | none => (0, 0)

/-- The check before a drain (R424, R307): what it found is counted; a pattern it cannot correct is the gang's error when
every mma since the last zeroing was issued in this attempt. The elements are of the kind the drain checked at its issue
(R418). -/
def State.checkTile (s : State) (o : Op) (k kind m n : Nat) : State :=
  let t := s.tileAt o.ctx o.core k
  let (t2, found) := Tile.check { t with kind := kind } (codeSize m) (codeSize n)
  let s := s.updTile o.ctx o.core k (fun t => { t2 with kind := t.kind })
  match found with
  | .clean => s
  | .corrected => s.countError (.engine o.home (k / 4)) false
  | .failed =>
    let s := s.countError (.engine o.home (k / 4)) true
    match o.gang.bind s.gang? with
    | some g =>
      if g.region.inside && t.stamps.all (fun x => x == stampOf (some g)) then s.charge g.id 5 (some o.home) else s
    | none => s

/-- An element as the output slot gives it (R419, R420). -/
def drainElem (t : Tile) (z : FSlot) (i j : Nat) : Nat :=
  (slotFmt z.kind).sat z.sat (convert (tileFmt t.kind) (slotFmt z.kind) z.rnd (t.elem i j))

/-- The words of 16 columns of a row. -/
def drainRow (t : Tile) (z : FSlot) (i c : Nat) : List PWord :=
  let js := (List.range 16).map (fun x => 16 * c + x)
  let bad (j : Nat) : Bool := t.marks.contains (64 * i + j)
  match z.kind with
  | 1 => (js.map (fun j => (wordsOf 2 (drainElem t z i j)).map (fun w => { w with mark := bad j }))).flatten
  | 2 => js.map (fun j => { PWord.ofNat (drainElem t z i j) with mark := bad j })
  | _ => (List.range 8).map (fun x =>
      let j := 16 * c + 2 * x
      { PWord.ofNat (drainElem t z i j + 2 ^ 16 * drainElem t z i (j + 1)) with mark := bad j || bad (j + 1) })

/-- The bytes of a whole tile. -/
def drainAll (t : Tile) (z : FSlot) (m n : Nat) : List (Byte × Bool) :=
  ((List.range m).map (fun i => ((List.range n).map (fun j =>
    (toBytes (elemBytes z.kind) (drainElem t z i j)).map (fun b => (b, t.marks.contains (64 * i + j))))).flatten)).flatten

/-- A command does its work (R416, R418 to R421). -/
def State.runCmd (s : State) (o : Op) (c : MCmd) : State :=
  match c with
  | .mma _ _ tile sa sb shape tb pattern flush a gang place off stamp =>
    let za := slotOf sa
    let zb := slotOf sb
    let k := shapeK za.kind shape
    let n := shapeN shape
    let bs := s.spRead gang place off (bBytes zb k n)
    let rows := a.map (fun r => rowTerms za k pattern flush r)
    let cols := (List.range n).map (fun j => bColumn zb k n tb flush bs j)
    s.updTile o.ctx o.core tile (fun t => t.mma za zb k rows cols stamp)
  | .zero _ _ tile => s.updTile o.ctx o.core tile (fun t => t.zeroed true)
  | .drain _ _ tile kind m n slot hi clr col dst =>
    let s := s.checkTile o tile kind m n
    let t := { s.tileAt o.ctx o.core tile with kind := kind }
    let z := slotOf slot
    let s := s.updWave o.wave (fun w => dst.lanes.foldl (fun w x =>
      w.land x.1 x.2 (drainRow t z (x.1 + (if hi then 32 else 0)) col)) w)
    if clr then s.updTile o.ctx o.core tile (fun t => t.zeroed true) else s
  | .drainSp _ _ tile kind m n slot clr gang place off =>
    let s := s.checkTile o tile kind m n
    let t := { s.tileAt o.ctx o.core tile with kind := kind }
    let s := s.spWrite gang place off (drainAll t (slotOf slot) (codeSize m) (codeSize n))
    if clr then s.updTile o.ctx o.core tile (fun t => t.zeroed true) else s
  | .prune _ _ dst vals =>
    s.updWave o.wave (fun w => dst.lanes.foldl (fun w x =>
      match lookupBy x.1 vals with
      | some ws => w.land x.1 x.2 ws
      | none => w) w)

def Core.updEngine (c : Core) (e : Nat) (f : Engine → Engine) : Core :=
  { c with engines := (indexed c.engines).map (fun x => if x.1 = e then f x.2 else x.2) }

/-- A command enters an engine's queue (R408). -/
def State.enqueue (s : State) (core e : Nat) (c : MCmd) : State :=
  s.updCore core (fun x => x.updEngine e (fun g => { g with queue := g.queue ++ [c] }))

end Sys2Proof.Machine

namespace Sys2Proof
open Machine

/-! ## Forms (R415, R427) -/

def F2.shape (f : F2) : Nat := f.modAt 11 5

/-- Does a field name s0 to s15? -/
def scalarB (b : Nat) : Bool := decide (0xF0 ≤ b)

def F2.mmaForm (f : F2) (sparse : Bool) : Form :=
  { f.form 2 (decide (f.dN < 8) && decide (f.cN < 8) && scalarB f.bN && shapeOk f.shape && decide (f.aN < 0xC0) &&
      (if sparse then decide (f.modAt 9 2 < 2) else f.modAt 9 2 == 0)) with
    ctrs := [.mx], b := .scalar (f.bN - 0xF0) 1, unit := .engine (some (f.dN / 4))
    mats := [.a f.aN f.tyN f.shape (if sparse then some (f.modAt 9 2) else none)] }

def F2.mzeroForm (f : F2) : Form :=
  { f.form 2 (decide (f.dN < 8) && f.a == 0 && f.b == 0 && f.c == 0 && f.modAt 8 3 == 0 && f.modAt 16 1 == 0 &&
      shapeOk f.shape && f.shape % 2 == 0) with
    ctrs := [.mx], reuse := false, unit := .engine (some (f.dN / 4)) }

def F2.mdrainForm (f : F2) : Form :=
  { f.form 2 (decide (f.aN < 8) && f.b == 0 && decide (f.cN < 4) && f.modAt 10 7 == 0 && decide (f.dN < 0xC0)) with
    ctrs := [.mx], reuse := false, writes := true, unit := .engine (some (f.aN / 4)), mats := [.drain f.dN f.tyN] }

def F2.mdrainSpForm (f : F2) : Form :=
  { f.form 2 (decide (f.aN < 8) && f.d == 0 && f.c == 0 && f.modAt 9 8 == 0 && scalarB f.bN) with
    ctrs := [.mx], reuse := false, b := .scalar (f.bN - 0xF0) 1, unit := .engine (some (f.aN / 4)) }

def F2.mmetaForm (f : F2) : Form :=
  { f.form 2 (decide (f.dN < 0xC0) && decide (f.aN < 0xC0) && f.b == 0 && f.c == 0 && f.modAt 8 1 == 0 &&
      decide (f.modAt 9 2 < 2) && shapeOk f.shape) with
    ctrs := [.mx], writes := true, unit := .engine none
    mats := [.a f.aN f.tyN f.shape none, .a f.dN f.tyN f.shape (some (f.modAt 9 2))] }

def F2.mstatForm (f : F2) : Form :=
  { f.form 2 (decide (f.aN < 8) && f.b == 0 && f.c == 0 && f.tyN == 0 && f.mod == 0 && decide (f.dN < 0xC0)) with
    d := .sel f.dN 1 false, unit := .tile f.aN }

end Sys2Proof

namespace Sys2Proof.Machine

/-! ## Issue -/

/-- Do the kinds of A and B pair (R411)? -/
def kindsPair (a b : Nat) : Bool :=
  (a == 1 && b == 1) || (decide (2 ≤ a) && decide (a ≤ 4) && decide (2 ≤ b) && decide (b ≤ 4)) ||
    ((a == 5 || a == 6) && (b == 5 || b == 6))

/-- Row i of A as it stands in the registers (R412, R414): the words, then the metadata. -/
def aRow (w : Wave) (act : Mask) (reg nw nm h m i : Nat) : List PWord :=
  if i < m ∧ hasLane act (i % 32) then
    let lane := w.lane (i % 32)
    lane.main (reg + i / 32 * nw) nw ++ lane.main (reg + h * nw + i / 32 * nm) nm
  else List.replicate (nw + nm) {}

def aRows (w : Wave) (act : Mask) (z : FSlot) (reg shape : Nat) (pattern : Option Nat) : List (List PWord) :=
  let k := shapeK z.kind shape
  (List.range (shapeM shape)).map (fun i =>
    aRow w act reg (rowWords z k pattern) (metaWords k pattern) (rowBlocks shape) (shapeM shape) i)

/-- A scratchpad span of a matrix form: its cause for every active lane, or its place (R413, R427). -/
def Env.span (env : Env) (b : Pos) (n : Nat) : Except Raised (Nat × Nat × Nat) :=
  let r : Try Loc :=
    match b.val env.w {} with
    | .error c => .error c
    | .ok v =>
      (both (if v % 64 = 0 then .ok () else .error cAlign) (spTry env.gang env.w (v % 2 ^ 32) n)).map (fun x => x.2)
  let at_ : Option Nat := match b.val env.w {} with | .ok v => some (v % 2 ^ 32) | .error _ => none
  match env.eachAt (fun _ _ => at_) (fun _ => false) (fun _ lane => (both (if lane.pure_.isSome then (.error cPurity : Try Unit) else .ok ()) r).map (fun x => x.2)) with
  | .error e => .error e
  | .ok _ =>
    match r with
    | .ok (.sp g p o) => .ok (g, p, o)
    | _ => .error (env.raise cIndex)

/-- Slots, shape and tag of an mma (R411, R416, R427). -/
def mmaOk (za zb : FSlot) (t : Tile) (shape : Nat) (tb : Bool) (reg : Nat) : Bool :=
  kindsPair za.kind zb.kind && t.kind == accKind za.kind && t.m == field shape 3 2 && t.n == field shape 1 2 &&
    !(tb && za.isBlock) && !(za.kind == 1 && reg % 2 == 1)

/-- Words of a range of main registers whose parity is wrong, each by its lane and its register. -/
def Wave.badWords (w : Wave) (reg len : Nat) : List (Nat × Nat) :=
  ((indexed w.lanes).map (fun x => ((List.range len).filter (fun i =>
    (wordAt x.2.v (reg + i)).par && (wordAt x.2.v (reg + i)).mark)).map (fun i => (x.1, reg + i)))).flatten

/-- The A buffer of an engine that holds what a form with the reuse flag names (R417). -/
def Wave.buffered (w : Wave) (e : Nat) (m : MatRange) : Option ABuf :=
  match m with
  | .a reg slot shape pattern => w.abufs.find? (fun b => b.engine == e && b.reg == reg && b.len == (m.range w).2 && b.slot == slot &&
      b.shape == shape && b.pattern == (match pattern with | some p => p + 1 | none => 0))
  | .drain _ _ => none

/-- The wave as a form that takes A from the buffer reads it: a parity error that came after the fill is not met (R417). -/
def Wave.throughBuf (w : Wave) (b : Option ABuf) : Wave :=
  match b with
  | none => w
  | some b => w.mapLanes (fun l lane => { lane with v := (indexed lane.v).map (fun x =>
      if x.2.par && decide (b.reg ≤ x.1) && decide (x.1 < b.reg + b.len) && !b.bad.contains (l, x.1) then { x.2 with mark := false }
      else x.2) })

/-- A form with the reuse flag fills its engine's A buffer (R417). -/
def State.fillABuf (s : State) (w : Wave) (b : ABuf) : State :=
  { s with waves := s.waves.map (fun (x : Wave) =>
      if x.core = w.core then
        let kept := x.abufs.filter (fun y => y.engine != b.engine)
        { x with abufs := if x.id = w.id then { b with bad := w.badWords b.reg b.len } :: kept else kept }
      else x) }

/-- mma and mmas (R416). -/
def State.mmaOp (s : State) (f : F2) (F : Form) (pattern : Option Nat) : Host.Outcome State Fault Refusal :=
  s.run F (fun env s => do
    let za := env.w.slot f.tyN
    let zb := env.w.slot f.cN
    let t := s.tileAt env.w.ctx env.w.core f.dN
    if !mmaOk za zb t f.shape (f.modAt 8 1 == 1) f.aN then .error (env.raise cIllegal)
    else
      let k := shapeK za.kind f.shape
      let (g, p, off) ← env.span F.b (bBytes zb k (shapeN f.shape))
      let rows := aRows env.w env.act za f.aN f.shape pattern
      let (id, s) := s.startOp env.w env.act (some .mx) 0 false .matrix
      let s := s.noteTile env.w.gang env.w.core f.dN
      let len := rowBlocks f.shape * (rowWords za k pattern + metaWords k pattern)
      let s := if f.mod.getLsbD 8 then
          s.fillABuf env.w { engine := f.dN / 4, reg := f.aN, len := len, slot := f.tyN, shape := f.shape,
                             pattern := match pattern with | some p => p + 1 | none => 0 }
        else s
      env.fall (s.enqueue env.w.core (f.dN / 4)
        (.mma id env.w.id f.dN (env.w.slots.getD f.tyN 0) (env.w.slots.getD f.cN 0) f.shape (f.modAt 8 1 == 1) pattern
          env.cx.policy.flush rows g p off (stampOf env.gang))))

def execMma (f : F2) (s : State) : Host.Outcome State Fault Refusal := s.mmaOp f (f.mmaForm false) none

def execMmas (f : F2) (s : State) : Host.Outcome State Fault Refusal := s.mmaOp f (f.mmaForm true) (some (f.modAt 9 2))

/-- mzero (R418): the tag at issue, the elements in engine order. -/
def execMzero (f : F2) (s : State) : Host.Outcome State Fault Refusal :=
  s.run f.mzeroForm (fun env s =>
    let z := env.w.slot f.tyN
    if z.kind = 0 then .error (env.raise cIllegal)
    else
      let s := s.updTile env.w.ctx env.w.core f.dN (fun t =>
        { t with kind := accKind z.kind, m := field f.shape 3 2, n := field f.shape 1 2 })
      let (id, s) := s.startOp env.w env.act (some .mx) 0 false .matrix
      env.fall ((s.noteTile env.w.gang env.w.core f.dN).enqueue env.w.core (f.dN / 4) (.zero id env.w.id f.dN)))

/-- mdrain (R419). -/
def execMdrain (f : F2) (s : State) : Host.Outcome State Fault Refusal :=
  s.run f.mdrainForm (fun env s =>
    let z := env.w.slot f.tyN
    let t := s.tileAt env.w.ctx env.w.core f.aN
    let hi := f.modAt 9 1 == 1
    if z.kind = 0 ∨ z.kind > 4 ∨ t.kind = 0 ∨ (z.kind = 1 ∧ f.dN % 2 = 1) ∨ (hi ∧ t.m < 2) ∨ f.cN ≥ codeSize t.n / 16 then
      .error (env.raise cIllegal)
    else
      let lanes := env.lanes.filter (fun l => decide (l + (if hi then 32 else 0) < codeSize t.m))
      let dst : Dst := { lanes := lanes.map (fun l => (l, Slot.v f.dN)), words := drainWords z.kind }
      let (id, s) := s.startOp env.w env.act (some .mx) f.la.toNat true .matrix
      let s := if f.modAt 8 1 = 1 then s.noteTile env.w.gang env.w.core f.aN else s
      env.fall (s.enqueue env.w.core (f.aN / 4)
        (.drain id env.w.id f.aN t.kind t.m t.n (env.w.slots.getD f.tyN 0) hi (f.modAt 8 1 == 1) f.cN dst)))

/-- mdrain.sp (R420). -/
def execMdrainSp (f : F2) (s : State) : Host.Outcome State Fault Refusal :=
  s.run f.mdrainSpForm (fun env s => do
    let z := env.w.slot f.tyN
    let t := s.tileAt env.w.ctx env.w.core f.aN
    if z.kind = 0 ∨ z.kind > 4 ∨ t.kind = 0 then .error (env.raise cIllegal)
    else
      let (g, p, off) ← env.span f.mdrainSpForm.b (codeSize t.m * codeSize t.n * elemBytes z.kind)
      let (id, s) := s.startOp env.w env.act (some .mx) 0 false .matrix
      let s := if f.modAt 8 1 = 1 then s.noteTile env.w.gang env.w.core f.aN else s
      env.fall (s.enqueue env.w.core (f.aN / 4)
        (.drainSp id env.w.id f.aN t.kind t.m t.n (env.w.slots.getD f.tyN 0) (f.modAt 8 1 == 1) g p off)))

/-! ## mmeta (R421) -/

/-- The rank of a magnitude: a NaN above an infinity above every number. -/
def pruneRank (z : FSlot) (t : Term) : Nat × Dyadic :=
  if z.isBlock then (0, { i := t.q.natAbs, e := 0 })
  else match t.v with
    | .nan => (2, { i := 0, e := 0 })
    | .inf _ => (1, { i := 0, e := 0 })
    | .fin _ m e => (0, { i := m, e := e })

def outranks (a b : Nat × Dyadic) : Bool := decide (a.1 > b.1) || (a.1 == b.1 && Dyadic.lt b.2 a.2)

/-- The positions a group of 4 keeps: the largest, ties to the lower index, in increasing index. -/
def keepOf (z : FSlot) (ns : Nat) (g : List Term) : List Nat :=
  (List.range 4).filter (fun i =>
    let mine := pruneRank z (g.getD i { k := 0 })
    decide (((List.range 4).filter (fun j =>
      let x := pruneRank z (g.getD j { k := 0 })
      outranks x mine || (decide (j < i) && !outranks mine x))).length < ns))

/-- Bits packed low first into k words, with each word's mark. -/
def packWords (bits k : Nat) (bad : Nat → Bool) : List PWord :=
  (List.range k).map (fun i => { PWord.ofNat (bits / 2 ^ (32 * i)) with mark := bad i })

/-- A dense row pruned: its compressed words and its metadata words. With input flushing on, a subnormal BF16 or H16 element
is read as zero (R230). -/
def pruneRow (z : FSlot) (k ns : Nat) (pattern : Nat) (flush : Bool) (row : List PWord) : List PWord × List PWord :=
  let ts := rowTerms z k none flush row
  let keeps := (List.range (k / 4)).map (fun g => (keepOf z ns (slice { k := 0 } ts (4 * g) 4)).map (fun i => (4 * g + i, i)))
  let kept := keeps.flatten
  let metaBits := ((indexed kept).map (fun x => x.2.2 * 2 ^ (2 * x.1))).foldl (· + ·) 0
  let mw := packWords metaBits (metaWords k (some pattern)) (fun _ => false)
  if z.isBlock then
    let wpb := z.mbits + 1
    let kw := ceilDiv (z.mbits * ns) 4
    (((List.range (k / 32)).map (fun b =>
      let ws := (row.drop (b * wpb)).take wpb
      let mine := kept.filter (fun x => x.1 / 32 == b)
      let code (x : Nat) : Nat := wordsVal (ws.drop 1) / 2 ^ (z.mbits * (x % 32)) % 2 ^ z.mbits
      let bits := ((indexed mine).map (fun x => code x.2.1 * 2 ^ (z.mbits * x.1))).foldl (· + ·) 0
      wordAt ws 0 :: packWords bits kw (fun i => (indexed mine).any (fun x =>
        decide (z.mbits * x.1 / 32 ≤ i) && decide (i ≤ (z.mbits * x.1 + z.mbits - 1) / 32) &&
          ((wordAt ws (1 + z.mbits * (x.2.1 % 32) / 32)).mark ||
            (wordAt ws (1 + (z.mbits * (x.2.1 % 32) + z.mbits - 1) / 32)).mark))))).flatten, mw)
  else
    match z.kind with
    | 1 => ((kept.map (fun x => [wordAt row (2 * x.1), wordAt row (2 * x.1 + 1)])).flatten, mw)
    | 2 => (kept.map (fun x => wordAt row x.1), mw)
    | _ =>
      let half (x : Nat) : Nat := (slotFmt z.kind).flush flush (field (wordAt row (x / 2)).val.toNat (16 * (x % 2)) 16)
      let at_ (i : Nat) : Nat := (kept.getD i (0, 0)).1
      ((List.range (kept.length / 2)).map (fun i =>
        { PWord.ofNat (half (at_ (2 * i)) + 2 ^ 16 * half (at_ (2 * i + 1))) with
          mark := (wordAt row (at_ (2 * i) / 2)).mark || (wordAt row (at_ (2 * i + 1) / 2)).mark }), mw)

/-- mmeta: the pruned rows of each active lane, written at the engine's completion. -/
def execMmeta (f : F2) (s : State) : Host.Outcome State Fault Refusal :=
  s.run f.mmetaForm (fun env s =>
    let z := env.w.slot f.tyN
    if z.kind = 0 ∨ (z.kind = 1 ∧ (f.aN % 2 = 1 ∨ f.dN % 2 = 1)) then .error (env.raise cIllegal)
    else
      let p := f.modAt 9 2
      let k := shapeK z.kind f.shape
      let rows := aRows env.w env.act z f.aN f.shape none
      let h := rowBlocks f.shape
      let lanes := env.lanes.filter (fun l => decide (l < shapeM f.shape))
      let vals := lanes.map (fun l =>
        let done := (List.range h).map (fun i => pruneRow z k (keptOf p) p env.cx.policy.flush (rows.getD (l + 32 * i) []))
        (l, (done.map (fun x => x.1)).flatten ++ (done.map (fun x => x.2)).flatten))
      let len := h * (rowWords z k (some p) + metaWords k (some p))
      let dst : Dst := { lanes := lanes.map (fun l => (l, Slot.v f.dN)), words := len }
      let (id, s) := s.startOp env.w env.act (some .mx) f.la.toNat true .matrix
      let e := env.w.partition % 2
      let s := if f.mod.getLsbD 8 then
          s.fillABuf env.w { engine := e, reg := f.aN, len := h * rowWords z k none, slot := f.tyN, shape := f.shape,
                             pattern := 0 }
        else s
      env.fall (s.enqueue env.w.core e (.prune id env.w.id dst vals)))

/-- The status word (R422). -/
def Tile.status (t : Tile) : Nat :=
  2 ^ 24 * t.corr + (if t.ckFail then 2 ^ 11 else 0) + (if t.marks.isEmpty then 0 else 2 ^ 10) + 2 ^ 8 * t.kind +
    2 ^ 4 * t.m + 2 ^ 2 * t.n

def execMstat (f : F2) (s : State) : Host.Outcome State Fault Refusal :=
  s.run f.mstatForm (fun env s =>
    env.vec f.mstatForm false false
      (fun _ _ => .ok [PWord.ofNat (s.tileAt env.w.ctx env.w.core f.aN).status]) s)

/-! ## The engine's events (R408, R411) -/

/-- An engine takes its next command, once what the wave wrote before it has landed (R425). -/
def execMatrixCmdStart (core engine : Nat) (s : State) : Host.Outcome State Fault Refusal :=
  let e := (s.coreAt core).engines.getD engine {}
  match e.running, e.queue with
  | none, c :: rest =>
    match s.op? c.op with
    | some o =>
      if s.canPerform o then
        .next (s.updCore core (fun x => x.updEngine engine (fun _ => { queue := rest, running := some c })))
      else .next s
    | none => .next (s.updCore core (fun x => x.updEngine engine (fun _ => { queue := rest, running := none })))
  | _, _ => .next s

/-- The running command completes; the follow-on of a copy increments the copy's semaphore only now (R452). -/
def State.semAdd (s : State) (ctx core k v : Nat) : State :=
  s.updCtxCore ctx core (fun c => { c with sems := putAt c.sems k (min ((c.sems.getD k 0) + v) (2 ^ 32 - 1)) })

def execMatrixCmdComplete (core engine : Nat) (s : State) : Host.Outcome State Fault Refusal :=
  let e := (s.coreAt core).engines.getD engine {}
  match e.running with
  | none => .next s
  | some c =>
    let s := s.updCore core (fun x => x.updEngine engine (fun g => { g with running := none }))
    match s.op? c.op with
    | none => .next s
    | some o =>
      let s := s.runCmd o c
      let s := match o.body with
        | .follow (some k) _ _ _ _ _ _ _ => s.semAdd o.ctx o.core k 1
        | _ => s
      .next (s.endOp o)

end Sys2Proof.Machine
end

