-- ==== Sys2Proof/Machine/Copy.lean ====
section
/-! DEFINITION. Copies, opcodes 0xA0 to 0xA2 (R448 to R453), and how the copy engine carries them out (R266, R274). -/

namespace Sys2Proof
open Machine

/-! ## Forms -/

/-- A named semaphore (R342). -/
def F2.semName (f : F2) : Option Nat := if f.modAt 15 1 = 1 then some (f.modAt 10 5) else none
def F2.semField (f : F2) : Bool := f.modAt 15 1 == 1 || f.modAt 10 5 == 0

def F3.copyForm (f : F3) (ok : Bool) : Form :=
  { f.w.form 3 (f.w.tyN == 0 && f.w.d == 0 && f.w.semField && ok) with
    ctrs := [.cp], a := .sel f.w.aN 2, b := .sel f.w.bN 2, c := .sel f.w.cN 1, notPure := true }

/-- Destination and source in scratchpad. -/
def F2.dstSp (f : F2) : Bool := f.modAt 9 1 == 1
def F2.srcSp (f : F2) : Bool := f.modAt 8 1 == 1

def F3.cpyForm (f : F3) : Form :=
  { f.copyForm true with region := if f.w.dstSp && f.w.semName.isNone then .fine else .illegal }

/-! ## The follow-on word (R452) -/

end Sys2Proof

namespace Sys2Proof.Machine

def FollowOn.tile (w : FollowOn) : Nat := field w.toNat 29 3
def FollowOn.areg (w : FollowOn) : Nat := field w.toNat 21 8
def FollowOn.aslot (w : FollowOn) : Nat := field w.toNat 18 3
def FollowOn.bslot (w : FollowOn) : Nat := field w.toNat 15 3
def FollowOn.shape (w : FollowOn) : Nat := field w.toNat 10 5
def FollowOn.trans (w : FollowOn) : Bool := bitOf w.toNat 9
def FollowOn.reuse (w : FollowOn) : Bool := bitOf w.toNat 8
def FollowOn.ok (w : FollowOn) : Bool := field w.toNat 0 8 == 0 && decide (w.areg < 0xC0) && shapeOk w.shape
def FollowOn.range (w : FollowOn) : MatRange := .a w.areg w.aslot w.shape none

end Sys2Proof.Machine

namespace Sys2Proof
open Machine

def F3.cpyMxForm (f : F3) : Form :=
  { f.copyForm (f.w.modAt 9 1 == 0 && FollowOn.ok f.imm) with
    ctrs := [.cp, .mx], mats := [FollowOn.range f.imm], region := if f.w.semName.isNone then .fine else .illegal }

def F3.cpyCkForm (f : F3) : Form := { f.copyForm (f.w.modAt 9 1 == 0) with region := .illegal }

end Sys2Proof

namespace Sys2Proof.Machine

/-! ## Issue (R449) -/

/-- The pages a g range touches. -/
def gPages (va n : Nat) : List Nat :=
  if n = 0 then [] else (List.range ((va + n - 1) / pageBytes - va / pageBytes + 1)).map (fun i => va / pageBytes + i)

/-- R263 on every valid page of a g range. -/
def State.gRangeOk (s : State) (env : Env) (k : Access) (va n : Nat) : Try Unit :=
  if va + n > 2 ^ 56 then .error cTranslation
  else match leastCause ((gPages va n).map (fun p =>
      match s.xlate env.cx k (p * pageBytes) with
      | .cause c => some c
      | _ => if s.inLog env.cx.id (p * pageBytes) pageBytes && s.inLog env.cx.id va n then some cPermission else none)) with
    | some c => .error c
    | none => .ok ()

/-- A ck range lies in the context's window (R245, R453). -/
def Env.ckRange (env : Env) (off n : Nat) : Try Unit :=
  match env.cx.window with
  | some (_, size) => if off + n ≤ size then .ok () else .error cPermission
  | none => .error cPermission

/-- Where an end of a copy lies. -/
inductive CopySpace where
  | g | sp | ck
  deriving DecidableEq, Repr

def State.endTry (s : State) (env : Env) (space : CopySpace) (k : Access) (v n : Nat) : Try CopyEnd :=
  match space with
  | .g => (s.gRangeOk env k v n).map (fun _ => .g v)
  | .ck => (env.ckRange v n).map (fun _ => .ck v)
  | .sp => match spTry env.gang env.w (v % 2 ^ 32) n with
    | .ok (.sp g p o) => .ok (.sp g p o)
    | .ok _ => .error cIndex
    | .error c => .error c

/-- A copy as its operands give it: where from, where to, how long. -/
structure CopyArgs where
  src : CopyEnd
  dst : CopyEnd
  n : Nat
  deriving DecidableEq, Repr

/-- The checks of R449 on the lowest active lane's operands. -/
def State.copyTry (s : State) (env : Env) (F : Form) (dsp ssp : CopySpace) (add align dalign : Nat) : Try CopyArgs :=
  match both (F.a.val env.w (env.w.lane env.first)) (both (F.b.val env.w (env.w.lane env.first))
      (F.c.val env.w (env.w.lane env.first))) with
  | .error c => .error c
  | .ok (a, b, c) =>
    let n := (c + add) % 2 ^ 32
    let kind : Access := if dsp = .sp then .engineFill else .engineRead
    (both (if a % align = 0 ∧ b % dalign = 0 ∧ n % align = 0 then .ok () else .error cAlign)
      (both (if n ≤ 2 ^ 30 then .ok () else .error cIndex)
        (both (s.endTry env ssp kind a (min n (2 ^ 30))) (s.endTry env dsp .store b (min n (2 ^ 30)))))).map
      (fun x => { src := x.2.2.1, dst := x.2.2.2, n := n })

/-- The address at which a copy's operands meet a cause (R317): the source's where its own checks fail, else the
destination's. -/
def State.copyAddr (s : State) (env : Env) (F : Form) (dsp ssp : CopySpace) (add align : Nat) : Nat :=
  match F.a.val env.w (env.w.lane env.first), F.b.val env.w (env.w.lane env.first), F.c.val env.w (env.w.lane env.first) with
  | .ok a, .ok b, .ok c =>
    if a % align ≠ 0 then a
    else match s.endTry env ssp (if dsp = .sp then .engineFill else .engineRead) a (min ((c + add) % 2 ^ 32) (2 ^ 30)) with
      | .ok _ => b
      | .error _ => a
  | _, _, _ => 0

/-- The copy of the wave, or the cause for every active lane. -/
def Env.waveTry {α : Type} (env : Env) (addr : Nat) (x : Try α) : Except Raised α :=
  match x with
  | .ok a => .ok a
  | .error c => .error (env.raiseAt addr c)

/-- The issuing core's L1 loses its copies of a g destination (R274, R450). -/
def State.dropDest (s : State) (cx : Ctx) (core : Nat) (d : CopyEnd) (n : Nat) : State :=
  match d with
  | .g va => (gPages va n).foldl (fun s p =>
      let lo := max va (p * pageBytes)
      let hi := min (va + n) ((p + 1) * pageBytes)
      match s.localPa cx .load lo with
      | some pa => s.invalidateWords core pa (pa + (hi - lo))
      | none => s) s
  | _ => s

def Env.copy (env : Env) (f : F3) (F : Form) (dsp ssp : CopySpace) (align : Nat) (s : State) : Res := do
  let x ← env.waveTry (s.copyAddr env F dsp ssp f.imm.toNat align) (s.copyTry env F dsp ssp f.imm.toNat align align)
  let s := s.dropDest env.cx env.w.core x.dst x.n
  env.fall (s.startOp env.w env.act (some .cp) 0 false (.copy x.src x.dst x.n 0 f.w.semName false)).2

def execCpy (f : F3) (s : State) : Host.Outcome State Fault Refusal :=
  s.run f.cpyForm (fun env =>
    env.copy f f.cpyForm (if f.w.dstSp then .sp else .g) (if f.w.srcSp then .sp else .g) 4)

def execCpyCk (f : F3) (s : State) : Host.Outcome State Fault Refusal :=
  s.run f.cpyCkForm (fun env =>
    if f.w.srcSp then env.copy f f.cpyCkForm .g .ck 64 else env.copy f f.cpyCkForm .ck .g 64)

/-- The span of a follow-on's B, at the copy's destination (R452, R413). -/
def Env.followTry (env : Env) (F : Form) (need : Nat) : Try (Nat × Nat × Nat) :=
  match F.b.val env.w (env.w.lane env.first) with
  | .error c => .error c
  | .ok v => match spTry env.gang env.w (v % 2 ^ 32) need with
    | .ok (.sp g p o) => .ok (g, p, o)
    | .ok _ => .error cIndex
    | .error c => .error c

/-- cpy.mx (R452): the copy and its follow-on, each with its counter. The follow-on's slots, shape and tag are checked first,
and its span with the copy's own operands, for the lowest cause (R312). -/
def execCpyMx (f : F3) (s : State) : Host.Outcome State Fault Refusal :=
  s.run f.cpyMxForm (fun env s => do
    let fo : FollowOn := f.imm
    let za := env.w.slot fo.aslot
    let zb := env.w.slot fo.bslot
    if !mmaOk za zb (s.tileAt env.w.ctx env.w.core fo.tile) fo.shape fo.trans fo.areg then .error (env.raise cIllegal)
    else
      let need := bBytes zb (shapeK za.kind fo.shape) (shapeN fo.shape)
      let src : CopySpace := if f.w.srcSp then .sp else .g
      let (x, g, p, o) ← env.waveTry (s.copyAddr env f.cpyMxForm .sp src 0 4)
        (both (s.copyTry env f.cpyMxForm .sp src 0 4 64) (env.followTry f.cpyMxForm need))
      let (id, s) := s.startOp env.w env.act (some .cp) 0 false (.copy x.src x.dst x.n 0 none false)
      env.fall (s.startOp env.w env.e.mask (some .mx) 0 false (.follow f.w.semName id fo env.e.mask g p o false)).2)

/-! ## The transfer (R449, R450, R453) -/

/-- A transfer under way: the words a response brought, whether a write went to another package, whether one failed at the
source (R24), and the units of the destination written so far by clean words alone. -/
structure Transfer where
  s : State
  wire : List PWord
  wrote : Bool
  lost : Bool
  bad : List Nat
  deriving DecidableEq, Repr

/-- Why a transfer stops. -/
inductive Halted where
  | done
  | page (va : Nat)
  | fetch (pkg pa n : Nat)
  deriving DecidableEq, Repr

/-- A word of the context's tier window, whose place is an offset in the tier (R82). -/
def Ctx.tierPa (cx : Ctx) (off : Nat) : Nat := tierBase + (cx.window.getD (0, 0)).1 + off

/-- A word at the source: now, on a page not there, or at another package. -/
inductive CopyRead where
  | word (w : PWord) (pt : Option Nat)
  | page (va : Nat)
  | far (pkg pa : Nat)
  deriving DecidableEq, Repr

def State.copyRead (s : State) (cx : Ctx) (e : CopyEnd) (fill : Bool) (at_ : Nat) : CopyRead :=
  match e with
  | .sp g p off => .word (wordAt (spWords (s.spRead g p (off + at_) 4) 4) 0) none
  | .ck off => .word (s.homeWord (cx.tierPa (off + at_))) none
  | .g va =>
    match s.xlate cx (if fill then .engineFill else .engineRead) (va + at_) with
    | .ok (.home pa) pt _ =>
      let w := s.current pa
      if pt && w.mark then .word {} (some (va + at_)) else .word w none
    | .ok (.remote pkg pa) _ _ => .far pkg pa
    | _ => .page (va + at_)

/-- Where a word of a copy went: to this package, to another, or nowhere, since no relay leads there. -/
inductive Wrote where
  | here | far | lost
  deriving DecidableEq, Repr

/-- A word at the destination; `none`: its page is not there. -/
def State.copyWrite (s : State) (o : Op) (cx : Ctx) (e : CopyEnd) (at_ : Nat) (w : PWord) : Option (Wrote × State) :=
  match e with
  | .sp g p off => some (.here, s.spWrite g p (off + at_) ((toBytes 4 w.val.toNat).map (fun b => (b, w.mark))))
  | .ck off => some (.here, s.layHome (putsOfWord (cx.tierPa (off + at_)) w))
  | .g va =>
    match s.xlate cx .store (va + at_) with
    | .ok (.home pa) _ _ => some (.here, s.writeMem (some cx.id) (putsOfWord pa w))
    | .ok (.remote pkg pa) _ _ =>
      if s.dev.rmap.routes s.dev.pkg pkg then some (.far, s.sendRequest o.id pkg pa (.write 4 [WireWord.ofP w]))
      else some (.lost, s)
    | _ => none

/-- Bytes of a poison unit at a destination. -/
def CopyEnd.unit : CopyEnd → Nat
  | .sp _ _ _ => 8
  | _ => 64

def CopyEnd.base : CopyEnd → Nat
  | .sp _ _ off => off
  | .ck off => off
  | .g va => va

/-- Is a destination on another package, so that a source there is asked for word by word? -/
def State.dstFar (s : State) (cx : Ctx) (e : CopyEnd) (at_ : Nat) : Bool :=
  match e with
  | .g va => match s.xlate cx .store (va + at_) with
    | .ok (.remote _ _) _ _ => true
    | _ => false
  | _ => false

/-- The words of a copy in increasing order, as far as they can be moved: how many bytes are done, and why it stopped. -/
def moveWords (o : Op) (cx : Ctx) (src dst : CopyEnd) (n : Nat) (fill : Bool) :
    Nat → Nat → Transfer → Transfer × Nat × Halted
  | 0, at_, t => (t, at_, .done)
  | fuel + 1, at_, t =>
    let put (t : Transfer) (w : PWord) : Transfer × Nat × Halted :=
      match t.s.copyWrite o cx dst at_ w with
      | none => (t, at_, .page (dst.base + at_))
      | some (went, s) =>
        moveWords o cx src dst n fill fuel (at_ + 4)
          { t with s := s, wrote := t.wrote || went == .far, lost := t.lost || went == .lost
                   bad := if w.mark then addSet ((dst.base + at_) / dst.unit) t.bad else t.bad }
    match t.s.copyRead cx src fill at_ with
    | .page va => (t, at_, .page va)
    | .word w pt =>
      put { t with s := match pt with
        | some va => if va % 64 = 0 ∨ at_ = 0 then t.s.poisonReport o.ctx (t.s.gangIndex o.gang) 3 (va / 64 * 64) else t.s
        | none => t.s } w
    | .far pkg pa =>
      if !t.s.dev.rmap.routes t.s.dev.pkg pkg then put t { mark := true }
      else match t.wire with
      | w :: rest => put { t with wire := rest } w
      | [] =>
        let left := min (n - at_) (pageBytes - pa % pageBytes)
        (t, at_, .fetch pkg pa (if t.s.dstFar cx dst at_ then 4 else left))

/-- Units of the destination that clean words covered whole lose their marks (R532). -/
def State.clearCovered (s : State) (cx : Ctx) (dst : CopyEnd) (lo hi : Nat) (bad : List Nat) : State :=
  let u := dst.unit
  let first := ceilDiv (dst.base + lo) u
  let units := ((List.range ((dst.base + hi) / u - first)).map (fun i => first + i)).filter (fun k => !bad.contains k)
  match dst with
  | .sp g p _ => s.updGang g (fun g => g.updPlace p (fun p => { p with marks := p.marks.filter (fun k => !units.contains k) }))
  | .ck _ => units.foldl (fun s k => { s with poison := delSet (cx.tierPa (k * 64) / 64) s.poison }) s
  | .g _ => units.foldl (fun s k => match s.localPa cx .load (k * 64) with
      | some pa => { s with poison := delSet (pa / 64) s.poison }
      | none => s) s

/-- A copy ends: a named semaphore rises, and its counter falls (R449). -/
def State.endCopy (s : State) (o : Op) (sem : Option Nat) : State :=
  (match sem with
    | some k => s.semAdd o.ctx o.core k 1
    | none => s).endOp o

/-- The next words of a copy are moved, as many as `fuel` allows: the issuing core's copies of what they wrote go (R270, R274),
and a word that no relay leads to is lost at once (R24). -/
def State.moveCopy (s : State) (o : Op) (cx : Ctx) (src dst : CopyEnd) (n done fuel : Nat) (wrote : Bool) (wire : List PWord) :
    Transfer × Nat × Halted :=
  let fill := match dst with | .sp _ _ _ => true | _ => false
  let (t, at_, why) := moveWords o cx src dst n fill fuel done { s := s, wire := wire, wrote := wrote, lost := false, bad := [] }
  let s := t.s.clearCovered cx dst done at_ t.bad
  let s := match dst with
    | .g va => s.dropDest cx o.core (.g (va + done)) (at_ - done)
    | _ => s
  ({ t with s := if t.lost then s.loseAccess o else s }, at_, why)

/-- THE COPY ENGINE GOES ON WITH A COPY: to its end, to a page that is not there (a page request, R266), or to data at
another package, for which it sends. -/
def State.runCopy (s : State) (o : Op) (wire : List PWord) : State :=
  match o.body, s.ctxFor o.gang o.ctx with
  | .copy src dst n done sem wrote, some cx =>
    if !s.canPerform o then s
    else
      let (t, at_, why) := s.moveCopy o cx src dst n done ((n - done) / 4) wrote wire
      let s := t.s
      let step (wait page : Option Nat) (s : State) : State :=
        s.updOp o.id (fun o => { o with body := .copy src dst n at_ sem t.wrote, waitSince := wait, pageSince := page })
      match why with
      | .done => if t.wrote then step (some s.time) none s else s.endCopy o sem
      | .page va =>
        (step none (if o.pageSince.isSome && at_ = done then o.pageSince else some s.time) s).requestPage o.ctx 5
          (s.gangIndex o.gang) va
      | .fetch pkg pa k =>
        step (some s.time) none
          ((List.range (k / 4)).foldl (fun s i => s.sendRequest o.id pkg (pa + 4 * i) (.read 4)) s)
  | _, _ => s

/-- A copy's last write is performed (R449). -/
def execCopyComplete (op : Nat) (s : State) : Host.Outcome State Fault Refusal :=
  .next (match s.op? op with
    | some o => if o.body.isCopy && o.waitSince.isNone then s.runCopy o [] else s
    | none => s)

/-- Bytes a copy has not written become poisoned (R266), on another package by a write of marked words. -/
def State.poisonRest (s : State) (cx : Ctx) (dst : CopyEnd) (n done : Nat) : State :=
  (List.range ((n - done) / 4)).foldl (fun s i =>
    let at_ := done + 4 * i
    match dst with
    | .g va =>
      match s.xlate cx .store (va + at_) with
      | .ok (.home pa) _ _ => s.writeMem (some cx.id) (putsOfWord pa { (s.current pa) with mark := true })
      | .ok (.remote pkg pa) _ _ => s.sendRequest 0 pkg pa (.write 4 [{ val := 0, mark := true }])
      | _ => s
    | .ck off => { s with poison := addSet (cx.tierPa (off + at_) / 64) s.poison }
    | .sp g p off =>
      let w := wordAt (spWords (s.spRead g p (off + at_) 4) 4) 0
      s.spWrite g p (off + at_) ((toBytes 4 w.val.toNat).map (fun b => (b, true)))) s

/-- An engine's operation is given up (R266): the loss is its gang's error. -/
def State.giveUp (s : State) (o : Op) : State :=
  match o.body, s.ctxFor o.gang o.ctx with
  | .copy _ dst n done sem _, some cx => ((s.poisonRest cx dst n done).endCopy o sem).loseAccess o
  | .join va _ launch gang, _ => (s.dropOp o.id).lostDecrement o.ctx launch gang 8 va
  | _, _ => s

/-- Is the page an engine waits for still not there? -/
def State.stillWaiting (s : State) (o : Op) : Bool :=
  match o.pageSince with
  | some t => decide (t + 100000000 ≤ s.time)
  | none => false

/-! ## Other packages (R19, R24, R258) -/

/-- Is everything of a copy on its way? -/
def Op.copyOut (o : Op) : Bool :=
  match o.body with
  | .copy _ _ n done _ wrote => wrote && done == n
  | _ => false

def Op.copySem (o : Op) : Option Nat :=
  match o.body with
  | .copy _ _ _ _ sem _ => sem
  | _ => none

/-- A remote access is performed (R19, R24, R258): a write that failed, or an atomic without a value, is its gang's error.
Spawns an overflow still holds may then go their way (R284). -/
def State.answered (s : State) (o : Op) (lost : Bool) (wire : List PWord) : State :=
  let t := s.perform o false wire
  let t := if lost && !o.body.returns then t.loseAccess o else t
  match o.gang with
  | some g => t.overflowSpawns g
  | none => t

/-- A response returns within the 50 µs of R19: an operation's remote accesses are performed with it, and a copy goes on with
its words; the latency goes to the monitors of its core's die (R331, log 117). A later one is dropped. -/
def execRemoteResponse (op : Nat) (words : List WireWord) (s : State) : Host.Outcome State Fault Refusal :=
  .next (match s.op? op with
    | some o =>
      let s0 := s
      let s := s.sample (dieOf o.home) 10 (s.time - o.waitSince.getD s.time)
      if !o.waitSince.any (fun t => decide (s.time < t + 50000)) then s0
      else if o.body.isCopy then
        if o.copyOut then s.endCopy o o.copySem else s.runCopy { o with waitSince := none } (words.map WireWord.toP)
      else if o.body.isRemote && s.canPerform o then s.answered o (!o.cut.isEmpty) (words.map WireWord.toP)
      else s0
    | none => s)

/-- The time-out of a remote access, 50 µs after its issue at the port, or at once where no relay serves the pod (R19,
R24): words that were asked for arrive poisoned, writes are lost. -/
def execRemoteTimeout (op : Nat) (s : State) : Host.Outcome State Fault Refusal :=
  .next (match s.op? op with
    | some o =>
      match o.waitSince with
      | some t =>
        if !(decide (t + 50000 ≤ s.time) || (!o.body.isCopy && o.unroutable)) || !s.canPerform o then s
        else if o.body.isCopy then
          if o.copyOut then (s.endCopy o o.copySem).loseAccess o
          else match o.body with
            | .copy _ _ n done _ _ => s.runCopy { o with waitSince := none } (List.replicate ((n - done) / 4) { mark := true })
            | _ => s
        else if !o.body.isRemote then s
        else s.answered o true []
      | none => s
    | none => s)

/-! ## The follow-on (R452) -/

/-- The copy is done: the follow-on takes its place in its engine, also where its context waits in a bank meanwhile (R112),
reading A now. -/
def execCpyMxFollowOn (op : Nat) (s : State) : Host.Outcome State Fault Refusal :=
  .next (match s.op? op with
    | none => s
    | some o =>
      match o.body, s.wave? o.wave, s.ctxFor o.gang o.ctx with
      | .follow sem copy fo lanes g p off false, some w, some cx =>
        let e := fo.tile / 4
        if (s.op? copy).isSome || ((s.coreAt o.home).engines.getD e {}).queue.length ≥ 8 then s
        else
          let za := w.slot fo.aslot
          let w := w.throughBuf (if fo.reuse then w.buffered e fo.range else none)
          let rows := aRows w lanes za fo.areg fo.shape none
          let s := s.updOp op (fun o => { o with body := .follow sem copy fo lanes g p off true })
          let s := s.noteTile o.gang o.core fo.tile
          let s := if fo.reuse then
              s.fillABuf w { engine := e, reg := fo.areg, len := (fo.range.range w).2, slot := fo.aslot, shape := fo.shape,
                             pattern := 0 }
            else s
          s.enqueue o.home e (.mma op w.id fo.tile (w.slots.getD fo.aslot 0) (w.slots.getD fo.bslot 0) fo.shape fo.trans
            none cx.policy.flush rows g p off (stampOf (o.gang.bind s.gang?)))
      | _, _, _ => s)

end Sys2Proof.Machine
end

