-- ==== Sys2Proof/Machine/Sync.lean ====
section
/-! DEFINITION. Synchronisation, opcodes 0xA3 to 0xA7: counters, semaphores, barriers, fences and bank modes (R183 to
R187, R247, R271 to R274, R454 to R458), and the events that end their waits. -/

namespace Sys2Proof
open Machine

def F2.waitForm (f : F2) : Form :=
  { f.form 3 (f.tyN == 0 && f.d == 0 && f.a == 0 && f.mod == 0 && decide (f.bN < 64) && decide (f.cN < 64) && f.c != 0) with
    need := .counts f.cN f.bN }

/-- v is an immediate in C, or A's (R455). -/
def F2.semForm (f : F2) : Form :=
  let imm := f.modAt 8 1 == 1
  { f.form 3 (f.tyN == 0 && f.d == 0 && f.b == 0 && f.modAt 9 1 == 0 && f.modAt 15 1 == 1 &&
      (if imm then f.a == 0 && !f.mod.getLsbD 8 else f.c == 0)) with
    a := if imm then .imm f.cN 1 else .sel f.aN 1, notTask := true, notPure := true }
def F2.semGive (f : F2) : Form := { f.semForm with need := .release, region := .illegal }

def F2.barForm (f : F2) : Form :=
  { f.form 3 (f.tyN == 0 && f.d == 0 && f.a == 0 && f.b == 0 && f.mod == 0 && (decide (f.cN < 64) || f.cN == 64)) with
    notTask := true, notPure := true }
def F2.barGive (f : F2) : Form := { f.barForm with need := .arrival f.cN }

def F2.fenceForm (f : F2) (need : Need) : Form :=
  { f.form 3 (f.tyN == 0 && f.d == 0 && f.a == 0 && f.b == 0 && f.c == 0 && f.mod == 0) with need := need }

def F2.sramForm (f : F2) : Form :=
  { f.form 3 (f.tyN == 0 && f.a == 0 && f.b == 0 && decide (f.cN < 2) && f.modAt 10 7 == 0 && f.modAt 8 2 != 3) with
    d := .sel f.dN 1 false, region := .illegalOpen, notTask := true, notPure := true }

end Sys2Proof

namespace Sys2Proof.Machine

/-! ## Waits that block an entry -/

/-- The entry waits at its instruction; where it will go afterwards must be a header (R334, R338). -/
def Env.block (env : Env) (b : Block) (s : State) : Res :=
  if env.is.last && !env.headers.contains env.is.next then
    .error (raisedOf (env.badTargets (env.falls env.e.mask)))
  else env.stay b s

/-! ## wait (R454) -/

/-- The wait is its readiness. -/
def execWait (f : F2) (s : State) : Host.Outcome State Fault Refusal :=
  s.run f.waitForm (fun env => env.fall)

/-! ## Semaphores (R455) -/

/-- v, once for the wave. -/
def Env.semVal (env : Env) (F : Form) : Except Raised Nat :=
  match F.a.val env.w (env.w.lane env.first) with
  | .ok v => .ok v
  | .error c => .error (env.raise c)

def State.sem (s : State) (ctx core k : Nat) : Nat := (s.ctxCoreAt ctx core).sems.getD k 0
def State.setSem (s : State) (ctx core k v : Nat) : State :=
  s.updCtxCore ctx core (fun c => { c with sems := putAt c.sems k v })

def execSemInc (f : F2) (s : State) : Host.Outcome State Fault Refusal :=
  s.run f.semGive (fun env s => do
    let v ← env.semVal f.semGive
    let k := f.modAt 10 5
    env.fall (s.setSem env.w.ctx env.w.core k (min (s.sem env.w.ctx env.w.core k + v) (2 ^ 32 - 1))))

def execSemSet (f : F2) (s : State) : Host.Outcome State Fault Refusal :=
  s.run f.semGive (fun env s => do
    let v ← env.semVal f.semGive
    env.fall (s.setSem env.w.ctx env.w.core (f.modAt 10 5) v))

/-- The waiters on a semaphore, earliest first. -/
def State.waitersOn (s : State) (ctx core k : Nat) : List Waiter :=
  ((s.ctxCoreAt ctx core).waiters.filter (fun x => x.1 == k)).map (fun x => x.2)

def execSemWait (f : F2) (s : State) : Host.Outcome State Fault Refusal :=
  s.run f.semForm (fun env s => do
    let v ← env.semVal f.semForm
    let k := f.modAt 10 5
    let have_ := s.sem env.w.ctx env.w.core k
    if (s.waitersOn env.w.ctx env.w.core k).isEmpty && decide (v ≤ have_) then
      env.fall ((s.setSem env.w.ctx env.w.core k (have_ - v)).acquire env.w.core)
    else
      let joins := env.w.frontier.any (fun e =>
        e.pc == env.is.pc && e.depth == env.is.depth && e.block.sameKind (.sem k v))
      let s := if joins then s
        else s.updCtxCore env.w.ctx env.w.core (fun c =>
          { c with waiters := c.waiters ++ [(k, { wave := env.w.id, pc := env.is.pc, depth := env.is.depth, v := v })] })
      env.block (.sem k v) s)

/-- The first waiter on a semaphore finds its count (R455). -/
def execSemWaitPass (ctx core sem : Nat) (s : State) : Host.Outcome State Fault Refusal :=
  .next (match s.waitersOn ctx core sem with
    | [] => s
    | x :: _ =>
      let n := s.sem ctx core sem
      if n < x.v then s
      else
        let s := s.setSem ctx core sem (n - x.v)
        let s := s.updCtxCore ctx core (fun c => { c with waiters := c.waiters.erase (sem, x) })
        let mine (e : Entry) : Bool :=
          e.pc == x.pc && e.depth == x.depth && (match e.block with | .sem k _ => k == sem | _ => false)
        (s.updWave x.wave (fun w => w.freeEntries 3 2 mine)).acquire core)

/-! ## Barriers (R183 to R187, R273, R456) -/

/-- The barrier C names for a wave. -/
def barIdOf (w : Wave) (c : Nat) : BarId := if c = 64 then .gang else .named w.group c

def Gang.barrier? (g : Gang) (b : BarId) : Option Barrier :=
  match b with
  | .gang => some g.bar
  | .named lin n => (g.group? lin).bind (fun r => r.bars[n]?)

def Gang.updBarrier (g : Gang) (b : BarId) (f : Barrier → Barrier) : Gang :=
  match b with
  | .gang => { g with bar := f g.bar }
  | .named lin n => g.updGroup lin (fun r =>
      { r with bars := (indexed r.bars).map (fun x => if x.1 = n then f x.2 else x.2) })

/-- Has a wave arrived in the current phase of the barrier C names? -/
def State.hasArrived (s : State) (w : Wave) (c : Nat) : Bool :=
  match (w.gang.bind s.gang?).bind (fun g => g.barrier? (barIdOf w c)) with
  | some b => b.arrived.contains w.id
  | none => false

/-- A wave's arrived flag is set. -/
def State.arriveAt (s : State) (w : Wave) (b : BarId) : State :=
  match w.gang with
  | some g => s.updGang g (fun g => g.updBarrier b (fun x => { x with arrived := addSet w.id x.arrived }))
  | none => s

/-- Does the barrier join one core alone, whose L1 its participants share (R273)? -/
def Gang.oneCore (g : Gang) (b : BarId) : Bool :=
  match b with
  | .named lin _ => (match g.group? lin with | some r => r.places.length ≤ 1 | none => true)
  | .gang => g.groups.all (fun r => r.places.length ≤ 1) && g.groups.length ≤ 1

/-- The barrier a form names, if its group has it. -/
def Env.barOk (env : Env) (f : F2) : Except Raised (Gang × BarId) :=
  match env.gang with
  | none => .error (env.raise cIllegal)
  | some g =>
    let b := barIdOf env.w f.cN
    if (g.barrier? b).isSome then .ok (g, b) else .error (env.raise cIllegal)

/-- After a phase: an acquire, free where the barrier joins one core. -/
def State.barAcquire (s : State) (g : Gang) (b : BarId) (core : Nat) : State :=
  if g.oneCore b then s else s.acquire core

def execBarArrive (f : F2) (s : State) : Host.Outcome State Fault Refusal :=
  s.run f.barGive (fun env s => do
    let (_, b) ← env.barOk f
    env.fall (s.arriveAt env.w b))

def execBarWait (f : F2) (s : State) : Host.Outcome State Fault Refusal :=
  s.run f.barForm (fun env s => do
    let (g, b) ← env.barOk f
    if s.hasArrived env.w f.cN then env.block (.barrier b) s
    else env.fall (s.barAcquire g b env.w.core))

def execBarSync (f : F2) (s : State) : Host.Outcome State Fault Refusal :=
  s.run f.barGive (fun env s => do
    let (_, b) ← env.barOk f
    env.block (.barrier b) (s.arriveAt env.w b))

/-- The waves that take part in a barrier and live. -/
def State.participants (s : State) (gang : Nat) (b : BarId) : List Wave :=
  s.waves.filter (fun w => w.gang == some gang && !w.ended && (match b with | .named lin _ => w.group == lin | .gang => true))

/-- Every live participant has arrived: the phase releases (R186, R187). -/
def execBarrierRelease (gang : Nat) (bar : BarId) (s : State) : Host.Outcome State Fault Refusal :=
  .next (match s.gang? gang with
    | none => s
    | some g =>
      match g.barrier? bar with
      | none => s
      | some x =>
        let ws := s.participants gang bar
        if x.arrived.isEmpty || !ws.all (fun w => x.arrived.contains w.id) then s
        else
          let waits (e : Entry) : Bool := e.block == .barrier bar
          let cores := (ws.filter (fun w => (w.frontier ++ w.heldEntries).any waits)).foldl (fun cs w => addSet w.core cs) []
          let s := s.updGang gang (fun g => g.updBarrier bar (fun _ => {}))
          let s := { s with waves := s.waves.map (fun (w : Wave) =>
            if w.gang = some gang then w.freeEntries 3 2 waits else w) }
          cores.foldl (fun s c => s.barAcquire g bar c) s)

/-! ## Fences (R271, R272, R457) -/

/-- fence.rel: later stores and atomics of the threads wait for what it waits for. -/
def State.raiseFence (s : State) (env : Env) : State :=
  ((s.startOp env.w env.act none 0 false .fence).2).dropFences

def execFenceAcq (f : F2) (s : State) : Host.Outcome State Fault Refusal :=
  s.run (f.fenceForm .loads) (fun env s => env.fall (s.acquire env.w.core))

def execFenceRel (f : F2) (s : State) : Host.Outcome State Fault Refusal :=
  s.run (f.fenceForm .none) (fun env s => env.fall (s.raiseFence env))

/-- fence.ar: it issues when what a release and an acquire wait for has come, since its acquire follows its release (R272). -/
def execFenceAr (f : F2) (s : State) : Host.Outcome State Fault Refusal :=
  s.run (f.fenceForm .both) (fun env s => env.fall (s.acquire env.w.core))

/-! ## Bank modes (R247, R458) -/

/-- Cache banks of a core that hold no pinned line. Where pinned lines stand the spec leaves to replacement: the model
has them in the lowest-numbered cache banks (log 27). -/
def State.claimable (s : State) (core : Nat) : List Nat :=
  let ls := s.coreLines core false
  let deep := ((List.range 512).map (fun k => (ls.filter (fun n => n.line % 512 == k)).length)).foldl max 0
  (s.cacheBanks core).drop deep

/-- A place loses its last bank of a mode: what it held is gone. -/
def Place.dropBank (p : Place) (fifo : Bool) : Option (Nat × Place) :=
  if fifo then
    match p.fifoBanks.getLast? with
    | none => none
    | some b => some (b, { p with fifoBanks := p.fifoBanks.dropLast, fifos := p.fifos.take (p.fifoBanks.length - 1) })
  else
    match p.spBanks.getLast? with
    | none => none
    | some b =>
      let size := 65536 * (p.spBanks.length - 1)
      some (b, { p with
        spBanks := p.spBanks.dropLast
        sp := p.sp.filter (fun c => decide (c.1 < size))
        marks := p.marks.filter (fun u => decide (u * 8 < size))
        journalled := p.journalled.filter (fun n => decide (n * 128 < size)) })

/-- A bank is appended, cleared and empty, whatever landed at its offsets since a bank left them. -/
def Place.addBank (p : Place) (fifo : Bool) (b : Nat) : Place :=
  if fifo then { p with fifoBanks := p.fifoBanks ++ [b], fifos := slice [] p.fifos 0 p.fifoBanks.length ++ [[]] }
  else
    let size := 65536 * p.spBanks.length
    { p with
      spBanks := p.spBanks ++ [b]
      sp := p.sp.filter (fun c => decide (c.1 < size))
      marks := p.marks.filter (fun u => decide (u * 8 < size)) }

/-- The change of one place; none where it cannot be. -/
def State.changePlace (s : State) (p : Place) (op : Nat) (fifo : Bool) : Option Place :=
  match op with
  | 0 =>
    if p.spBanks.length + p.fifoBanks.length ≥ 28 || (s.cacheBanks p.core).length ≤ 4 then none
    else ((s.claimable p.core).getLast?).map (fun b => p.addBank fifo b)
  | 1 => (p.dropBank fifo).map (fun x => x.2)
  | _ => (p.dropBank (!fifo)).map (fun x => x.2.addBank fifo x.1)

/-- A group's banks change on every core it spans, or nothing does: the status. A claim first writes back the dirty words of the
banks it takes, which releases them (log 27). -/
def State.changeBanks (s : State) (g : Gang) (lin op : Nat) (fifo : Bool) : Nat × State :=
  match g.group? lin with
  | none => (1, s)
  | some r =>
    let ps := r.places.map (fun p => s.changePlace p op fifo)
    if ps.all (fun p => p.isSome) then
      let s := if op = 0 then r.places.foldl (fun s p => s.writeBackL1 p.core) s else s
      (0, s.updGang g.id (fun g => g.updGroup lin (fun r => { r with places := ps.filterMap id })))
    else (if op = 0 then 1 else 2, s)

/-- The banks change as the form issues; D waits for the change to complete. -/
def execSramMode (f : F2) (s : State) : Host.Outcome State Fault Refusal :=
  s.run f.sramForm (fun env s => do
    match env.gang with
    | none => .error (env.raise cIllegal)
    | some g =>
      let rs ← env.each (fun _ lane => f.sramForm.d.slot env.w.regs lane)
      let (status, s) := s.changeBanks g env.w.group (f.modAt 8 2) (f.cN == 1)
      env.fall (s.startOp env.w env.act none 0 false (.sramMode { lanes := rs, words := 1 } status)).2)

/-- The change completes, those of one group in issue order. -/
def execSramModeChangeDone (op : Nat) (s : State) : Host.Outcome State Fault Refusal :=
  .next (match s.op? op with
    | some o =>
      match o.body with
      | .sramMode d status =>
        ((s.updWave o.wave (fun w => d.lanes.foldl (fun w x => w.land x.1 x.2 [PWord.ofNat status]) w))).endOp o
      | _ => s
    | none => s)

end Sys2Proof.Machine
end

