-- ==== Sys2Proof/Machine/Regions.lean ====
section
/-! DEFINITION. Regions: rgn.open, rgn.commit, rgn.abort and rgn.stat (R279 to R282, R473 to R476), the snapshot (R290,
R292), the commit (R293 to R296), and rollback and replay (R297 to R302). -/

namespace Sys2Proof
open Machine

/-- The four forms name nothing but C or a target. -/
def F2.rgnForm (f : F2) (ok : Bool) : Form :=
  { f.form 5 (f.tyN == 0 && f.a == 0 && f.b == 0 && f.mod == 0 && ok) with notPure := true }

def F2.rgnOpenForm (f : F2) : Form :=
  { f.rgnForm (f.d == 0 && decide (f.cN ≤ 192)) with resume := true, need := .idle true, region := .illegalOpen }
def F2.rgnCommitForm (f : F2) : Form := { f.rgnForm (f.d == 0 && f.c == 0) with need := .idle false }
def F3.rgnAbortForm (f : F3) : Form := f.w.rgnForm (f.w.d == 0 && f.w.c == 0)
def F2.rgnStatForm (f : F2) : Form := { f.rgnForm (decide (f.cN < 4)) with d := .sel f.dN 1 false }

end Sys2Proof

namespace Sys2Proof.Machine

/-! ## rgn.open, rgn.commit (R279, R280, R473, R474) -/

/-- The gang of a kernel that may use regions. -/
def Env.regionGang (env : Env) (s : State) : Except Raised Gang :=
  match env.gang, s.kernelOf env.w with
  | some g, some h => if bitOf h.flags 0 && !env.w.task then .ok g else .error (env.raise cIllegal)
  | _, _ => .error (env.raise cIllegal)

/-- A wave's live-in count, kept until the gang is released. -/
def Region.liveIn (r : Region) (w : Wave) (n : Nat) (e : Entry) : Region :=
  { r with snaps := r.snaps.filter (fun x => x.wave != w.id) ++
      [{ wave := w.id, n := n, scalars := [], lanes := [], entry := e }] }

/-- The entry waits at rgn.open for the wave's others, the wave for the gang's. -/
def execRgnOpen (f : F2) (s : State) : Host.Outcome State Fault Refusal :=
  s.run f.rgnOpenForm (fun env s => do
    if env.w.task then .error (env.raise cRegion)
    let g ← env.regionGang s
    if f.cN > env.w.regs then .error (env.raise cIllegal)
    else if !env.w.queuesEmpty then .error (env.raise cIllegal)
    else
      let s ← env.block .regionOpen s
      .ok ((s.updRegion g.id (fun r => r.liveIn env.w f.cN env.e)).noteArrival env.w.id))

def execRgnCommit (f : F2) (s : State) : Host.Outcome State Fault Refusal :=
  s.run f.rgnCommitForm (fun env s => do
    let g ← env.regionGang s
    if g.region.st = 2 ∨ g.region.st = 3 ∨ g.region.st = 4 then
      let s ← env.block .regionCommit s
      .ok (s.noteArrival env.w.id)
    else .error (env.raise cIllegal))

/-! ## rgn.abort, rgn.stat (R475, R476) -/

/-- The earliest abort counts, of one moment the one with the lowest KEY: (target, KEY, moment). -/
def Region.noteAbort (r : Region) (target key time : Nat) : Region :=
  match r.abort with
  | none => { r with abort := some (target, key, time) }
  | some (_, k, t) => if t = time ∧ key < k then { r with abort := some (target, key, time) } else r

def execRgnAbort (f : F3) (s : State) : Host.Outcome State Fault Refusal :=
  s.run f.rgnAbortForm (fun env s =>
    let target := wrap 56 ((env.is.pc : Int) + toSigned 32 f.imm.toNat)
    match env.gang with
    | none => .error (env.raise cIllegal)
    | some g =>
      if g.region.st < 2 then .error (env.raise cIllegal)
      else if !env.headers.contains target then .error (raisedOf (env.lanes.map (fun l => (l, cTarget))))
      else
        let s := if g.region.replayable then s.updRegion g.id (fun r => r.noteAbort target (env.key env.first) s.time)
          else
            let d : Doom := { source := 0, core := none, cause := 0, reason := 1, kill := true }
            s.updGang g.id (fun g => { g with doom := some d })
        env.stay .regionOpen s)

/-- sr.region (R282). -/
def Region.word (r : Region) : Nat :=
  r.region % 2 ^ 24 * 2 ^ 8 + r.attempt * 2 ^ 4 + (if r.spilled then 8 else 0) + r.st

def State.regionStat (s : State) (w : Wave) (r : Region) (i : Nat) : Nat :=
  match i with
  | 0 => r.word
  | 1 => if r.inside then r.used else 0
  | 2 => if r.inside then (s.coreLines w.core true).length else 0
  | _ => if r.inside then
      min 256 (((s.gangs.map (fun g => g.region.deferred)).flatten.filter (fun d => d.core == w.core)).length) else 0

def execRgnStat (f : F2) (s : State) : Host.Outcome State Fault Refusal :=
  s.run f.rgnStatForm (fun env => env.vec f.rgnStatForm false false
    (fun _ _ => .ok [PWord.ofNat (s.regionStat env.w env.region f.cN)]))

/-! ## Opening (R290, R292) -/

/-- The waves of a gang that live. -/
def State.gangWaves (s : State) (gang : Nat) : List Wave :=
  s.waves.filter (fun w => w.gang == some gang && !w.ended)

/-- A lane's words as they are copied to another store, which checks them anew (R306). -/
def Lane.recheck (l : Lane) : Lane :=
  { l with v := l.v.map PWord.seen, o := l.o.map PWord.seen, lt := { lo := l.lt.lo.seen, hi := l.lt.hi.seen }
           q := l.q.map (fun q => q.map PWord.seen) }

/-- A lane as the release leaves it: o0 to o7, lt and the registers from n upwards are 0. -/
def Lane.opened (l : Lane) (n : Nat) : Lane :=
  { l with v := l.v.take n ++ List.replicate (l.v.length - n) {}, o := List.replicate 8 {}, lt := {} }

def Wave.opened (w : Wave) (n : Nat) : Wave :=
  { w with lanes := w.lanes.map (fun l => l.opened n), latch := none, abufs := w.abufs.filter (fun b => decide (b.reg + b.len ≤ n)) }

/-- REGION_OPEN_RELEASE: every wave has arrived; each goes on, what its slot will hold is taken, and its core acquires (R273,
R280). What the gang's stores held back in state 1 stays held back; the journal begins anew. -/
def execRegionOpenRelease (gang : Nat) (s : State) : Host.Outcome State Fault Refusal :=
  .next (match s.gang? gang with
    | none => s
    | some g =>
      let ws := s.gangWaves gang
      if g.region.st != 1 || g.doom.isSome || !ws.all (fun w => w.standsAt .regionOpen) then s
      else
        let n (w : Wave) : Nat := ((g.region.snaps.find? (fun x => x.wave == w.id)).map (fun x => x.n)).getD 0
        let go (w : Wave) : Wave := (w.opened (n w)).freeEntries 5 2 (fun e => e.block == .regionOpen)
        let snap (w : Wave) : Snap :=
          { wave := w.id, n := n w, scalars := (go w).scalars, lanes := (go w).lanes.map Lane.recheck
            entry := ((go w).frontier.headD { pc := 0, depth := 0, prio := 0, mask := 0 }) }
        let s := { s with waves := s.waves.map (fun (w : Wave) => if w.gang = some gang ∧ !w.ended then go w else w) }
        let s := (s.updGang gang (fun g =>
          { g with
            groups := g.groups.map (fun (r : Group) => { r with places := r.places.map (fun (p : Place) => { p with journalled := [] }) })
            region := { g.region with
              st := if g.region.overflow then 3 else 2, opened := s.stamp, snaps := ws.map snap, snapDone := false
              journal := [], tiles := [], abort := none, forced := false } })).writeControl gang
        ((ws.map (fun w => w.core)).foldl (fun cs c => addSet c cs) []).foldl (fun s c => s.acquire c) s)

/-- A slot's 28 KiB (R290). -/
def Snap.bytes (x : Snap) : List Byte :=
  let lane (l : Nat) : Lane := x.lanes.getD l {}
  let scal := (slice ({} : PPair) x.scalars 0 64).map (fun p => toBytes 4 p.lo.val.toNat ++ toBytes 4 p.hi.val.toNat)
  let index := (List.range 8).map (fun k => (laneList.map (fun l => toBytes 4 ((lane l).x.getD k 0).toNat)).flatten)
  let pred := laneList.map (fun l => [(lane l).p ||| 1])
  let head := toBytes 8 x.entry.pc ++ toBytes 1 x.entry.depth ++ toBytes 1 x.entry.prio ++ toBytes 1 x.n ++ toBytes 1 0 ++
    toBytes 4 x.entry.mask.toNat
  let mark (i : Nat) : Nat := (maskBy (fun l => (wordAt (lane l).v i).mark)).toNat
  let poison := (List.range 192).map (fun i => toBytes 4 (if i < x.n then mark i else 0))
  let reg (i : Nat) : List Byte := (laneList.map (fun l => toBytes 4 (wordAt (lane l).v i).val.toNat)).flatten
  slice 0 (slice 0 (scal.flatten ++ index.flatten ++ pred.flatten ++ head) 0 0x800 ++ slice 0 poison.flatten 0 0x400 ++
    ((List.range x.n).map reg).flatten) 0 28672

/-- A wave's slot: its position in the gang, group by group. -/
def Gang.slotOf (g : Gang) (h : KHdr) (w : Wave) : Nat :=
  ((indexed g.groups).find? (fun r => r.2.linear == w.group)).elim 0 (fun r => r.1) * (h.group / 32) + w.index

/-- The slots that are not written yet are written. -/
def State.writeSnaps (s : State) (gang : Nat) : State :=
  match s.logOf gang with
  | none => s
  | some (g, l, cx) =>
    if g.region.snapDone then s
    else
      let s := g.region.snaps.foldl (fun (s : State) x => match s.wave? x.wave with
        | some w => s.writeOut cx (some g.id) (g.logBase + pageBytes + 28672 * g.slotOf l.hdr w) (x.bytes.map (fun b => (b, false)))
        | none => s) s
      s.updRegion gang (fun r => { r with snapDone := true })

/-- REGION_SNAPSHOT_DONE: the slots are written. -/
def execRegionSnapshotDone (gang : Nat) (s : State) : Host.Outcome State Fault Refusal := .next (s.writeSnaps gang)

/-! ## Committing (R293 to R295) -/

/-- The cores a gang holds. -/
def Gang.cores (g : Gang) : List Nat :=
  ((g.groups.map (fun r => r.places.map (fun p => p.core))).flatten).foldl (fun cs c => addSet c cs) []

/-- Tokens a die has out. -/
def State.tokensOut (s : State) (die : Nat) : Nat :=
  (s.gangs.filter (fun g => g.region.token && g.cores.any (fun c => dieOf c == die))).length

/-- Is a gang ready for a token (R294 steps 1 and 2): every wave waits at rgn.commit, every core is clean? -/
def State.commitReady (s : State) (g : Gang) : Bool :=
  g.region.st == 4 && g.region.snapDone && g.doom.isNone && g.region.abort.isNone && !g.region.forced &&
    g.st == .placed && (s.gangWaves g.id).all (fun w => w.standsAt .regionCommit)

def Gang.die (g : Gang) : Nat := dieOf (g.cores.headD 0)

/-- Does another gang of the die wait for a token that came before (R294 step 3)? -/
def State.tokenBefore (s : State) (g : Gang) : Bool :=
  s.gangs.any (fun h => h.id != g.id && h.die == g.die && s.commitReady h &&
    (match h.region.ticket, g.region.ticket with
      | some a, some b => decide (a < b)
      | some _, none => true
      | none, _ => false))

/-- COMMIT_POINT (R294 steps 1 to 3): the gang is ready; it takes a token of its die, or its place among those that wait for
one. -/
def execCommitPoint (gang : Nat) (s : State) : Host.Outcome State Fault Refusal :=
  .next (match s.gang? gang with
    | none => s
    | some g =>
      if !s.commitReady g then s
      else if decide (8 ≤ s.tokensOut g.die) || s.tokenBefore g then
        if g.region.ticket.isSome then s
        else
          let (n, s) := s.fresh
          s.updRegion gang (fun r => { r with ticket := some n })
      else
        (s.updGang gang (fun g =>
          { g with
            groups := g.groups.map (fun (r : Group) => { r with places := r.places.map (fun (p : Place) => { p with journalled := [] }) })
            region := { g.region with
              st := 5, region := (g.region.region + 1) % 2 ^ 64, committed := s.stamp, ticket := none, token := true
              drained := [] } })).writeControl
          gang)

/-- Step 4 on a core. -/
def State.drainCore (s : State) (g : Gang) (core : Nat) : State :=
  let mine (n : WLine) : Bool := n.core == core && !n.spilled
  (s.drainLines g.ctx (g.region.lines.filter mine)).updRegion g.id (fun r =>
    { r with lines := r.lines.filter (fun n => !mine n), drained := addSet core r.drained })

/-- COMMIT_TOKEN_RETURN: a core's drain ends; with the last one the token returns. -/
def execCommitTokenReturn (gang core : Nat) (s : State) : Host.Outcome State Fault Refusal :=
  .next (match s.gang? gang with
    | none => s
    | some g =>
      if g.region.st != 5 || !g.cores.contains core || g.region.drained.contains core then s
      else
        let s := s.drainCore g core
        s.updGang gang (fun g => { g with region := { g.region with
          token := !g.cores.all (fun c => g.region.drained.contains c) } }))

/-- Step 8; the waves pass rgn.commit as an acquire, but those of a gang that a lost store has doomed (R296). -/
def State.passCommit (s : State) (gang : Nat) : State :=
  match s.gang? gang with
  | none => s
  | some g =>
    let s := (s.updRegion gang (fun r =>
      { r with st := 0, spilled := false, overflow := false, used := 0, lines := [], journal := [], deferred := [], tiles := [],
               snaps := [], drained := [], token := false })).writeControl gang
    if g.doom.any (fun d => d.kill) then s
    else
      let s := { s with waves := s.waves.map (fun (w : Wave) =>
        if w.gang = some gang then w.freeEntries 5 2 (fun e => e.block == .regionCommit) else w) }
      g.cores.foldl (fun s c => s.acquire c) s

/-- Steps 5 to 8: spilled lines, deferred memory operations in KEY order; when all of them are performed, the spawns in KEY
order and step 8. -/
def State.finishCommit (s : State) (gang : Nat) : State :=
  match s.gang? gang with
  | none => s
  | some g =>
    let s := s.drainLines g.ctx (g.region.lines.filter (fun n => n.spilled))
    let ds := sortedDeferred g.region
    let s := (ds.filter (fun d => !d.isSpawn)).foldl (fun s d => s.applyDeferred gang d) s
    let s := s.updRegion gang (fun r => { r with lines := [], deferred := r.deferred.filter (fun d => d.isSpawn) })
    if s.commitOut gang then s
    else ((ds.filter (fun d => d.isSpawn)).foldl (fun s d => s.applyDeferred gang d) s).passCommit gang

def execCommitDrainDone (gang : Nat) (s : State) : Host.Outcome State Fault Refusal :=
  .next (match s.gang? gang with
    | none => s
    | some g =>
      if g.region.st != 5 || !g.cores.all (fun c => g.region.drained.contains c) || !s.spawnsFit g then s
      else s.finishCommit gang)

/-! ## Rollback (R297 to R299, R302) -/

/-- Operations and matrix commands of a gang's waves vanish with their attempt. -/
def State.dropGangOps (s : State) (waves : List Nat) : State :=
  { s with
    ops := s.ops.filter (fun o => !waves.contains o.wave)
    cores := s.cores.map (fun (c : Core) => { c with engines := c.engines.map (fun (e : Engine) =>
      { e with queue := e.queue.filter (fun m => !waves.contains m.wave), running := e.running.filter (fun m => !waves.contains m.wave) }) })
    ctxCores := s.ctxCores.map (fun (c : CtxCore) => { c with waiters := c.waiters.filter (fun x => !waves.contains x.2.wave) }) }

/-- Tiles zeroed with what belongs to them. -/
def State.zeroTiles (s : State) (ctx : Nat) (ts : List (Nat × Nat)) : State :=
  ts.foldl (fun s x => s.updTile ctx x.1 x.2 (fun t => { t with acc := [], marks := [], rows := [], cols := [], stamps := [] })) s

/-- The journal goes back to scratchpad, newest entry first. -/
def Gang.unjournal (g : Gang) : Gang :=
  g.region.journal.foldl (fun (g : Gang) j => g.updPlace j.place (fun p =>
    { p with
      sp := layCells (clearBytes p.sp (128 * j.line) 128) (128 * j.line) ((indexed j.bytes).map (fun b => (b.1, b.2)))
      marks := j.marks.foldl (fun m u => addSet u m) (p.marks.filter (fun u => u / 16 != j.line)) })) g

/-- A wave restored from its slot; a debugger's hold stays. -/
def Wave.restored (w : Wave) (x : Snap) (e : Entry) : Wave :=
  { w with
    scalars := x.scalars
    lanes := (indexed w.lanes).map (fun l => { (x.lanes.getD l.1 {}) with rec_ := l.2.rec_, pure_ := l.2.pure_ })
    ctrs := {}, frontier := [e], heldEntries := [], trapped := none, trapMode := false
    hold := match w.hold with | .debug st => .debug st | _ => .none
    ownCause := false, skid := 0, latch := none, abufs := [], windows := [], consumed := false }

/-- R298: the snapshot is completed, the attempt is discarded, and the waves stand at the open, or at an abort's target. -/
def State.rollBack (s : State) (g : Gang) (target : Option Nat) : State :=
  let s := s.writeSnaps g.id
  let ids := (s.gangWaves g.id).map (fun w => w.id)
  let s := (s.dropGangOps ids).zeroTiles g.ctx g.region.tiles
  let entry (x : Snap) : Entry := match target with
    | some t => { pc := t, depth := x.entry.depth, prio := x.entry.prio, mask := x.entry.mask }
    | none => { x.entry with clause := none }
  let s := { s with waves := s.waves.map (fun (w : Wave) => match g.region.snaps.find? (fun (x : Snap) => x.wave == w.id) with
    | some x => if w.ended then w else w.restored x (entry x)
    | none => w) }
  s.updGang g.id (fun g =>
    let g := g.unjournal
    { g with
      bar := {}
      groups := g.groups.map (fun (r : Group) =>
        { r with bars := r.bars.map (fun _ => {}), handler := none
                 places := r.places.map (fun (p : Place) => { p with journalled := [] }) })
      region := { g.region with
        lines := [], deferred := [], journal := [], tiles := [], used := 0, spilled := false, abort := none, snapDone := true
        ticket := none } })

/-! ## Replay (R299, R300, R59) -/

def RMap.isSpare (m : RMap) (core : Nat) : Bool := (m.coreEnt core).st == 2

/-- The spare cores that take over a group's (R299): one on the same die, or as many of a quad that is spare as a whole. -/
def State.spareFor (s : State) (die n : Nat) : Option (List Nat) :=
  let spare (c : Nat) : Bool := s.dev.rmap.isSpare c
  if n ≤ 1 then ((List.range 68).find? (fun i => spare (68 * die + i))).map (fun i => [68 * die + i])
  else
    let cores (q : Nat) : List Nat := ((List.range 4).map (fun i => 68 * die + 4 * q + i)).filter spare
    ((List.range 17).find? (fun q => s.dev.rmap.quadState die q == 2 && decide (n ≤ (cores q).length))).map
      (fun q => (cores q).take n)

/-- A place moved to another core: banks of the same number there, with the scratchpad's contents. -/
def State.movePlace (s : State) (p : Place) (core : Nat) : Place :=
  let free := s.cacheBanks core
  let n := p.spBanks.length
  { p with core := core, spBanks := (free.reverse.take n), fifoBanks := (free.reverse.drop n).take p.fifoBanks.length }

/-- A group moves onto spare cores, and its waves with it. It finds the semaphores and tiles of its context there as they were on
the cores it leaves (R298: semaphores are not touched, R409; DESIGN CHOICE, log 73). -/
def State.moveGroup (s : State) (g : Gang) (r : Group) (onto : List Nat) : State :=
  let map_ (c : Nat) : Nat := match (r.places.map (fun p => p.core)).zip onto |>.find? (fun x => x.1 == c) with
    | some x => x.2
    | none => c
  let s := onto.foldl (fun s c => s.publishCore 3 c (fun e => { e with st := 1 })) s
  let s := onto.foldl (fun s c => s.updCore c (fun k => { k with ctx := some g.ctx })) s
  let s := ((r.places.map (fun p => p.core)).zip onto).foldl (fun (s : State) x => match s.ctxCore? g.ctx x.1 with
    | some u => s.updCtxCore g.ctx x.2 (fun c => { c with sems := u.sems, tiles := u.tiles })
    | none => s) s
  let s := { s with waves := s.waves.map (fun (w : Wave) =>
    if w.gang = some g.id ∧ w.group = r.linear then { w with core := map_ w.core } else w) }
  s.updGroup g.id r.linear (fun r =>
    { r with places := r.places.map (fun p => s.movePlace p (map_ p.core))
             pools := r.pools.map (fun (p : Pool) => { p with core := map_ p.core }) })

/-- The groups a core holds, each with its spare set; none when some group has none. -/
def State.moveAll (s : State) (g : Gang) : List Group → Option State
  | [] => some s
  | r :: t =>
    match s.spareFor (dieOf ((r.places.map (fun p => p.core)).headD 0)) r.places.length with
    | none => none
    | some cs => State.moveAll (s.moveGroup g r cs) g t

/-! ## The rollback, and its end -/

/-- Event 4 (R310). -/
def State.rollbackEvent (s : State) (g : Gang) (d : Doom) (moved : Bool) : State :=
  s.event g.ctx 4 d.source g.index (g.region.attempt + 1 + (if moved then 2 ^ 8 else 0) + 2 ^ 16 * (d.core.getD 0xFFFF % 2 ^ 16) +
    2 ^ 32 * (g.region.region % 2 ^ 32))

/-- A trace record on every core of a gang (R332); its PC and INFO, which the spec does not give for it, are 0 (log 102). -/
def State.traceGang (s : State) (g : Gang) (ev cause : Nat) : State :=
  g.cores.foldl (fun s c => s.trace g.ctx c ev cause 0 0) s

/-- The groups of a gang that the core of an error holds, on spare cores (R299); none where no spare set serves one of them. -/
def State.moveOff (s : State) (g : Gang) (core : Nat) : Option State :=
  s.moveAll g (g.groups.filter (fun r => r.places.any (fun p => p.core == core)))

/-- An error's rollback: it counts an attempt, or as the fourth kills (R299); it is reported as it is recorded (R310, R513). -/
def State.errorRollback (s : State) (g : Gang) (d : Doom) : State :=
  if d.kill then s
  else if g.region.attempt ≥ 3 then
    s.updGang g.id (fun g => { g with doom := some { d with kill := true, reason := 2 } })
  else
    let moved := d.core.any (fun c => (s.moveOff g c).isSome)
    let s := (s.rollbackEvent g d moved).traceGang g 6 d.source
    ((s.rollBack g none).updRegion g.id (fun r => { r with st := 6, attempt := r.attempt + 1 })).writeControl g.id

/-- ROLLBACK: of an error; of an abort, which closes the region at its end (R302) and which an error that arises before takes
the place of (R475); or forced, which leaves the gang at its open, to be suspended (R49, R83). -/
def execRollback (gang : Nat) (s : State) : Host.Outcome State Fault Refusal :=
  .next (match s.gang? gang with
    | none => s
    | some g =>
      if !(g.st == .placed || g.st == .leaving) then s
      else match g.doom, g.region.abort with
      | some d, abort => if g.region.replayable || (g.region.st == 6 && abort.isSome) then s.errorRollback g d else s
      | none, some (target, key, time) =>
        if !g.region.replayable then s
        else (((s.traceGang g 6 0).rollBack g (some target)).updRegion gang (fun r =>
          { r with st := 6, abort := some (target, key, time) })).writeControl gang
      | none, none =>
        if !g.region.replayable || !g.region.forced then s
        else (((s.traceGang g 6 0).rollBack g none).updRegion gang (fun r => { r with st := 6 })).writeControl gang)

/-- REMOUNT_REPLAY_START: the restore ends. After an abort the region closes; else the replay begins, on spare cores where the
error is attributed to one. -/
def execRemountReplayStart (gang : Nat) (s : State) : Host.Outcome State Fault Refusal :=
  .next (match s.gang? gang with
    | none => s
    | some g =>
      if g.region.st != 6 || g.st != .placed || g.doom.any (fun d => d.kill) then s
      else match g.doom, g.region.abort with
      | none, some _ =>
        (s.updRegion gang (fun r => { r with st := 0, snaps := [], abort := none, forced := false })).writeControl gang
      | some _, some _ => s
      | doom, none =>
        if g.region.forced then s
        else
          let start (s : State) : State :=
            (s.updGang gang (fun g => { g with doom := none, region := { g.region with st := 2, opened := s.stamp } })).writeControl gang
          match doom.bind (fun d => d.core) with
          | none => start s
          | some c =>
            match s.moveOff g c with
            | some t => start t
            | none => s.updGang gang (fun g => { g with doom := g.doom.map (fun d => { d with kill := true, reason := 3 }) }))

end Sys2Proof.Machine
end

