-- ==== Sys2Proof/Machine/Collective.lean ====
section
/-! DEFINITION. Collectives (R25 to R30, R477 to R487): col.start, col.reform and col.stat, the collective engine, and its
messages. Which rank folds an element the spec leaves to the engine: here every rank sends its elements to the packages
that need them, and each folds its own (log 30); a start's payload and the status an abort carries are the model's (log
31). -/

namespace Sys2Proof
open Machine

def F2.colForm (f : F2) : Form :=
  { f.form 5 (f.tyN == 0 && f.b == 0 && f.c == 0 && f.mod.toNat % 256 == 0) with
    ctrs := [.co], writes := f.dN != 0xC9, a := .sel f.aN 2, d := .sel f.dN 1 false, need := .release
    unit := .collectives, region := .illegal, notTask := true, notPure := true }

def F2.colStatForm (f : F2) : Form :=
  { f.form 5 (f.tyN == 0 && f.a == 0 && f.b == 0 && f.mod == 0 && decide (f.cN < 5)) with
    d := .sel f.dN 1 false, region := .illegal, notTask := true, notPure := true }

end Sys2Proof

namespace Sys2Proof.Machine

/-! ## Payloads on the wire (R26 to R30) -/

/-- The number of bits of a number. -/
def bitLength (n : Nat) : Nat := if n = 0 then 0 else n.log2 + 1

def minOf (l : List Nat) : Nat := match l with | [] => 0 | x :: t => t.foldl min x

/-- Fields packed least significant bit first: (value, width). -/
def packBits (fs : List (Nat × Nat)) : Nat × Nat :=
  fs.foldl (fun acc f => (acc.1 + 2 ^ acc.2 * f.1, acc.2 + f.2)) (0, 0)

/-- A block of at most 16 values, in whole 32-bit words. -/
def packBlock (F : Fmt) (vs : List Nat) : List Byte :=
  let e (v : Nat) : Nat := F.mag v / 2 ^ F.mb
  let base := minOf (vs.map e)
  let w := bitLength ((vs.map e).foldl max 0 - base)
  let fields : List (Nat × Nat) :=
    if w = F.eb then (0x8000, 16) :: vs.map (fun v => (v, F.width))
    else (2 ^ 11 * w + base, 16) :: vs.map (fun v =>
      ((if F.neg v then 2 ^ (w + F.mb) else 0) + 2 ^ F.mb * (e v - base) + v % 2 ^ F.mb, 1 + w + F.mb))
  let (n, bits) := packBits fields
  toBytes (4 * ceilDiv bits 32) n

def packBlocks (F : Fmt) : Nat → List Nat → List Byte
  | 0, _ => []
  | fuel + 1, vs => if vs.isEmpty then [] else packBlock F (vs.take 16) ++ packBlocks F fuel (vs.drop 16)

/-- A block of k values from bytes: the values and how many bytes it took; none when it is malformed (R29). -/
def unpackBlock (F : Fmt) (k : Nat) (bs : List Byte) : Option (List Nat × Nat) :=
  let hdr := numAt bs 0 2
  let raw := hdr / 2 ^ 15 == 1
  let w := field hdr 11 4
  let base := hdr % 2 ^ 11
  let width := if raw then F.width else 1 + w + F.mb
  let bits := 16 + k * width
  let len := 4 * ceilDiv bits 32
  let n := numAt bs 0 len
  let vals := (List.range k).map (fun i =>
    let v := field n (16 + i * width) width
    if raw then v
    else (if bitOf v (w + F.mb) then F.sign else 0) + 2 ^ F.mb * ((field v F.mb w + base) % 2 ^ F.eb) + v % 2 ^ F.mb)
  if (raw && hdr != 0x8000) || (!raw && decide (w ≥ F.eb)) || (F.eb == 8 && !raw && decide (base ≥ 256)) ||
    n / 2 ^ bits != 0 || decide (bs.length < len) then none
  else some (vals, len)

def unpackBlocks (F : Fmt) : Nat → Nat → List Byte → Option (List Nat)
  | 0, _, _ => none
  | fuel + 1, k, bs =>
    if k = 0 then if bs.isEmpty then some [] else none
    else match unpackBlock F (min 16 k) bs with
      | none => none
      | some (vs, n) => (unpackBlocks F fuel (k - min 16 k) (bs.drop n)).map (fun more => vs ++ more)

/-- Types: 0 .f32, 1 .f64, 2 .i32, 3 .i64, 4 .n32, 5 .n64. -/
def colBytes (ty : Nat) : Nat := if ty % 2 = 0 then 4 else 8
def colFmt (ty : Nat) : Fmt := if ty = 0 then f32 else f64

def plainPayload (ty : Nat) (vs : List Nat) : List Byte := (vs.map (toBytes (colBytes ty))).flatten

/-- A message's elements, and whether its payload and its check hold. -/
def colElems (ty : Nat) (m : ColMsg) : List Elem :=
  let vals : Option (List Nat) :=
    if ty < 2 ∧ bitOf m.flags 0 then unpackBlocks (colFmt ty) (m.nelem + 1) m.nelem m.payload
    else if m.payload.length = m.nelem * colBytes ty ∧ (ty < 2 → m.nelem = 0) then
      some ((List.range m.nelem).map (fun i => numAt m.payload (colBytes ty * i) (colBytes ty)))
    else none
  match vals with
  | some vs =>
    if crc32c (plainPayload ty vs) = m.crc then vs.map (fun v => { val := v })
    else vs.map (fun v => { val := v, mark := true })
  | none => List.replicate m.nelem { val := 0, mark := true }

/-- The elements of a message as it is sent: one with a poisoned element is sent with a check that fails, and so arrives
poisoned whole. -/
def colData (ty : Nat) (es : List Elem) : Nat × List Byte × Word :=
  let vs := es.map (fun e => e.val)
  let crc := crc32c (plainPayload ty vs)
  (if ty < 2 then 1 else 0, if ty < 2 then packBlocks (colFmt ty) (vs.length + 1) vs else plainPayload ty vs,
    if es.any (fun e => e.mark) then ~~~ crc else crc)

/-! ## Collectives by number and key -/

def State.col? (s : State) (id : Nat) : Option Col := s.cols.find? (fun c => c.id == id)
def State.updCol (s : State) (id : Nat) (f : Col → Col) : State :=
  { s with cols := s.cols.map (fun (c : Col) => if c.id = id then f c else c) }

/-- The key of a collective: tenant, SETID, SEQ. -/
structure ColKey where
  tenant : Nat
  setId : Nat
  seq : Nat
  deriving DecidableEq, Repr

def Col.key? (c : Col) : Option ColKey := c.desc.map (fun d => { tenant := c.tenant, setId := d.setId, seq := d.seq })

/-- The collectives of local ranks under a key. -/
def State.colsOf (s : State) (k : ColKey) : List Col := s.cols.filter (fun c => c.key? == some k && c.status.isNone)

def State.updKey (s : State) (k : ColKey) (f : Col → Col) : State :=
  { s with cols := s.cols.map (fun (c : Col) => if c.key? = some k ∧ c.status = none then f c else c) }

def Col.rankOf (c : Col) (r : Nat) : Contrib := (c.ranks.find? (fun x => x.rank == r)).getD { rank := r }
def Col.updRank (c : Col) (r : Nat) (f : Contrib → Contrib) : Col :=
  if c.ranks.any (fun x => x.rank == r) then
    { c with ranks := c.ranks.map (fun (x : Contrib) => if x.rank = r then f x else x) }
  else { c with ranks := c.ranks ++ [f { rank := r }] }

/-- The other packages of a member table. -/
def otherPkgs (self : Nat) (members : List Nat) : List Nat :=
  (members.foldl (fun ps p => addSet p ps) []).filter (fun p => p != self)

/-! ## Messages out (R481, R482) -/

def ColKey.msg (k : ColKey) (pkg from_ offset nelem flags : Nat) (payload : List Byte) (crc : Word) : ColMsg :=
  { pkg := pkg, flags := flags, tenant := k.tenant, from_ := from_, setId := k.setId, seq := k.seq, offset := offset, dest := 0xFFFF
    nelem := nelem, payload := payload, crc := crc }

/-- A message goes out; all but an acknowledgement await one. -/
def State.sendCol (s : State) (mtype dest round : Nat) (m : ColMsg) : State :=
  let s := s.send (.col mtype dest m)
  if mtype = 4 then s
  else
    let (id, s) := s.fresh
    { s with sentCols := s.sentCols ++ [{ id := id, dest := dest, at_ := s.time, round := round, mtype := mtype, msg := m }] }

def State.sendTo (s : State) (mtype round : Nat) (m : ColMsg) (ps : List Nat) : State :=
  ps.foldl (fun s p => s.sendCol mtype p round m) s

def listPayload (ps : List Nat) : List Byte := (ps.map (toBytes 4)).flatten

/-- Round time in ns (R477). -/
def ColDesc.roundNs (d : ColDesc) : Nat := 1000 * (if d.round = 0 then 200 else d.round)

/-- What every rank must give alike. -/
def ColDesc.common (d : ColDesc) : List Byte :=
  toBytes 1 d.kind ++ toBytes 1 d.fold ++ toBytes 1 d.ty ++ toBytes 1 0 ++ toBytes 2 d.root ++ toBytes 2 d.round ++
    toBytes 4 d.count ++ listPayload d.members

/-! ## Reading a descriptor (R477, R478, R480) -/

/-- What reading or checking comes to: a refusal's status, pages to wait for, or the thing itself. -/
inductive Reading (α : Type) where
  | refuse (status : Nat)
  | wait (vas : List Nat)
  | ok (a : α)

/-- Are the pages of an area there, local and accessible? -/
def State.area (s : State) (cx : Ctx) (k : Access) (va n : Nat) : Reading Unit :=
  let xs := (pagesFrom va n).map (fun p => (p * pageBytes, s.xlate cx k (p * pageBytes)))
  if xs.any (fun x => match x.2 with | .cause _ => true | .ok (.home _) _ _ => false | .ok _ _ _ => true | .invalid => false) then
    .refuse 6
  else
    let gone := xs.filterMap (fun x => if x.2 = .invalid then some x.1 else none)
    if gone.isEmpty then .ok () else .wait gone

def State.areaBytes (s : State) (cx : Ctx) (va n : Nat) : Reading (List Byte) :=
  match s.area cx .engineRead va n with
  | .refuse c => .refuse c
  | .wait v => .wait v
  | .ok _ =>
    let bs := s.readVa cx va n
    if bs.any (fun b => b.2) then .refuse 6 else .ok (bs.map (fun b => b.1))

/-- Does a descriptor keep R477 (its table apart)? -/
def descOk (b : List Byte) (reform : Bool) : Bool :=
  let n (off k : Nat) : Nat := numAt b off k
  let kind := n 0 1
  let fold := n 1 1
  let ty := n 2 1
  decide (kind ≤ 5) && (kind == 5) == reform && decide (fold ≤ 5) && decide (ty ≤ 5) && n 3 1 == 0 &&
    (fold == 0 || kind == 1 || kind == 2) && (decide (fold < 3) || decide (2 ≤ ty)) &&
    (n 6 2 == 0 || (decide (10 ≤ n 6 2) && decide (n 6 2 ≤ 60000))) && decide (n 8 4 ≤ 2 ^ 28) &&
    (n 8 4 == 0 || (kind != 0 && kind != 5)) && (n 0x0C 2 == 0 || kind == 4) && n 0x0E 2 == 0 && n 0x20 8 % 16 == 0 &&
    (n 0x28 8 == 0 || (kind != 0 && kind != 5)) && n 0x38 8 == 0

/-- Elements a rank gives (R479). -/
def ColDesc.gives (d : ColDesc) (r : Nat) : Nat :=
  match d.kind with
  | 1 => d.count
  | 2 => d.members.length * d.count
  | 3 => d.count
  | 4 => if r = d.root then d.count else 0
  | _ => 0

/-- Elements a rank receives. -/
def ColDesc.takes (d : ColDesc) : Nat :=
  match d.kind with
  | 1 => d.count
  | 2 => d.count
  | 3 => d.members.length * d.count
  | 4 => d.count
  | _ => 0

/-- Bytes a rank's DST takes: its results, or the new member table at most. -/
def ColDesc.dstBytes (d : ColDesc) : Nat := if d.kind = 5 then 16 + 4 * d.members.length else d.takes * colBytes d.ty

/-- SRC and DST lie in g pages of this package that the engine may read and write, or that may still come (R480). -/
def State.areasOk (s : State) (cx : Ctx) (d : ColDesc) : Bool :=
  let ok (x : Reading Unit) : Bool := match x with | .refuse _ => false | _ => true
  ok (s.area cx .engineRead d.src (d.gives d.rank * colBytes d.ty)) && ok (s.area cx .store d.dst d.dstBytes)

/-- The descriptor at an address with its member table. -/
def State.readDesc (s : State) (cx : Ctx) (at_ : Nat) (reform : Bool) : Reading ColDesc :=
  match s.areaBytes cx at_ 64 with
  | .refuse c => .refuse c
  | .wait v => .wait v
  | .ok b =>
    if !descOk b reform then .refuse 6
    else
      let mset := numAt b 0x20 8
      match s.areaBytes cx mset 16 with
      | .refuse c => .refuse c
      | .wait v => .wait v
      | .ok h =>
        let n := numAt h 4 4
        if numAt h 0 4 ≠ 0x53584D53 ∨ n < 1 ∨ 16384 < n ∨ numAt h 8 8 ≠ 0 then .refuse 6
        else match s.areaBytes cx (mset + 16) (4 * n) with
          | .refuse c => .refuse c
          | .wait v => .wait v
          | .ok t =>
            let ms := (List.range n).map (fun i => numAt t (4 * i) 4)
            let d : ColDesc :=
              { kind := numAt b 0 1, fold := numAt b 1 1, ty := numAt b 2 1, rank := numAt b 4 2, round := numAt b 6 2
                count := numAt b 8 4, root := numAt b 0x0C 2, setId := numAt b 0x10 8, seq := numAt b 0x18 8
                src := numAt b 0x28 8, dst := numAt b 0x30 8, members := ms }
            if ms.any (fun p => decide (p ≥ 2 ^ 14)) ∨ (d.kind = 4 ∧ n ≤ d.root) then .refuse 6
            else if n ≤ d.rank then .refuse 5
            else if ms.getD d.rank 0 ≠ s.dev.pkg ∨ !s.areasOk cx d then .refuse 6
            else if !reform && ms.any (fun p => s.dev.rmap.lostPeers.contains p) then .refuse 3
            else .ok d

/-! ## Contributions and results (R479) -/

/-- One step of a fold (R230 to R232). -/
def foldOp (op ty x y : Nat) : Nat :=
  let w := 8 * colBytes ty
  let less (a b : Nat) : Bool := if ty = 2 ∨ ty = 3 then decide (toSigned w a < toSigned w b) else decide (a < b)
  match op with
  | 0 => if ty < 2 then (colFmt ty).add 0 x y else (x + y) % 2 ^ w
  | 1 => if ty < 2 then (colFmt ty).minmax false x y else if less y x then y else x
  | 2 => if ty < 2 then (colFmt ty).minmax true x y else if less x y then y else x
  | 3 => x &&& y
  | 4 => x ||| y
  | _ => x ^^^ y

def Elem.fold (d : ColDesc) (x y : Elem) : Elem := { val := foldOp d.fold d.ty x.val y.val, mark := x.mark || y.mark }

def Col.elem (c : Col) (r e : Nat) : Option Elem := lookupBy e (c.rankOf r).elems

/-- F(e), when every rank's element is here. -/
def Col.folded (c : Col) (d : ColDesc) (e : Nat) : Option Elem :=
  (List.range (d.members.length - 1)).foldl (fun acc i =>
    match acc, c.elem (i + 1) e with
    | some x, some y => some (x.fold d y)
    | _, _ => none) (c.elem 0 e)

/-- Element i of what the rank receives: a result that came whole, or what the ranks gave. -/
def Col.result (c : Col) (d : ColDesc) (i : Nat) : Option Elem :=
  match lookupBy i c.results with
  | some x => some x
  | none =>
    match d.kind with
    | 1 => c.folded d i
    | 2 => c.folded d (d.rank * d.count + i)
    | 3 => c.elem (i / d.count) (i % d.count)
    | _ => c.elem d.root i

/-- Everything the rank receives, once it is all here. -/
def Col.allResults (c : Col) (d : ColDesc) : Option (List Elem) :=
  let rs := (List.range d.takes).map (fun i => c.result d i)
  if rs.all (fun r => r.isSome) then some (rs.filterMap (fun r => r)) else none

def Col.allStarted (c : Col) (d : ColDesc) : Bool :=
  (List.range d.members.length).all (fun r => (c.rankOf r).started)

/-! ## An end by abort (R482, R487, R528) -/

/-- Lost packages enter the lost-peer table, a version each, while it has room. -/
def State.recordLost (s : State) (ps : List Nat) : State :=
  ps.foldl (fun s p =>
    if s.dev.rmap.lostPeers.contains p || p == s.dev.pkg then s
    else match s.dev.rmap.peerSlot with
      | none => s
      | some i => s.publish 0x13 i (fun m => { m with peers := m.peers ++ [(i, p)] })) s

/-- What an abort leaves in DST: an element whose final value the engine has is that or the former one, and which is open
(log 6). -/
def State.leaveDst (s : State) (c : Col) : State :=
  match c.desc, s.ctx? c.ctx with
  | some d, some cx =>
    if !c.sent then s
    else match s.area cx .store d.dst (d.takes * colBytes d.ty) with
      | .ok _ => (List.range d.takes).foldl (fun (s : State) i => match c.result d i with
          | none => s
          | some e =>
            let (w, s) := s.freeWord
            if w.getLsbD 0 then
              s.writeVa cx (d.dst + i * colBytes d.ty) ((toBytes (colBytes d.ty) e.val).map (fun b => (b, e.mark)))
            else s) s
      | _ => s
  | _, _ => s

/-- The cores that issued a collective lose their L1's copies of its destination (R274). -/
def State.dropColDest (s : State) (c : Col) (d : ColDesc) (n : Nat) : State :=
  match s.ctx? c.ctx with
  | some cx => c.ops.foldl (fun s x => match s.op? x.1 with
      | some o => s.dropDest cx o.core (.g d.dst) n
      | none => s) s
  | none => s

/-- The local ranks of a key end with a status; the key is remembered for 1 s. -/
def State.endKey (s : State) (k : ColKey) (status : Nat) (lost : List Nat) : State :=
  let s := s.recordLost lost
  let s := (s.colsOf k).foldl (fun s c => match c.desc with
    | some d => (s.leaveDst c).dropColDest c d (d.takes * colBytes d.ty)
    | none => s) s
  let s := s.updKey k (fun c => { c with status := some status, lost := lost.foldl (fun l p => addSet p l) c.lost })
  { s with
    aborted := s.aborted.filter (fun a => !(a.tenant == k.tenant && a.setId == k.setId && a.seq == k.seq)) ++
      [{ tenant := k.tenant, setId := k.setId, seq := k.seq, status := status, at_ := s.time }]
    begun := s.begun.filter (fun b => !(b.tenant == k.tenant && b.setId == k.setId && b.seq == k.seq))
    early := s.early.filter (fun e => !(e.msg.tenant == k.tenant && e.msg.setId == k.setId && e.msg.seq == k.seq)) }

/-- The engine that finds the cause ends the collective and tells every member package it can reach. -/
def State.abortCol (s : State) (k : ColKey) (from_ status : Nat) (lost : List Nat) : State :=
  match s.colsOf k with
  | [] => s
  | c :: _ =>
    match c.desc with
    | none => s
    | some d =>
      let payload := listPayload lost
      let m := k.msg s.dev.pkg from_ (if lost.isEmpty then status else 0) lost.length 0 payload (crc32c payload)
      (s.endKey k (if lost.isEmpty then status else 1) lost).sendTo 5 d.roundNs m
        ((otherPkgs s.dev.pkg d.members).filter (fun p => !lost.contains p))

/-- Elements come from a rank, for every local rank of the key. -/
def State.contribute (s : State) (k : ColKey) (r offset : Nat) (es : List Elem) : State :=
  s.updKey k (fun c => c.updRank r (fun x =>
    { x with elems := (indexed es).foldl (fun l e => setBy (offset + e.1) e.2 l) x.elems }))

/-- Messages of at most 1,024 elements each. -/
def State.sendElems (s : State) (k : ColKey) (d : ColDesc) (ps : List Nat) : Nat → Nat → List Elem → State
  | 0, _, _ => s
  | fuel + 1, off, es =>
    if es.isEmpty then s
    else
      let part := es.take 1024
      let (flags, payload, crc) := colData d.ty part
      State.sendElems (s.sendTo 2 d.roundNs (k.msg s.dev.pkg d.rank off part.length flags payload crc) ps) k d ps fuel
        (off + 1024) (es.drop 1024)

/-- The operations of a collective wait for pages (R266). -/
def State.colWaits (s : State) (c : Col) (vas : List Nat) : State :=
  let s := vas.foldl (fun s va => s.requestPage c.ctx 5 (s.gangIndex (some c.gang)) va) s
  { s with ops := s.ops.map (fun (o : Op) =>
    if c.ops.any (fun x => x.1 == o.id) && o.pageSince.isNone then { o with pageSince := some s.time } else o) }
def State.colGoes (s : State) (c : Col) : State :=
  { s with ops := s.ops.map (fun (o : Op) => if c.ops.any (fun x => x.1 == o.id) then { o with pageSince := none } else o) }

/-- A rank's elements as they stand in SRC. -/
def State.readElems (s : State) (cx : Ctx) (d : ColDesc) (n : Nat) : List Elem :=
  let b := colBytes d.ty
  (List.range n).map (fun i =>
    let bs := s.readVa cx (d.src + b * i) b
    { val := ofBytes (bs.map (fun x => x.1)), mark := bs.any (fun x => x.2) })

/-- Pages of an area that the engine cannot reach: it waits for them as for absent ones (R266; log 45). -/
def State.areaGone (s : State) (cx : Ctx) (k : Access) (va n : Nat) : List Nat :=
  ((pagesFrom va n).map (fun p => p * pageBytes)).filter (fun p => match s.xlate cx k p with | .ok (.home _) _ _ => false | _ => true)

/-- Once every rank has started, a rank's elements are read and go where they are needed. -/
def State.exchange (s : State) (id : Nat) : State :=
  match s.col? id with
  | none => s
  | some c =>
    match c.desc, s.ctx? c.ctx, c.key? with
    | some d, some cx, some k =>
      if c.sent || c.status.isSome || c.arrivedAt.isNone || d.kind == 5 || !c.allStarted d then s
      else
        let n := d.gives d.rank
        match s.area cx .engineRead d.src (n * colBytes d.ty) with
        | .refuse _ => s.colWaits c (s.areaGone cx .engineRead d.src (n * colBytes d.ty))
        | .wait vas => s.colWaits c vas
        | .ok _ =>
          let es := s.readElems cx d n
          let s := ((s.colGoes c).updCol id (fun c => { c with sent := true })).contribute k d.rank 0 es
          s.sendElems k d (otherPkgs s.dev.pkg d.members) (n + 1) 0 es
    | _, _, _ => s

def State.exchangeAll (s : State) (k : ColKey) : State := (s.colsOf k).foldl (fun s c => s.exchange c.id) s

/-! ## Arrival (R480, R482) -/

/-- A start reaches the local ranks of a key. -/
def State.noteStart (s : State) (k : ColKey) (r : Nat) : State :=
  s.updKey k (fun c => c.updRank r (fun x => { x with started := true }))

/-- L of a reform (R484), beginning with what the map holds. -/
def State.sendList (s : State) (k : ColKey) (d : ColDesc) (l : List Nat) : State :=
  let p := listPayload l
  (s.updKey k (fun c => c.updRank d.rank (fun x => { x with started := true, losses := some l }))).sendTo 6 d.roundNs
    (k.msg s.dev.pkg d.rank 0 l.length 0 p (crc32c p)) ((otherPkgs s.dev.pkg d.members).filter (fun q => !l.contains q))

/-- A message that came before the local rank did, once it has. -/
def State.takeEarly (s : State) (k : ColKey) (c : Col) (d : ColDesc) (e : EarlyMsg) : State :=
  match e.mtype with
  | 1 => if e.msg.payload = d.common then s.noteStart k e.msg.from_ else s.abortCol k d.rank 4 []
  | 2 => s.contribute k e.msg.from_ e.msg.offset (colElems d.ty e.msg)
  | 6 => s.updCol c.id (fun c => c.updRank e.msg.from_ (fun x =>
      { x with started := true, losses := some ((List.range e.msg.nelem).map (fun i => numAt e.msg.payload (4 * i) 4)) }))
  | _ => s

def EarlyMsg.isFor (e : EarlyMsg) (k : ColKey) : Bool :=
  e.msg.tenant == k.tenant && e.msg.setId == k.setId && e.msg.seq == k.seq

/-- The record of a rank's start under a key. -/
def ColKey.begun (k : ColKey) (rank : Nat) (reform : Bool) : Begun :=
  { tenant := k.tenant, setId := k.setId, seq := k.seq, rank := rank, reform := reform }

/-- The rank arrives: it knows what the other local ranks know, and the other packages hear of it. -/
def State.arriveCol (s : State) (id : Nat) : State :=
  match s.col? id with
  | none => s
  | some c =>
    match c.desc, c.key? with
    | some d, some k =>
      let sibs := (s.colsOf k).filter (fun x => x.id != id && x.arrivedAt.isSome)
      let known := (sibs.head?.map (fun x => x.ranks)).getD []
      let s := s.updCol id (fun c => { c with arrivedAt := some s.time, ranks := known })
      let s := { s with begun := s.begun ++ [k.begun d.rank c.reform] }
      let agree := sibs.all (fun x => x.desc.map (fun y => y.common) == some d.common)
      let early := s.early.filter (fun e => e.isFor k)
      let s := { s with early := s.early.filter (fun e => !e.isFor k) }
      if !agree then s.abortCol k d.rank 4 []
      else if c.reform then
        let l := (d.members.filter (fun p => s.dev.rmap.lostPeers.contains p)).foldl (fun l p => addSet p l) []
        let s := s.sendList k d l
        early.foldl (fun s e => s.takeEarly k c d e) s
      else
        let s := (s.noteStart k d.rank).sendTo 1 d.roundNs (k.msg s.dev.pkg d.rank 0 0 0 d.common (crc32c d.common))
          (otherPkgs s.dev.pkg d.members)
        let s := early.foldl (fun s e => s.takeEarly k c d e) s
        s.exchangeAll k
    | _, _ => s

/-- Every live wave of the gang takes part in a barrier's arrival (R185). -/
def State.allIssued (s : State) (c : Col) : Bool :=
  (s.gangWaves c.gang).all (fun w => c.ops.any (fun x => x.2 == w.id))

/-- A collective with its descriptor read joins its key, or is refused. A second start of a rank under one (SETID, SEQ) is
refused, be the first still open or completed (R483; log 40). -/
def State.joinCol (s : State) (c : Col) (d : ColDesc) : State :=
  let k : ColKey := { tenant := c.tenant, setId := d.setId, seq := d.seq }
  match s.aborted.find? (fun a => a.tenant == k.tenant && a.setId == k.setId && a.seq == k.seq) with
  | some a => s.updCol c.id (fun c => { c with desc := some d, status := some a.status })
  | none =>
    let same := (s.colsOf k).find? (fun x => x.id != c.id && x.desc.any (fun y => y.rank == d.rank))
    match same with
    | none =>
      if s.begun.contains (k.begun d.rank c.reform) then
        s.updCol c.id (fun c => { c with desc := some d, status := some 5 })
      else
        let s := s.updCol c.id (fun c => { c with desc := some d })
        if d.kind = 0 ∧ !s.allIssued { c with desc := some d } then s else s.arriveCol c.id
    | some x =>
      let joins := d.kind == 0 && x.gang == c.gang && x.arrivedAt.isNone && x.desc == some d &&
        c.ops.all (fun o => !x.ops.any (fun y => y.2 == o.2))
      if !joins then s.updCol c.id (fun c => { c with status := some 5 })
      else
        let s := { s with
          cols := (s.cols.filter (fun (y : Col) => y.id != c.id)).map (fun (y : Col) => if y.id = x.id then { y with ops := y.ops ++ c.ops } else y)
          ops := s.ops.map (fun (o : Op) => match o.body with
            | .col dst n => if n = c.id then { o with body := .col dst x.id } else o
            | _ => o) }
        match s.col? x.id with
        | some (y : Col) => if s.allIssued y then s.arriveCol y.id else s
        | none => s

/-- Ranks of a package or pod barrier that waited for waves which have ended since arrive (R185, R187). -/
def State.lateRanks (s : State) : State :=
  (s.cols.filter (fun c => c.desc.any (fun d => d.kind == 0) && c.arrivedAt.isNone && c.status.isNone && s.allIssued c)).foldl
    (fun s c => s.arriveCol c.id) s

/-- The descriptor is read, when its pages are there. -/
def State.beginCol (s : State) (id : Nat) : State :=
  match s.col? id with
  | none => s
  | some c =>
    match s.ctx? c.ctx with
    | none => s
    | some cx =>
      if c.desc.isSome || c.status.isSome then s
      else match s.readDesc cx c.at_ c.reform with
        | .refuse n => s.updCol id (fun c => { c with status := some n })
        | .wait vas => s.colWaits c vas
        | .ok d => ((s.colGoes c).dropColDest c d (d.takes * colBytes d.ty)).joinCol c d

/-! ## The instructions (R480, R484, R485) -/

def Env.collective (env : Env) (f : F2) (reform : Bool) (s : State) : Res := do
  if env.gang.isNone then .error (env.raise cIllegal) else
  let rs ← env.each (fun _ lane => f.colForm.d.slot env.w.regs lane)
  let a ← (match f.colForm.a.val env.w (env.w.lane env.first) with
    | .ok a => .ok a
    | .error c => .error (env.raise c) : Except Raised Nat)
  if a % 64 ≠ 0 then .error (env.raiseAt a cAlign)
  else match s.xlate env.cx .engineRead a, env.gang with
  | .cause c, _ => .error (env.raiseAt a c)
  | .ok (.remote _ _) _ _, _ => .error (env.raiseAt a cPermission)
  | _, none => .error (env.raise cIllegal)
  | _, some g =>
    let (id, s) := s.fresh
    let (op, s) := s.startOp env.w env.act (some .co) f.la.toNat f.colForm.writes (.col { lanes := rs, words := 1 } id)
    let c : Col := { id := id, gang := g.id, ctx := env.cx.id, tenant := env.cx.tenant, at_ := a, reform := reform, ops := [(op, env.w.id)] }
    env.fall (({ s with cols := s.cols ++ [c] } : State).beginCol id)

def execColStart (f : F2) (s : State) : Host.Outcome State Fault Refusal :=
  s.run f.colForm (fun env => env.collective f false)

def execColReform (f : F2) (s : State) : Host.Outcome State Fault Refusal :=
  s.run f.colForm (fun env => env.collective f true)

def ColRecord.get (r : ColRecord) (i : Nat) : Word :=
  match i with
  | 0 => r.status
  | 1 => BitVec.ofNat 32 r.lost
  | 2 => r.first
  | 3 => r.rank
  | _ => r.seq

def execColStat (f : F2) (s : State) : Host.Outcome State Fault Refusal :=
  s.run f.colStatForm (fun env => env.vec f.colStatForm false false (fun _ _ => .ok [{ val := env.w.lastCol.get f.cN }]))

/-! ## The end of a collective -/

/-- The record col.stat reads. -/
def Col.record (c : Col) (status : Nat) : ColRecord :=
  let first := c.lost.head?
  let rank := match first, c.desc with
    | some p, some d => ((indexed d.members).find? (fun (x : Nat × Nat) => x.2 == p)).map (fun (x : Nat × Nat) => x.1)
    | _, _ => none
  { status := BitVec.ofNat 32 status, lost := c.lost.length, first := BitVec.ofNat 32 (first.getD 0xFFFFFFFF)
    rank := BitVec.ofNat 32 (rank.getD 0xFFFFFFFF), seq := BitVec.ofNat 32 ((c.desc.map (fun d => d.seq)).getD 0) }

/-- A reform's survivors, when a full exchange has left L unchanged (R484). -/
def Col.agreed (c : Col) (d : ColDesc) : Option (List Nat) :=
  match (c.rankOf d.rank).losses with
  | none => none
  | some l =>
    if (indexed d.members).all (fun m => l.contains m.2 || (c.rankOf m.1).losses == some l) then some l else none

/-- What a collective writes at DST, with its status; none while something is missing. -/
def Col.outcome (c : Col) (d : ColDesc) (self : Nat) : Option (List (Byte × Bool) × Nat) :=
  let clean (bs : List Byte) : List (Byte × Bool) := bs.map (fun b => (b, false))
  if d.kind = 0 then if c.allStarted d then some ([], 0) else none
  else if d.kind = 5 then
    (c.agreed d).map (fun l =>
      let live : List (Nat × Nat) := (indexed d.members).filter (fun m => !l.contains m.2)
      let table := clean (toBytes 4 0x53584D53 ++ toBytes 4 live.length ++ toBytes 8 0 ++ listPayload (live.map (fun m => m.2)))
      if l.contains self then (table, 7 + 2 ^ 16 * 0xFFFF)
      else
        let mine := (indexed live).find? (fun (x : Nat × Nat × Nat) => x.2.1 == d.rank)
        (table, 2 ^ 16 * (match mine with | some x => x.1 | none => 0)))
  else if !c.sent then none
  else (c.allResults d).map (fun es =>
    ((es.map (fun e => (toBytes (colBytes d.ty) e.val).map (fun b => (b, e.mark)))).flatten, 0))

/-- DST is written and the status is known, when everything is here. -/
def State.settleCol (s : State) (id : Nat) : State :=
  match s.col? id with
  | none => s
  | some c =>
    match c.desc, s.ctx? c.ctx with
    | some d, some cx =>
      if c.status.isSome || c.arrivedAt.isNone then s
      else match c.outcome d s.dev.pkg with
        | none => s
        | some (bs, status) =>
          match s.area cx .store d.dst bs.length with
          | .refuse _ => s.colWaits c (s.areaGone cx .store d.dst bs.length)
          | .wait vas => s.colWaits c vas
          | .ok _ => (((s.colGoes c).writeVa cx d.dst bs).dropColDest c d bs.length).updCol id (fun c =>
              { c with status := some status, lost := if d.kind = 5 then (c.agreed d).getD c.lost else c.lost })
    | _, _ => s

/-- An operation of a collective whose status is known ends: D lands, co falls, and a barrier acts as an acquire. -/
def State.endColOp (s : State) (o : Op) (c : Col) (dst : Dst) (status : Nat) : State :=
  let word := c.record status
  let s := s.updWave o.wave (fun w =>
    { (dst.lanes.foldl (fun (w : Wave) x => w.land x.1 x.2 [PWord.ofNat status]) w) with lastCol := word })
  let s := if c.desc.any (fun d => d.kind == 0) then s.acquire o.core else s
  let left := c.ops.filter (fun x => x.1 != o.id)
  let s := if left.isEmpty then { s with cols := s.cols.filter (fun x => x.id != c.id) }
    else s.updCol c.id (fun c => { c with ops := left })
  s.endOp o

/-- COLLECTIVE_COMPLETE: an operation goes as far as it can, and ends when its collective has. -/
def execCollectiveComplete (op : Nat) (s : State) : Host.Outcome State Fault Refusal :=
  .next (match s.op? op with
    | none => s
    | some o =>
      match o.body with
      | .col _ id =>
        let s := ((s.beginCol id).exchange id)
        let s := match s.op? op with
          | some o => (match o.body with | .col _ id => s.settleCol id | _ => s)
          | none => s
        (match s.op? op with
          | none => s
          | some o => (match o.body with
            | .col dst id => (match s.col? id with
              | some c => (match c.status with | some n => s.endColOp o c dst n | none => s)
              | none => s)
            | _ => s))
      | _ => s)

/-! ## Messages in (R481, R482, R484) -/

end Sys2Proof.Machine

/-- The collective a message belongs to. -/
def Sys2Proof.ColMsg.key (m : Sys2Proof.ColMsg) : Sys2Proof.Machine.ColKey := { tenant := m.tenant, setId := m.setId, seq := m.seq }

namespace Sys2Proof.Machine

/-- Every message but an acknowledgement is acknowledged. -/
def State.ackCol (s : State) (m : ColMsg) : State :=
  s.sendCol 4 m.pkg 0 (m.key.msg s.dev.pkg m.dest m.offset 0 0 [] (crc32c []))

/-- Kept for a rank that has not started, unless the key has been aborted. -/
def State.keepEarly (s : State) (mtype : Nat) (m : ColMsg) : State :=
  if s.aborted.any (fun a => a.tenant == m.tenant && a.setId == m.setId && a.seq == m.seq) then s
  else { s with early := s.early ++ [{ mtype := mtype, msg := m }] }

/-- The arrived local ranks of a message's collective. -/
def State.hearers (s : State) (m : ColMsg) : List Col := (s.colsOf m.key).filter (fun c => c.arrivedAt.isSome)

/-- A message reaches a rank; a stopped module hears none (R34). -/
def State.hear (s : State) (mtype : Nat) (m : ColMsg) (k : State → Col → ColDesc → State) : State :=
  if !s.dev.powered then s else
  let s := s.ackCol m
  match s.hearers m with
  | [] => s.keepEarly mtype m
  | c :: _ => match c.desc with
    | some d => k s c d
    | none => s

/-- Does a message's trailer hold the CRC-32C of its payload (R30)? -/
def colWhole (m : ColMsg) : Bool := crc32c m.payload == m.crc

/-- A start, an abort or a reform whose check fails is acknowledged, and nothing is made of its contents (DESIGN CHOICE, log 116). -/
def State.garbled (s : State) (m : ColMsg) : State := if s.dev.powered then s.ackCol m else s

def execColMsgStart (m : ColMsg) (s : State) : Host.Outcome State Fault Refusal :=
  if !colWhole m then .next (s.garbled m) else
  .next (s.hear 1 m (fun s _ d =>
    if m.payload = d.common then (s.noteStart m.key m.from_).exchangeAll m.key else s.abortCol m.key d.rank 4 []))

def execColMsgData (m : ColMsg) (s : State) : Host.Outcome State Fault Refusal :=
  .next (s.hear 2 m (fun s _ d => s.contribute m.key m.from_ m.offset (colElems d.ty m)))

/-- Finished elements, by their place in what the rank receives. -/
def execColMsgResult (m : ColMsg) (s : State) : Host.Outcome State Fault Refusal :=
  .next (s.hear 3 m (fun s _ d => s.updKey m.key (fun c =>
    if m.dest = 0xFFFF || c.desc.any (fun y => y.rank == m.dest) then
      { c with results := (indexed (colElems d.ty m)).foldl (fun l e => setBy (m.offset + e.1) e.2 l) c.results }
    else c)))

def execColMsgAck (m : ColMsg) (s : State) : Host.Outcome State Fault Refusal :=
  if !s.dev.powered || !colWhole m then .next s else
  .next (match s.sentCols.find? (fun x => x.dest == m.pkg && x.msg.key == m.key && x.msg.offset == m.offset) with
    | some x => { s with sentCols := s.sentCols.filter (fun y => y.id != x.id) }
    | none => s)

def execColMsgAbort (m : ColMsg) (s : State) : Host.Outcome State Fault Refusal :=
  if !s.dev.powered || !colWhole m then .next (s.garbled m) else
  .next (
    let s := s.ackCol m
    let lost := (List.range m.nelem).map (fun i => numAt m.payload (4 * i) 4)
    s.endKey m.key (if !lost.isEmpty then 1 else if m.offset = 4 ∨ m.offset = 8 then m.offset else 2) lost)

/-- A list of a reform is merged; one that grows goes round again. -/
def State.mergeLists (s : State) (k : ColKey) : State :=
  match (s.colsOf k).find? (fun c => c.arrivedAt.isSome) with
  | none => s
  | some c =>
    match c.desc with
    | none => s
    | some d =>
      let own := ((c.rankOf d.rank).losses).getD []
      let all := (c.ranks.map (fun x => x.losses.getD [])).flatten.foldl (fun l p => addSet p l) own
      if all = own then s
      else ((s.colsOf k).filterMap (fun x => x.desc)).foldl (fun s y => s.sendList k y all) s

def execColMsgReform (m : ColMsg) (s : State) : Host.Outcome State Fault Refusal :=
  if !s.dev.powered || !colWhole m then .next (s.garbled m) else
  .next (
    let l := (List.range m.nelem).map (fun i => numAt m.payload (4 * i) 4)
    let other := s.cols.find? (fun c => c.reform && c.status.isNone && c.tenant == m.tenant && c.arrivedAt.isSome &&
      c.desc.any (fun d => d.seq == m.seq && d.setId != m.setId && d.members.getD m.from_ 0xFFFF == m.pkg))
    match other with
    | some c => (match c.key? with
      | some k => ((s.ackCol m).abortCol k ((c.desc.map (fun d => d.rank)).getD 0) 4 [])
      | none => s)
    | none =>
      s.hear 6 m (fun s _ _ => (s.updKey m.key (fun c => c.updRank m.from_ (fun x =>
        { x with started := true, losses := some (l.foldl (fun a p => addSet p a) []) }))).mergeLists m.key))

/-! ## Time-outs (R266, R482) -/

/-- The list goes round again. -/
def State.relist (s : State) (k : ColKey) : State :=
  match (s.colsOf k).find? (fun c => c.arrivedAt.isSome) with
  | some c => match c.desc with
    | some d => s.sendList k d (((c.rankOf d.rank).losses).getD [])
    | none => s
  | none => s

/-- No acknowledgement for ROUND: the package is lost, or joins a reform's list. -/
def execColAckTimeout (msg : Nat) (s : State) : Host.Outcome State Fault Refusal :=
  .next (match s.sentCols.find? (fun x => x.id == msg) with
    | none => s
    | some x =>
      if s.time < x.at_ + x.round then s
      else
        let s := { s with sentCols := s.sentCols.filter (fun y => y.id != msg) }
        if x.mtype = 5 then s
        else if x.mtype = 6 then
          (s.updKey x.msg.key (fun c => { (c.updRank x.msg.from_ (fun y =>
            { y with losses := y.losses.map (addSet x.dest) })) with lost := addSet x.dest c.lost })).relist x.msg.key
        else s.abortCol x.msg.key x.msg.from_ 1 [x.dest])

/-- A rank late by ROUND whose package has acknowledged (R482). -/
def execColStartTimeout (op : Nat) (s : State) : Host.Outcome State Fault Refusal :=
  .next (match s.op? op with
    | none => s
    | some o =>
      match o.body with
      | .col _ id =>
        (match s.col? id with
          | none => s
          | some c => (match c.desc, c.arrivedAt, c.key? with
            | some d, some t, some k =>
              let silent (r : Nat) : Bool := !(c.rankOf r).started && !c.lost.contains (d.members.getD r 0) &&
                !s.sentCols.any (fun x => x.dest == d.members.getD r 0 && x.msg.key == k)
              if c.status.isNone && decide (t + d.roundNs ≤ s.time) && (List.range d.members.length).any silent then
                s.abortCol k d.rank 2 []
              else s
            | _, _, _ => s))
      | _ => s)

def execAbortRecordExpiry (tenant setId seq : Nat) (s : State) : Host.Outcome State Fault Refusal :=
  .next { s with aborted := s.aborted.filter (fun a =>
    !(a.tenant == tenant && a.setId == setId && a.seq == seq && decide (a.at_ + 1000000000 ≤ s.time))) }

/-- A killed gang's ranks end at once (R487); their operations are given up with the gang. -/
def State.killRanks (s : State) (gang : Nat) : State :=
  let mine := s.cols.filter (fun c => c.gang == gang)
  let ids := (mine.map (fun c => c.ops.map (fun x => x.1))).flatten
  let s := mine.foldl (fun s c => match c.key?, c.desc, c.status, c.arrivedAt with
    | some k, some d, none, some _ => s.abortCol k d.rank 8 []
    | _, _, _, _ => s) s
  { s with cols := s.cols.filter (fun c => c.gang != gang), ops := s.ops.filter (fun o => !ids.contains o.id) }

/-- What the engine gives up for a page that never came (R266): the rank's collective ends late, DST keeps poison, and the
loss is its gang's error. -/
def State.loseCol (s : State) (o : Op) (id : Nat) : State :=
  match s.col? id with
  | none => s
  | some c =>
    let s := match c.desc, s.ctx? c.ctx, c.key? with
      | some d, some cx, some k =>
        let n := d.dstBytes
        let s := if c.arrivedAt.isSome then s.abortCol k d.rank 2 [] else s
        s.writeVa cx d.dst ((s.readVa cx d.dst n).map (fun (b : Byte × Bool) => (b.1, true)))
      | _, _, _ => s
    let s := s.updCol id (fun c => { c with status := some (c.status.getD 2) })
    match s.col? id, o.body with
    | some c, .col dst _ => (s.endColOp o c dst (c.status.getD 2)).loseAccess o
    | _, _ => s

/-- An engine's page has not come in 100 ms (R266): one last look, then the operation ends. -/
def execEnginePageTimeout (op : Nat) (s : State) : Host.Outcome State Fault Refusal :=
  .next (match s.op? op with
    | none => s
    | some o =>
      if !s.stillWaiting o then s
      else State.settleRequests (match o.body with
        | .copy _ _ _ done _ _ =>
          let s := s.runCopy o []
          (match s.op? op with
            | some p => match p.body with
              | .copy _ _ _ d _ _ => if d = done ∧ p.pageSince = o.pageSince then s.giveUp p else s
              | _ => s
            | none => s)
        | .col _ id => s.loseCol o id
        | _ => s.giveUp o) o.ctx)

end Sys2Proof.Machine
end

