-- ==== Sys2Proof/Machine/Debug.lean ====
section
/-! DEFINITION. Debug orders (R324 to R328), stopping waves (R314, R320), and the monitors (R331): what a write of sr.dord
or sr.mcfg posts, and the events that carry it out. -/

namespace Sys2Proof.Machine

/-! ## Holds (R318, R320, R324) -/

/-- A debug-halted wave goes on; one that holds a cause of its own enters its handler next (R315), and one whose group runs a
handler stays stopped with its group (R314). -/
def Wave.resumeDebug (w : Wave) (handler : Option Nat) : Wave :=
  if w.hold.isDebug then
    { w with hold := if w.ownCause || handler.any (· != w.id) then .stopped else .none, skid := 0 } else w

/-- It goes on for one instruction, which meets its cause afresh. -/
def Wave.stepDebug (w : Wave) : Wave :=
  if w.hold.isDebug then { w with hold := .debug true, ownCause := false, skid := 0 } else w

/-- A debugger's halt reaches a wave. -/
def Wave.haltDebug (w : Wave) : Wave :=
  match w.hold with
  | .none => { w with hold := .skid 8 true, skid := 0 }
  | .debug true => { w with hold := .skid 8 true, skid := 0 }
  | .skid n _ => { w with hold := .skid n true }
  | .stopped => { w with hold := .debug false }
  | _ => w

/-- Do two waves belong to one group? A task wave is alone. -/
def Wave.withGroup (w x : Wave) : Bool :=
  x.id == w.id || (x.gang.isSome && x.gang == w.gang && x.group == w.group && !x.ended)

/-- Halt group: every wave of the group is to stop, or, while its handler runs, has the halt pending. -/
def State.haltGroup (s : State) (w : Wave) : State :=
  if (s.handlerOf w).isSome || (w.gang.isNone && w.trapMode) then
    { s with waves := s.waves.map (fun (x : Wave) => if w.withGroup x then { x with haltPending := true } else x) }
  else
    let stops := s.waves.filter (fun x => w.withGroup x && x.hold == .stopped)
    stops.foldl (fun (s : State) x => s.trace x.ctx x.core 7 cDebug (x.trap.tpc.toNat % 2 ^ 56) 0)
      { s with waves := s.waves.map (fun (x : Wave) => if w.withGroup x then x.haltDebug else x) }

/-! ## The debug register (R317, R326) -/

def State.frozen (s : State) (core partition : Nat) : Bool := (s.coreAt core).frozen.any (fun f => f.1 == partition)

/-- Does a wave wait at a barrier that a debug-halted or frozen wave has still to reach (R326)? -/
def State.debugBlocked (s : State) (w : Wave) : Bool :=
  (w.frontier ++ w.heldEntries).any (fun e => match e.block with
    | .barrier b => (match w.gang.bind s.gang? with
      | some g =>
        let here := ((g.barrier? b).map (fun x => x.arrived)).getD []
        (s.participants g.id b).any (fun x => !here.contains x.id && (x.hold.isDebug || s.frozen x.core x.partition))
      | none => false)
    | _ => false)

def State.tdbg (s : State) (w : Wave) : Nat :=
  (if w.hold.isDebug then 1 else 0) + (if s.frozen w.core w.partition then 2 else 0) + (if s.debugBlocked w then 4 else 0)

/-! ## Targets and statuses (R324) -/

structure Target where
  ctx : Nat
  core : Nat
  partition : Nat
  seat : Nat
  deriving DecidableEq, Repr

/-- What sr.dtgt names; none where it is no place of the part. -/
def targetOf (d : Word) : Option Target :=
  let n := d.toNat
  if field n 6 2 ≠ 0 ∨ field n 23 9 ≠ 0 ∨ field n 10 5 > 16 then none
  else some { ctx := field n 0 6, core := 68 * field n 8 2 + 4 * field n 10 5 + field n 15 2, partition := field n 17 2,
              seat := field n 19 4 }

/-- The wave a target names. -/
def State.targetWave (s : State) (t : Target) : Option Wave :=
  s.waves.find? (fun w => w.ctx == t.ctx && w.core == t.core && w.partition == t.partition && w.seat == t.seat && w.resident)

/-- The status of an order of a wave: 0 where it will be carried out. A partition is a target's where its core's active
bank is the context's. -/
def State.orderStatus (s : State) (w : Wave) (cx : Ctx) (code : Nat) (d : Word) : Nat :=
  if cx.cls ≠ 1 then 1
  else match targetOf d with
  | none => 2
  | some t =>
    match s.ctx? t.ctx with
    | none => 2
    | some c =>
      if c.tenant ≠ cx.tenant then 1
      else if code ≤ 2 then 0
      else if code = 3 ∧ t.core = w.core ∧ t.partition = w.partition then 3
      else if code ≤ 4 then (if (s.coreAt t.core).ctx = some t.ctx then 0 else 2)
      else if (s.targetWave t).isSome then 0 else 2

/-- May the dump go to sr.dbuf (R327)? -/
def State.dumpOk (s : State) (cx : Ctx) : Bool :=
  cx.dbuf.toNat % pageBytes == 0 && s.rangeWritable cx cx.dbuf.toNat (640 * 1024)

/-! ## The dump (R328) -/

/-- Selector and kind of a pending write's destination. -/
def scoreDst (kind : Nat) : Slot → Nat × Nat
  | .v n => (n, kind)
  | .o n => (0xC0 + n, kind)
  | .q n => (0xE0 + n, 4)
  | .discard => (0xC9, kind)

/-- Scoreboard entries of an operation: one for each destination register. -/
def scoreOf (o : Op) (kind : Nat) (d : Dst) : List (List Byte) :=
  let names : List Slot := (d.lanes.map (fun x => x.2)).foldl (fun (ks : List Slot) k => if ks.contains k then ks else ks ++ [k]) []
  names.map (fun k =>
    let (sel, kind) := scoreDst kind k
    toBytes 8 o.pc ++ toBytes 1 sel ++ toBytes 1 kind ++ toBytes 2 0xFFFF ++
      toBytes 4 (maskOf ((d.lanes.filter (fun x => x.2 == k)).map (fun x => x.1))).toNat)

/-- What a matrix operation will write, by its command in an engine. -/
def State.matrixDst (s : State) (o : Op) : Option Dst :=
  ((s.coreAt o.home).engines.map (fun e => e.queue ++ e.running.toList)).flatten.findSome? (fun m =>
    if m.op = o.id then (match m with
      | .drain _ _ _ _ _ _ _ _ _ _ d => some d
      | .prune _ _ d _ => some d
      | _ => none) else none)

/-- The entries of a wave's scoreboard (R328): every write that has not landed. -/
def State.score (s : State) (w : Wave) : List (List Byte) :=
  ((s.ops.filter (fun o => o.wave == w.id)).map (fun o =>
    match o.body with
    | .matrix => ((s.matrixDst o).map (scoreOf o 2)).getD []
    | .copy _ _ _ _ _ _ => [toBytes 8 o.pc ++ toBytes 1 0xC9 ++ toBytes 1 3 ++ toBytes 2 0xFFFF ++ toBytes 4 o.lanes.toNat]
    | b => (b.dst?.map (scoreOf o 1)).getD [])).flatten.take 64

def Entry.dump (e : Entry) : List Byte :=
  toBytes 8 e.pc ++ toBytes 1 e.depth ++ toBytes 1 e.prio ++ toBytes 2 0 ++ toBytes 4 e.mask.toNat

/-- A wave's 32 KiB slot. -/
def State.dumpSlot (s : State) (w : Wave) : List Byte :=
  let es := sortBy Entry.before w.frontier ++ w.heldEntries
  let snap : Snap := { wave := w.id, n := w.regs, scalars := w.scalars, lanes := w.lanes
                       entry := es.headD { pc := 0, depth := 0, prio := 0, mask := 0 } }
  let lane (l : Nat) : Lane := w.lane l
  let o := (List.range 8).map (fun k => (laneList.map (fun l => toBytes 4 (wordAt (lane l).o k).val.toNat)).flatten)
  let lt := laneList.map (fun l => toBytes 4 (lane l).lt.lo.val.toNat ++ toBytes 4 (lane l).lt.hi.val.toNat)
  let score := s.score w
  slice 0 (snap.bytes ++ o.flatten ++ lt.flatten ++ slice 0 ((es.take 32).map Entry.dump).flatten 0 0x200 ++
    (w.ctrs.all.map (fun n => toBytes 1 n)).flatten ++ toBytes 1 score.length ++ toBytes 249 0 ++ score.flatten) 0 0x8000

/-- The dump at F (R327, R328). -/
def State.dump (s : State) (cx : Ctx) (buf : Nat) (d : Word) (core partition : Nat) : State :=
  let ws := s.waves.filter (fun w => w.core == core && w.partition == partition && w.resident && (s.coreAt core).ctx == some w.ctx)
  let valid := ws.foldl (fun n w => n ||| 2 ^ w.seat) 0
  let (n, s) := s.nextSeqNo core
  let head := slice 0 (toBytes 4 0x5358465A ++ toBytes 2 valid ++ toBytes 2 0 ++ toBytes 8 s.stamp ++ toBytes 4 n ++
    toBytes 4 d.toNat) 0 0x8000
  let s := s.writeOut cx none buf (head.map (fun b => (b, false)))
  ws.foldl (fun (s : State) w => s.writeOut cx none (buf + 0x8000 * (w.seat + 1)) ((s.dumpSlot w).map (fun b => (b, false)))) s

/-! ## Carrying an order out -/

/-- The effect of an order with status 0. -/
def State.effect (s : State) (cx : Ctx) (p : Posted) (t : Target) : State :=
  match p.code with
  | 1 => s.updCtx t.ctx (fun c => { c with debugger := some cx.id })
  | 2 =>
    let s := s.updCtx t.ctx (fun c => { c with debugger := none })
    { s with waves := s.waves.map (fun (w : Wave) => if w.ctx = t.ctx then w.resumeDebug (s.handlerOf w) else w) }
  | 3 =>
    if s.frozen t.core t.partition then s
    else
      let s := s.updCore t.core (fun c => { c with frozen := c.frozen ++ [(t.partition, s.time)] })
      (s.trace t.ctx t.core 8 0 0 0).dump cx p.buf.toNat p.target t.core t.partition
  | 4 =>
    if s.frozen t.core t.partition then
      (s.updCore t.core (fun c => { c with frozen := c.frozen.filter (fun f => f.1 != t.partition) })).trace t.ctx t.core 9 0 0 0
    else s
  | 5 => ((s.targetWave t).map (fun w => s.updWave w.id (fun x => x.resumeDebug (s.handlerOf x)))).getD s
  | 6 => ((s.targetWave t).map (fun w => s.updWave w.id Wave.stepDebug)).getD s
  | _ => ((s.targetWave t).map (fun w => s.haltGroup w)).getD s

/-- The first order of a code a wave has posted, with its context. -/
def State.posted? (s : State) (wave code : Nat) : Option (Ctx × Posted) :=
  s.ctxs.findSome? (fun c => (c.posted.find? (fun p => p.wave == wave && p.code == code)).map (fun p => (c, p)))

/-- An order a wave posted is carried out; one whose target has gone meanwhile is answered so. -/
def State.carryOut (s : State) (wave code : Nat) : State :=
  match s.posted? wave code, s.wave? wave with
  | some (cx, p), some w =>
    let status := s.orderStatus w cx code p.target
    let s := s.updCtx cx.id (fun c => { c with posted := c.posted.erase p, dord := BitVec.ofNat 32 status })
    (match targetOf p.target with
      | some t => if status = 0 then s.effect cx p t else s
      | none => s)
  | some (cx, p), none => s.updCtx cx.id (fun c => { c with posted := c.posted.erase p })
  | none, _ => s

def execDebugAttach (wave : Nat) (s : State) : Host.Outcome State Fault Refusal := .next (s.carryOut wave 1)
def execDebugDetach (wave : Nat) (s : State) : Host.Outcome State Fault Refusal := .next (s.carryOut wave 2)
def execDebugFreeze (wave : Nat) (s : State) : Host.Outcome State Fault Refusal := .next (s.carryOut wave 3)
def execDebugThaw (wave : Nat) (s : State) : Host.Outcome State Fault Refusal := .next (s.carryOut wave 4)
def execDebugResume (wave : Nat) (s : State) : Host.Outcome State Fault Refusal := .next (s.carryOut wave 5)
def execDebugStep (wave : Nat) (s : State) : Host.Outcome State Fault Refusal := .next (s.carryOut wave 6)
def execDebugHaltGroup (wave : Nat) (s : State) : Host.Outcome State Fault Refusal := .next (s.carryOut wave 7)

/-- A freeze ends 10 ms after F (R327). -/
def execFreezeTimeout (core partition : Nat) (s : State) : Host.Outcome State Fault Refusal :=
  .next (match (s.coreAt core).frozen.find? (fun f => f.1 == partition) with
    | some (_, f) =>
      if s.time < f + 10000000 then s
      else
        let s := s.updCore core (fun c => { c with frozen := c.frozen.filter (fun f => f.1 != partition) })
        (match (s.coreAt core).ctx with
          | some ctx => s.trace ctx core 9 0 0 0
          | none => s)
    | none => s)

/-! ## A sibling stops (R314, R320, R324) -/

/-- SIBLING_STOP: a wave that a halt reached stops at its next instruction; a debugger's halt halts it there. -/
def execSiblingStop (wave : Nat) (s : State) : Host.Outcome State Fault Refusal :=
  .next (match s.wave? wave with
    | none => s
    | some w =>
      match w.hold with
      | .skid _ debug =>
        let s := s.updWave wave (fun w => w.stopAt debug)
        if debug then s.trace w.ctx w.core 7 cDebug ((w.stopAt true).trap.tpc.toNat % 2 ^ 56) 0 else s
      | _ => s)

/-! ## Monitors (R331) -/

/-- The monitor a write of sr.mcfg names: die and number. -/
def monitorOf (v : Dword) : Nat × Nat := (field v.toNat 0 2, field v.toNat 2 5)

/-- A monitor is configured; its counts stay. -/
def State.configure (s : State) (v : Dword) : State :=
  let (die, idx) := monitorOf v
  let old := (s.dev.monitors.find? (fun m => m.die == die && m.idx == idx)).getD
    { die := die, idx := idx, source := 0, shift := 0, base := 0 }
  let new : Monitor := { old with source := field v.toNat 8 4, shift := field v.toNat 12 5, base := field v.toNat 24 24 }
  { s with dev := { s.dev with monitors := s.dev.monitors.filter (fun m => !(m.die == die && m.idx == idx)) ++ [new] } }

/-- A monitor is cleared; its configuration stays. -/
def State.clearMonitor (s : State) (v : Dword) : State :=
  let (die, idx) := monitorOf v
  { s with dev := { s.dev with monitors := s.dev.monitors.map (fun (m : Monitor) =>
      if m.die = die ∧ m.idx = idx then { m with min := 0, max := 0, count := 0, bins := [] } else m) } }

def State.carryMonitor (s : State) (wave code : Nat) (v : Dword) (f : State → State) : State :=
  match s.posted? wave code with
  | some (cx, p) =>
    if p.buf = v then f (s.updCtx cx.id (fun c => { c with posted := c.posted.erase p })) else s
  | none => s

def execMonitorConfigure (wave : Nat) (value : Dword) (s : State) : Host.Outcome State Fault Refusal :=
  .next (s.carryMonitor wave 8 value (fun s => s.configure value))

def execMonitorClear (wave : Nat) (value : Dword) (s : State) : Host.Outcome State Fault Refusal :=
  .next (s.carryMonitor wave 9 value (fun s => s.clearMonitor value))

/-- MONITOR_SAMPLE: the depth of every core's task FIFO. -/
def execMonitorSample (s : State) : Host.Outcome State Fault Refusal :=
  .next ((List.range 272).foldl (fun (s : State) i =>
    if s.dev.rmap.isSpare i then s else s.sample (dieOf i) 11 (s.coreAt i).fifo.length) s)

/-- An item of a monitor as prof.rd reads it (R494). -/
def State.monitorItem (s : State) (die idx item : Nat) : Nat :=
  match s.dev.monitors.find? (fun m => m.die == die && m.idx == idx) with
  | some m =>
    if item < 16 then m.bins.getD item 0
    else if item = 16 then m.min
    else if item = 17 then m.max
    else m.count
  | none => 0

end Sys2Proof.Machine
end

