-- ==== Sys2Proof/Machine/Integer.lean ====
section
/-! DEFINITION. Integer, logic, bit-field, move and address instructions, opcodes 0x00 to 0x1F (R353 to R367). -/

namespace Sys2Proof
open Machine

/-! ## Forms -/

/-- D, A, B of a one-word form, all 32 bits (R357). -/
def F1.two (f : F1) : Form :=
  { a := .sel f.a.toNat 1, b := .sel f.b.toNat 1, d := .sel f.d.toNat 1 true }

/-- D, A; B is written 0x00. -/
def F1.one (f : F1) : Form := { ok := f.b == 0, a := .sel f.a.toNat 1, d := .sel f.d.toNat 1 true }

/-- D alone: A:B is the immediate. -/
def F1.immediate (f : F1) : Form := { d := .sel f.d.toNat 1 true }

/-- Does MOD [12] put an immediate in place of B (R356)? -/
def F2.isImm (f : F2) : Bool := f.modAt 12 1 == 1

/-- Saturation, MOD [13]. -/
def F2.sat (f : F2) : Bool := f.modAt 13 1 == 1

/-- C as a sign-extended immediate, as 64 bits. -/
def F2.imm8 (f : F2) : Nat := wrap 64 (toSigned 8 f.cN)

/-- The encoding checks of the vector class (R342, R355, R356): accepted types, saturation, immediate, the greatest code
of MOD [11:8]; MOD [15:14] is reserved. -/
def F2.vecOk (f : F2) (types : List Nat) (sat imm : Bool) (low : Nat) : Bool :=
  types.contains f.tyN && (sat || !f.sat) && (imm || !f.isImm) && f.modAt 14 2 == 0 && decide (f.modAt 8 4 ≤ low)

def allTypes : List Nat := [0, 1, 2, 3, 4, 5, 6, 7]
def rawTypes : List Nat := [4, 5, 6, 7]

/-- D, A, B of a type, B an immediate where MOD [12] says so; `bw` words of B. -/
def F2.binary (f : F2) (types : List Nat) (sat : Bool) (low bw : Nat) : Form :=
  { f.form 0 (f.vecOk types sat true low && (if f.isImm then f.b == 0 else f.c == 0)) with
    a := .sel f.aN (tyWords f.tyN)
    b := if f.isImm then .imm f.imm8 bw else .sel f.bN bw
    d := .sel f.dN (tyWords f.tyN) true }

/-- D, A of a type, `dw` words of D; B and C unused. -/
def F2.unary (f : F2) (types : List Nat) (sat : Bool) (dw : Nat) : Form :=
  { f.form 0 (f.vecOk types sat false 0 && f.b == 0 && f.c == 0) with
    a := .sel f.aN (tyWords f.tyN)
    d := .sel f.dN dw true }

/-- D, A, B, C of a type. -/
def F2.ternary (f : F2) (types : List Nat) (sat : Bool) : Form :=
  { f.form 0 (f.vecOk types sat false 0) with
    a := .sel f.aN (tyWords f.tyN)
    b := .sel f.bN (tyWords f.tyN)
    c := .sel f.cN (tyWords f.tyN)
    d := .sel f.dN (tyWords f.tyN) true }

def F2.intBinary (f : F2) (sat : Bool) : Form := f.binary allTypes sat 0 (tyWords f.tyN)
def F2.logicBinary (f : F2) : Form := f.binary rawTypes false 0 (tyWords f.tyN)
def F2.shiftForm (f : F2) : Form := f.binary rawTypes false 0 1
def F2.bfxForm (f : F2) : Form := f.binary allTypes false 0 (tyWords f.tyN)
def F2.bfiForm (f : F2) : Form := f.ternary rawTypes false
def F2.countForm (f : F2) : Form := f.unary rawTypes false 1
def F2.brevForm (f : F2) : Form := f.unary rawTypes false (tyWords f.tyN)
def F2.movForm (f : F2) : Form := f.unary rawTypes false (tyWords f.tyN)

/-- A compare's operands (R364); the predicate is D [2:0]. -/
def F2.icmpForm (f : F2) : Form :=
  { f.binary allTypes false 5 (tyWords f.tyN) with
    ok := (f.binary allTypes false 5 (tyWords f.tyN)).ok && f.dN < 8
    d := .none }

/-- sel (R365): C [2:0] is a predicate. -/
def F2.selForm (f : F2) : Form :=
  { f.form 0 (f.vecOk rawTypes false false 0 && f.cN < 8) with
    a := .sel f.aN (tyWords f.tyN)
    b := .sel f.bN (tyWords f.tyN)
    d := .sel f.dN (tyWords f.tyN) true }

/-- lea (R366): A and D are pairs, B 32 bits. -/
def F2.leaForm (f : F2) : Form :=
  { f.binary [2, 6] false 15 1 with a := .sel f.aN 2, d := .sel f.dN 2 true }

/-- xset and xadd (R367): D names an index register; xadd's immediate stands for A (log 21). -/
def F2.indexForm (f : F2) (imm : Bool) (low : Nat) : Form :=
  { f.form 0 (f.vecOk [2] false imm low && f.dN < 8 && f.b == 0 && (if f.isImm then f.a == 0 else f.c == 0)) with
    a := if f.isImm then .imm f.imm8 1 else .sel f.aN 1 }

/-- Three-word forms (R360): word 2 is the immediate; MOD [16] is reserved where A is no source. -/
def F3.moviForm (f : F3) : Form :=
  { f.w.form 0 (f.w.vecOk allTypes false false 0 && f.w.a == 0 && f.w.b == 0 && f.w.c == 0 && !f.w.mod.getLsbD 8) with
    d := .sel f.w.dN (tyWords f.w.tyN) true }
def F3.iaddForm (f : F3) : Form :=
  { f.w.form 0 (f.w.vecOk allTypes true false 0 && f.w.b == 0 && f.w.c == 0) with
    a := .sel f.w.aN (tyWords f.w.tyN)
    d := .sel f.w.dN (tyWords f.w.tyN) true }

end Sys2Proof

namespace Sys2Proof.Machine

/-! ## Values -/

/-- Quotient towards zero and remainder with the sign of a (R359); a divisor of 0 gives −1 and a. -/
def intQuot (a b : Int) : Int := if b = 0 then -1 else Int.tdiv a b
def intRem (a b : Int) : Int := if b = 0 then a else Int.tmod a b

/-- A shift's result (R361): 0 shl, 1 shr, 2 sra, 3 rol, on w bits of a by n. -/
def shiftVal (kind w a n : Nat) : Nat :=
  let a := a % 2 ^ w
  match kind with
  | 0 => if n < w then a * 2 ^ n % 2 ^ w else 0
  | 1 => if n < w then a / 2 ^ n else 0
  | 2 => wrap w (toSigned w a / (2 ^ min n (w - 1) : Nat))
  | _ => let r := n % w; (a * 2 ^ r + a / 2 ^ (w - r)) % 2 ^ w

/-- Bit-field extract and insert (R362). -/
def bfxVal (ty a ctl : Nat) : Int :=
  let w := tyWidth ty
  let len := min (field ctl 8 8) w
  let f := a % 2 ^ w / 2 ^ (field ctl 0 8) % 2 ^ len
  if tySigned ty && decide (0 < len) then toSigned len f else (f : Int)

def bfiVal (w a b ctl : Nat) : Nat :=
  let pos := field ctl 0 8
  let len := min (field ctl 8 8) w
  let m := (2 ^ len - 1) * 2 ^ pos % 2 ^ w
  let a := a % 2 ^ w
  (a &&& (2 ^ w - 1 - m)) ||| (b * 2 ^ pos % 2 ^ w &&& m)

/-- One bits among the low n. -/
def popCount (a : Nat) : Nat → Nat
  | 0 => 0
  | n + 1 => a / 2 ^ n % 2 + popCount a n

/-- Zero bits from bit n − 1 downwards, and from bit 0 upwards. -/
def leadingZeros (a : Nat) : Nat → Nat
  | 0 => 0
  | n + 1 => if a / 2 ^ n % 2 = 1 then 0 else 1 + leadingZeros a n
def trailingZeros (a : Nat) : Nat → Nat
  | 0 => 0
  | n + 1 => if a % 2 = 1 then 0 else 1 + trailingZeros (a / 2) n

/-- The low n bits in reverse. -/
def reverseBits (a : Nat) : Nat → Nat
  | 0 => 0
  | n + 1 => a % 2 * 2 ^ n + reverseBits (a / 2) n

def notBits (w a : Nat) : Nat := 2 ^ w - 1 - a % 2 ^ w

/-! ## Shared meanings -/

/-- D ← an exact integer function of A, B and C by the type (R355, R358). -/
def State.intOp (s : State) (F : Form) (ty : Nat) (sat : Bool) (f : Int → Int → Int → Int) :
    Host.Outcome State Fault Refusal :=
  s.arith F true (fun x => tyResult ty sat (f (tyVal ty x.a) (tyVal ty x.b) (tyVal ty x.c)))

/-- D ← a bitwise function of A and B, w bits wide (R361). -/
def State.bitOp (s : State) (F : Form) (ty : Nat) (checked : Bool) (f : Nat → Nat → Nat → Nat → Nat) :
    Host.Outcome State Fault Refusal :=
  s.arith F checked (fun x => tyExtend ty (f (tyWidth ty) x.a x.b x.c % 2 ^ tyWidth ty))

/-- D ← a count of A's bits, in one word (R363). -/
def State.countOp (s : State) (F : Form) (ty : Nat) (f : Nat → Nat → Nat) : Host.Outcome State Fault Refusal :=
  s.arith F false (fun x => f (x.a % 2 ^ tyWidth ty) (tyWidth ty))

/-- D ← A with its marks (R225, R365): the low w bits, zero-extended below 32. -/
def State.moveOp (s : State) (F : Form) (ty : Nat) : Host.Outcome State Fault Refusal :=
  s.run F (fun env => env.vec F true false (fun _ lane =>
    (F.a.read env.w lane).map (fun ws =>
      if tyWidth ty < 32 then ws.map (fun w => { w with val := BitVec.ofNat 32 (w.val.toNat % 2 ^ tyWidth ty) })
      else ws)))

/-- sel (R365): only the chosen operand is read. -/
def State.selectOp (s : State) (F : Form) (ty pred : Nat) : Host.Outcome State Fault Refusal :=
  s.run F (fun env => env.vec F true false (fun _ lane =>
    ((if lane.pred pred then F.a else F.b).val env.w lane).map
      (fun v => wordsOf F.resultWords (tyExtend ty (v % 2 ^ tyWidth ty)))))

/-- The fields of an index register set by MOD [11:8] (R367). -/
def xsetVal (old a mode : Nat) : Nat :=
  match mode with
  | 0 => a % 2 ^ 24
  | 1 => old / 2 ^ 8 * 2 ^ 8 + a % 2 ^ 8
  | 2 => old / 2 ^ 16 * 2 ^ 16 + a % 2 ^ 8 * 2 ^ 8 + old % 2 ^ 8
  | _ => a % 2 ^ 8 * 2 ^ 16 + old % 2 ^ 16

/-- An index register and lt are written (R367); a latch tagged through it loses its contents (R222). -/
def State.indexOp (s : State) (F : Form) (k : Nat) (checked : Bool) (f : Nat → Nat → Nat) :
    Host.Outcome State Fault Refusal :=
  s.run F (fun env s => do
    let rs ← env.each (fun _ lane => (F.a.val env.w lane).map (fun a => f ((lane.x.getD k 0).toNat % 2 ^ 24) a))
    let bad := env.residueLanes checked
    let s := s.updWave env.w.id (fun w =>
      let w := rs.foldl (fun w r => w.updLane r.1 (fun l =>
        { (l.setIndex k r.2) with lt := PPair.marked (bad.contains r.1) (r.2 % 2 ^ 24) })) w
      match w.latch with
      | some t => if t.sel.toNat = 0xD0 + k then { w with latch := none } else w
      | none => w)
    env.fall (bad.foldl (fun s l => s.residueError env l) s))

/-! ## One-word instructions (R357) -/

def execIaddI32 (f : F1) (s : State) : Host.Outcome State Fault Refusal := s.intOp f.two 2 false (fun a b _ => a + b)
def execIsubI32 (f : F1) (s : State) : Host.Outcome State Fault Refusal := s.intOp f.two 2 false (fun a b _ => a - b)
def execImulI32 (f : F1) (s : State) : Host.Outcome State Fault Refusal := s.intOp f.two 2 false (fun a b _ => a * b)
def execIminI32 (f : F1) (s : State) : Host.Outcome State Fault Refusal := s.intOp f.two 2 false (fun a b _ => min a b)
def execImaxI32 (f : F1) (s : State) : Host.Outcome State Fault Refusal := s.intOp f.two 2 false (fun a b _ => max a b)
def execAndB32 (f : F1) (s : State) : Host.Outcome State Fault Refusal := s.bitOp f.two 6 false (fun _ a b _ => a &&& b)
def execOrB32 (f : F1) (s : State) : Host.Outcome State Fault Refusal := s.bitOp f.two 6 false (fun _ a b _ => a ||| b)
def execXorB32 (f : F1) (s : State) : Host.Outcome State Fault Refusal := s.bitOp f.two 6 false (fun _ a b _ => a ^^^ b)
def execAndnB32 (f : F1) (s : State) : Host.Outcome State Fault Refusal :=
  s.bitOp f.two 6 false (fun w a b _ => a &&& notBits w b)
def execShlB32 (f : F1) (s : State) : Host.Outcome State Fault Refusal :=
  s.bitOp f.two 6 true (fun w a n _ => shiftVal 0 w a (n % 2 ^ 32))
def execShrB32 (f : F1) (s : State) : Host.Outcome State Fault Refusal :=
  s.bitOp f.two 6 true (fun w a n _ => shiftVal 1 w a (n % 2 ^ 32))
def execSraB32 (f : F1) (s : State) : Host.Outcome State Fault Refusal :=
  s.bitOp f.two 6 true (fun w a n _ => shiftVal 2 w a (n % 2 ^ 32))
def execMovB32 (f : F1) (s : State) : Host.Outcome State Fault Refusal := s.moveOp f.one 6
def execNotB32 (f : F1) (s : State) : Host.Outcome State Fault Refusal := s.bitOp f.one 6 false (fun w a _ _ => notBits w a)
def execPopcB32 (f : F1) (s : State) : Host.Outcome State Fault Refusal := s.countOp f.one 6 popCount

/-- movi (R346): D ← A:B, A the high byte, as a signed 16-bit value. -/
def execMovi (f : F1) (s : State) : Host.Outcome State Fault Refusal :=
  s.arith f.immediate false (fun _ => wrap 32 (toSigned 16 (2 ^ 8 * f.a.toNat + f.b.toNat)))

/-! ## Two-word integer arithmetic (R358, R359) -/

def execIadd (f : F2) (s : State) : Host.Outcome State Fault Refusal :=
  s.intOp (f.intBinary true) f.tyN f.sat (fun a b _ => a + b)
def execIsub (f : F2) (s : State) : Host.Outcome State Fault Refusal :=
  s.intOp (f.intBinary true) f.tyN f.sat (fun a b _ => a - b)
def execImul (f : F2) (s : State) : Host.Outcome State Fault Refusal :=
  s.intOp (f.intBinary true) f.tyN f.sat (fun a b _ => a * b)
/-- The high part: floor(a × b / 2^w). -/
def execImulh (f : F2) (s : State) : Host.Outcome State Fault Refusal :=
  s.intOp (f.intBinary false) f.tyN false (fun a b _ => Int.fdiv (a * b) (2 ^ tyWidth f.tyN : Nat))
def execImad (f : F2) (s : State) : Host.Outcome State Fault Refusal :=
  s.intOp (f.ternary allTypes true) f.tyN f.sat (fun a b c => a * b + c)
def execIdiv (f : F2) (s : State) : Host.Outcome State Fault Refusal :=
  s.intOp (f.intBinary false) f.tyN false (fun a b _ => intQuot a b)
def execIrem (f : F2) (s : State) : Host.Outcome State Fault Refusal :=
  s.intOp (f.intBinary false) f.tyN false (fun a b _ => intRem a b)
def execImin (f : F2) (s : State) : Host.Outcome State Fault Refusal :=
  s.intOp (f.intBinary false) f.tyN false (fun a b _ => min a b)
def execImax (f : F2) (s : State) : Host.Outcome State Fault Refusal :=
  s.intOp (f.intBinary false) f.tyN false (fun a b _ => max a b)
/-- |a|; .i types only. -/
def execIabs (f : F2) (s : State) : Host.Outcome State Fault Refusal :=
  s.intOp (f.unary [0, 1, 2, 3] true (tyWords f.tyN)) f.tyN f.sat (fun a _ _ => (a.natAbs : Int))
def execIneg (f : F2) (s : State) : Host.Outcome State Fault Refusal :=
  s.intOp (f.unary allTypes true (tyWords f.tyN)) f.tyN f.sat (fun a _ _ => -a)

/-! ## Logic, shifts and bit fields (R361 to R363) -/

def execAnd (f : F2) (s : State) : Host.Outcome State Fault Refusal :=
  s.bitOp f.logicBinary f.tyN false (fun _ a b _ => a &&& b)
def execOr (f : F2) (s : State) : Host.Outcome State Fault Refusal :=
  s.bitOp f.logicBinary f.tyN false (fun _ a b _ => a ||| b)
def execXor (f : F2) (s : State) : Host.Outcome State Fault Refusal :=
  s.bitOp f.logicBinary f.tyN false (fun _ a b _ => a ^^^ b)
def execAndn (f : F2) (s : State) : Host.Outcome State Fault Refusal :=
  s.bitOp f.logicBinary f.tyN false (fun w a b _ => a &&& notBits w b)
def execNot (f : F2) (s : State) : Host.Outcome State Fault Refusal :=
  s.bitOp (f.unary rawTypes false (tyWords f.tyN)) f.tyN false (fun w a _ _ => notBits w a)
def execShl (f : F2) (s : State) : Host.Outcome State Fault Refusal :=
  s.bitOp f.shiftForm f.tyN true (fun w a n _ => shiftVal 0 w a (n % 2 ^ 32))
def execShr (f : F2) (s : State) : Host.Outcome State Fault Refusal :=
  s.bitOp f.shiftForm f.tyN true (fun w a n _ => shiftVal 1 w a (n % 2 ^ 32))
def execSra (f : F2) (s : State) : Host.Outcome State Fault Refusal :=
  s.bitOp f.shiftForm f.tyN true (fun w a n _ => shiftVal 2 w a (n % 2 ^ 32))
def execRol (f : F2) (s : State) : Host.Outcome State Fault Refusal :=
  s.bitOp f.shiftForm f.tyN true (fun w a n _ => shiftVal 3 w a (n % 2 ^ 32))
def execBfx (f : F2) (s : State) : Host.Outcome State Fault Refusal :=
  s.arith f.bfxForm false (fun x => tyResult f.tyN false (bfxVal f.tyN x.a x.b))
def execBfi (f : F2) (s : State) : Host.Outcome State Fault Refusal :=
  s.bitOp f.bfiForm f.tyN false bfiVal
def execPopc (f : F2) (s : State) : Host.Outcome State Fault Refusal := s.countOp f.countForm f.tyN popCount
def execClz (f : F2) (s : State) : Host.Outcome State Fault Refusal := s.countOp f.countForm f.tyN leadingZeros
def execCtz (f : F2) (s : State) : Host.Outcome State Fault Refusal := s.countOp f.countForm f.tyN trailingZeros
def execBrev (f : F2) (s : State) : Host.Outcome State Fault Refusal :=
  s.bitOp f.brevForm f.tyN false (fun w a _ _ => reverseBits (a % 2 ^ w) w)

/-! ## Compare, move, select, address, index registers (R364 to R367) -/

def execIcmp (f : F2) (s : State) : Host.Outcome State Fault Refusal :=
  s.run f.icmpForm (fun env => env.vecPred f.dN true (fun _ lane =>
    (f.icmpForm.args env.w lane).map (fun x => intCond (f.modAt 8 4) (tyVal f.tyN x.a) (tyVal f.tyN x.b))))
def execMov (f : F2) (s : State) : Host.Outcome State Fault Refusal := s.moveOp f.movForm f.tyN
def execSel (f : F2) (s : State) : Host.Outcome State Fault Refusal := s.selectOp f.selForm f.tyN f.cN
def execLea (f : F2) (s : State) : Host.Outcome State Fault Refusal :=
  s.arith f.leaForm true (fun x =>
    (x.a + wrap 64 (tyVal f.tyN x.b) * 2 ^ f.modAt 8 4) % 2 ^ 64)
def execXset (f : F2) (s : State) : Host.Outcome State Fault Refusal :=
  s.indexOp (f.indexForm false 3) f.dN true (fun old a => xsetVal old a (f.modAt 8 4))
def execXadd (f : F2) (s : State) : Host.Outcome State Fault Refusal :=
  s.indexOp (f.indexForm true 0) f.dN true (fun old a => xsetVal old ((old + a) % 2 ^ 8) 1)

/-! ## Three-word forms (R360) -/

/-- Word 2 as a value of a type: sign-extended for .i64, zero-extended for .n64, cut to the narrower widths. -/
def immVal (ty : Nat) (imm : Word) : Int := tyVal ty (if ty = 3 then wrap 64 (toSigned 32 imm.toNat) else imm.toNat)

def execMoviImm32 (f : F3) (s : State) : Host.Outcome State Fault Refusal :=
  s.arith f.moviForm false (fun _ => tyResult f.w.tyN false (immVal f.w.tyN f.imm))
def execIaddImm32 (f : F3) (s : State) : Host.Outcome State Fault Refusal :=
  s.intOp f.iaddForm f.w.tyN f.w.sat (fun a _ _ => a + immVal f.w.tyN f.imm)

end Sys2Proof.Machine
end

