-- ==== Sys2Proof/Machine/Predicate.lean ====
section
/-! DEFINITION. Predicate and wave instructions, opcodes 0x20 to 0x27 (R368 to R372). -/

namespace Sys2Proof
open Machine

/-- Predicate fields (R368): bits [7:3] are 0; MOD [8] inverts A, MOD [9] B; TYPE 2; every other MOD bit is reserved. -/
def F2.predForm (f : F2) (useB : Bool) : Form :=
  f.form 0 (f.tyN == 2 && f.c == 0 && !f.mod.getLsbD 8 && decide (f.mod.toNat % 256 ≤ (if useB then 3 else 1)) &&
    decide (f.dN < 8) && decide (f.aN < 8) && (if useB then decide (f.bN < 8) else f.b == 0))

/-- A wave operation over a predicate (R370): MOD [11:8] up to `low`. -/
def F2.voteForm (f : F2) (low : Nat) : Form :=
  f.form 0 (f.vecOk [2] false false low && !f.mod.getLsbD 8 && decide (f.aN < 8) && f.b == 0 && f.c == 0)

def F2.voteD (f : F2) : Form := { f.voteForm 2 with ok := (f.voteForm 2).ok && decide (f.dN < 8) }
def F2.ballotForm (f : F2) : Form := { f.voteForm 0 with d := .sel f.dN 1 true }

def F2.shflForm (f : F2) : Form :=
  { f.form 0 (f.vecOk [6, 7] false false 3 && f.c == 0) with
    a := .sel f.aN (tyWords f.tyN), b := .sel f.bN 1, d := .sel f.dN (tyWords f.tyN) true }

/-- redux (R372): saturation belongs to add alone (R355). -/
def F2.reduxForm (f : F2) : Form :=
  { f.form 0 (f.vecOk [2, 3, 6, 7] (f.modAt 8 4 == 0) false 5 && f.b == 0 && f.c == 0) with
    a := .sel f.aN (tyWords f.tyN), d := .sel f.dN (tyWords f.tyN) true }

end Sys2Proof

namespace Sys2Proof.Machine

/-- pD ← a function of two predicates, each inverted as MOD says (R368). -/
def State.predOp (s : State) (f : F2) (F : Form) (g : Bool → Bool → Bool) : Host.Outcome State Fault Refusal :=
  s.run F (fun env => env.vecPred f.dN false (fun _ lane =>
    .ok (g (lane.pred f.aN != (f.modAt 8 1 == 1)) (lane.pred f.bN != (f.modAt 9 1 == 1)))))

def execPand (f : F2) (s : State) : Host.Outcome State Fault Refusal := s.predOp f (f.predForm true) (fun a b => a && b)
def execPor (f : F2) (s : State) : Host.Outcome State Fault Refusal := s.predOp f (f.predForm true) (fun a b => a || b)
def execPxor (f : F2) (s : State) : Host.Outcome State Fault Refusal := s.predOp f (f.predForm true) (fun a b => a != b)
def execPnot (f : F2) (s : State) : Host.Outcome State Fault Refusal := s.predOp f (f.predForm false) (fun a _ => !a)

/-- The active lanes in which predicate k holds (R369). -/
def Env.holds (env : Env) (k : Nat) : List Nat := env.lanes.filter (fun l => (env.w.lane l).pred k)

/-- vote's result (R370): 0 any, 1 all, 2 uni. -/
def voteVal (mode holding active : Nat) : Bool :=
  match mode with
  | 0 => decide (holding ≠ 0)
  | 1 => holding == active
  | _ => holding == 0 || holding == active

def execVote (f : F2) (s : State) : Host.Outcome State Fault Refusal :=
  s.run f.voteD (fun env => env.vecPred f.dN false (fun _ _ =>
    .ok (voteVal (f.modAt 8 4) (env.holds f.aN).length env.lanes.length)))

def execBallot (f : F2) (s : State) : Host.Outcome State Fault Refusal :=
  s.run f.ballotForm (fun env => env.vec f.ballotForm false false (fun _ _ =>
    .ok [{ val := maskOf (env.holds f.aN) }]))

/-- The lane a shuffle reads (R371), when it is one of the 32. -/
def shflLane (mode l n : Nat) : Option Nat :=
  match mode with
  | 0 => if n < 32 then some n else none
  | 1 => if n ≤ l then some (l - n) else none
  | 2 => if l + n < 32 then some (l + n) else none
  | _ => if l ^^^ n < 32 then some (l ^^^ n) else none

/-- shfl (R371): a lane whose source is outside the wave or not active reads its own value. A marked word is consumed by
the lane that reads it. -/
def execShfl (f : F2) (s : State) : Host.Outcome State Fault Refusal :=
  s.run f.shflForm (fun env => env.vec f.shflForm false false (fun l lane =>
    match f.shflForm.b.val env.w lane with
    | .error c => .error c
    | .ok n =>
      let src := match shflLane (f.modAt 8 4) l n with
        | some k => if hasLane env.act k then k else l
        | none => l
      (f.shflForm.a.val env.w (env.w.lane src)).map (fun v => wordsOf f.shflForm.resultWords v)))

/-- redux's exact reduction (R372): 0 add, 1 min, 2 max, 3 and, 4 or, 5 xor. -/
def reduxVal (ty op : Nat) (sat : Bool) (vs : List Nat) : Nat :=
  let is := vs.map (tyVal ty)
  match op with
  | 0 => tyResult ty sat (is.foldl (· + ·) 0)
  | 1 => tyResult ty false (is.tail.foldl min (is.headD 0))
  | 2 => tyResult ty false (is.tail.foldl max (is.headD 0))
  | 3 => tyExtend ty (vs.foldl (fun a b => a &&& b) (2 ^ tyWidth ty - 1))
  | 4 => tyExtend ty (vs.foldl (fun a b => a ||| b) 0)
  | _ => tyExtend ty (vs.foldl (fun a b => a ^^^ b) 0)

/-- redux; its adder is residue-checked (R243). -/
def execRedux (f : F2) (s : State) : Host.Outcome State Fault Refusal :=
  s.run f.reduxForm (fun env s => do
    let vs ← env.each (fun _ lane => f.reduxForm.a.val env.w lane)
    let r := reduxVal f.tyN (f.modAt 8 4) f.sat (vs.map (fun v => v.2))
    env.vec f.reduxForm false (f.modAt 8 4 == 0) (fun _ _ => .ok (wordsOf f.reduxForm.resultWords r)) s)

end Sys2Proof.Machine
end

