-- ==== Sys2Proof/Machine/MapImage.lean ====
section
/-! DEFINITION. The resource map's 40 KiB as programs and MAP_SNAP read them (R35 to R44). -/

namespace Sys2Proof.Machine

/-- Bytes of the map. -/
def mapBytesLen : Nat := 0xA000

/-- A quad's live-core mask: the cores that are neither absent nor retired (DESIGN CHOICE, log 101). -/
def RMap.quadLive (m : RMap) (die q : Nat) : Nat :=
  [0, 1, 2, 3].foldl (fun acc i =>
    let st := (m.coreEnt (68 * die + 4 * q + i)).st
    if st = 0 ∨ st = 4 then acc else acc + 2 ^ i) 0

/-- How many cores of a die are in a state. -/
def RMap.coresIn (m : RMap) (die st : Nat) : Nat :=
  ((List.range 68).filter (fun i => (m.coreEnt (68 * die + i)).st == st)).length

def RMap.headerBytes (m : RMap) : List Byte :=
  toBytes 4 0x5358524D ++ toBytes 2 1 ++ toBytes 2 0 ++ toBytes 8 m.version ++ toBytes 8 m.changedAt ++ toBytes 2 m.cause ++
    toBytes 2 m.detail ++ toBytes 36 0

def RMap.clockBytes (m : RMap) : List Byte := toBytes 2 m.mhz ++ toBytes 2 1500 ++ toBytes 2 m.limit ++ toBytes 58 0

def RMap.dieBytes (m : RMap) (die : Nat) : List Byte :=
  toBytes 1 (if m.diesLost.contains die then 4 else 1) ++ toBytes 1 (m.coresIn die 1) ++ toBytes 1 (m.coresIn die 2) ++
    toBytes 1 (m.coresIn die 4) ++ toBytes 28 0

def RMap.quadBytes (m : RMap) (i : Nat) : List Byte :=
  toBytes 1 (m.quadState (i / 17) (i % 17)) ++ toBytes 1 (m.quadLive (i / 17) (i % 17)) ++ toBytes 2 0

def CoreEnt.bytes (e : CoreEnt) : List Byte :=
  toBytes 4 e.st ++ toBytes 4 ((indexed e.lanes).foldl (fun n x => n + 16 ^ x.1 * (x.2 % 16)) 0) ++
    toBytes 4 e.banksOut.toNat ++ toBytes 2 e.regsOut.toNat ++ toBytes 2 0

def SliceEnt.bytes (e : SliceEnt) : List Byte := toBytes 4 (e.ways.toNat + 2 ^ 12 * (if e.homeOnly then 6 else 1))

def StackEnt.bytes (e : StackEnt) : List Byte :=
  toBytes 2 e.st ++ toBytes 2 e.spare ++ toBytes 4 e.remapped ++ toBytes 4 e.retired ++ toBytes 4 0

def PortEnt.bytes (e : PortEnt) : List Byte :=
  toBytes 1 (if e.up then 1 else 4) ++ toBytes 1 (if e.relay then 1 else 0) ++ toBytes 2 e.replayFails

/-- A relay-table entry (R43): up to four ids, 0xFFFF in an empty field. -/
def RMap.relayBytes (m : RMap) (pod : Nat) : List Byte :=
  ((slice 0xFFFF ((lookupBy pod m.relay).getD []) 0 4).map (fun id => toBytes 2 id)).flatten

def RMap.peerBytes (m : RMap) (i : Nat) : List Byte :=
  match lookupBy i m.peers with
  | some p => toBytes 4 (2 ^ 31 + p)
  | none => toBytes 4 0

/-- A remap entry (R44). -/
def RMap.remapBytes (m : RMap) (i : Nat) : List Byte :=
  match m.remaps[i]? with
  | some r => toBytes 8 (2 ^ 60 * r.stack + 2 ^ 56 * r.kind + 2 ^ 24 * r.bad + r.target)
  | none => toBytes 8 0

/-- The map word at a multiple of 8 below 0xA000 (R37). -/
def RMap.word (m : RMap) (off : Nat) : Nat :=
  let of (bs : List Byte) (at_ : Nat) : Nat := numAt bs at_ 8
  if off < 0x40 then of m.headerBytes off
  else if off < 0x80 then of m.clockBytes (off - 0x40)
  else if off < 0x100 then of (m.dieBytes ((off - 0x80) / 32)) ((off - 0x80) % 32)
  else if off < 0x210 then
    let i := (off - 0x100) / 4
    of (m.quadBytes i ++ m.quadBytes (i + 1)) 0
  else if off < 0x400 then 0
  else if off < 0x1500 then of (m.coreEnt ((off - 0x400) / 16)).bytes ((off - 0x400) % 16)
  else if off < 0x1900 then
    let i := (off - 0x1500) / 4
    of ((m.sliceEnt i).bytes ++ (m.sliceEnt (i + 1)).bytes) 0
  else if off < 0x19C0 then of (((lookupBy ((off - 0x1900) / 16) m.stackEnts).getD {}).bytes) ((off - 0x1900) % 16)
  else if off < 0x1A20 then
    let i := (off - 0x19C0) / 4
    of ((m.portEnt i).bytes ++ (m.portEnt (i + 1)).bytes) 0
  else if off < 0x1A28 then m.lanes % 4
  else if off < 0x1A40 then 0
  else if off < 0x1AC0 then of (m.relayBytes ((off - 0x1A40) / 8)) 0
  else if off < 0x1BC0 then
    let i := (off - 0x1AC0) / 4
    of (m.peerBytes i ++ m.peerBytes (i + 1)) 0
  else if off < 0x2000 then 0
  else of (m.remapBytes ((off - 0x2000) / 8)) 0

/-- `len` bytes of the map from an offset, both multiples of 8 (R66). -/
def RMap.part (m : RMap) (off len : Nat) : List Byte :=
  ((List.range (len / 8)).map (fun i => toBytes 8 (m.word (off + 8 * i)))).flatten

end Sys2Proof.Machine
end

