-- ==== Sys2Proof/Machine/System.lean ====
section
/-! DEFINITION. System instructions, opcodes 0xE0 to 0xE9 (R488 to R495): the map, the special and trap registers (R215,
R317), software traps, the return from a handler, halt, and the counters. -/

namespace Sys2Proof
open Machine

/-- MOD [15:8] is 0, and [16] too where A holds no source (R342, R460). -/
def F2.sysForm (f : F2) (ok : Bool) : Form := f.form 5 (f.tyN == 0 && f.b == 0 && f.mod == 0 && ok)
def F2.sysSrcForm (f : F2) (ok : Bool) : Form := f.form 5 (f.tyN == 0 && f.b == 0 && f.mod.toNat % 256 == 0 && ok)

/-- Four registers from vN (R488, R495). -/
def F2.mapRdForm (f : F2) : Form :=
  { f.sysSrcForm (f.c == 0 && decide (f.dN < 0xC0) && f.dN % 4 == 0) with
    ctrs := [.ld], writes := true, a := .sel f.aN 1, d := .sel f.dN 4 false, notPure := true }
def F2.mapAckForm (f : F2) : Form := { f.sysSrcForm (f.d == 0 && f.c == 0) with a := .sel f.aN 2, notPure := true }
def F2.trapForm (f : F2) : Form := f.sysForm (f.d == 0 && f.a == 0)
def F2.tretForm (f : F2) : Form := f.sysForm (f.d == 0 && f.a == 0 && f.c == 0)
def F2.haltForm (f : F2) : Form := { f.sysForm (f.d == 0 && f.a == 0) with notPure := true }
def F2.profForm (f : F2) : Form :=
  { f.sysSrcForm (f.c == 0) with ctrs := [.ld], writes := f.dN != 0xC9, a := .sel f.aN 1, d := .sel f.dN 2 false, notPure := true }

/-- Words of a special register (R490). -/
def srWords (i : Nat) : Nat :=
  if [0x0A, 0x0B, 0x40, 0x61, 0x63, 0x64].contains i ∨ (0x42 ≤ i ∧ i ≤ 0x4A) then 2 else 1

/-- Indices sr.get reads, and those sr.set writes (R215, R317). -/
def srReadable (i : Nat) : Bool :=
  decide (i ≤ 0x0E) || (decide (0x40 ≤ i) && decide (i ≤ 0x4B)) || (decide (0x50 ≤ i) && decide (i ≤ 0x64))
def srWritable (i : Nat) : Bool :=
  [0x40, 0x42, 0x48, 0x49, 0x4A].contains i || (decide (0x50 ≤ i) && decide (i ≤ 0x64))

/-- A read of sr.dord waits for the order before it. -/
def F2.srGetForm (f : F2) : Form :=
  { f.sysForm (f.a == 0 && srReadable f.cN) with
    d := .sel f.dN (srWords f.cN) false, unit := if f.cN = 0x62 then .orders else .none, notPure := true }
def F2.srSetForm (f : F2) : Form :=
  { f.sysSrcForm (f.d == 0 && srWritable f.cN) with a := .sel f.aN (srWords f.cN), notPure := true }

def F1.brkForm (f : F1) : Form := F1.form 5 (f.d == 0 && f.a == 0)
def F1.nopForm (f : F1) : Form := { F1.form 0 (f.d == 0 && f.a == 0 && f.b == 0) with anyClass := true }

end Sys2Proof

namespace Sys2Proof.Machine

/-! ## The map (R488, R489) -/

def execMapRd (f : F2) (s : State) : Host.Outcome State Fault Refusal :=
  s.run f.mapRdForm (fun env s => do
    let as_ ← env.eachAt (fun _ lane => match f.mapRdForm.a.val env.w lane with | .ok a => some a | .error _ => none) (fun _ => false) (fun _ lane =>
      match f.mapRdForm.a.val env.w lane with
      | .error c => .error c
      | .ok a => if a % 8 ≠ 0 then .error cAlign else if a ≥ mapBytesLen then .error cIndex else .ok a)
    let m := s.dev.rmap
    env.deliverTo f f.mapRdForm 4 (as_.map (fun x => (x.1, wordsOf 2 (m.word x.2) ++ wordsOf 2 m.version))) s)

/-- A context acknowledges versions up to V (R47, R489): what it no longer owes is dropped, and with the last version it is
no longer overdue. A gang suspended for them goes on waiting for system software (R50). -/
def State.ackMap (s : State) (ctx v : Nat) : State :=
  match s.ctx? ctx with
  | none => s
  | some c =>
    let owed := c.owed.filter (fun o => decide (v < o.version))
    (s.updCtx ctx (fun c => { c with owed := owed, overdue := c.overdue && !owed.isEmpty })).unforce

def execMapAckInstr (f : F2) (s : State) : Host.Outcome State Fault Refusal :=
  s.run f.mapAckForm (fun env s => do
    match f.mapAckForm.a.val env.w (env.w.lane env.first) with
    | .error c => .error (env.raise c)
    | .ok v => env.fall (if v = 0 then s else s.ackMap env.cx.id v))

/-! ## Special registers (R215, R317, R490) -/

/-- A trap register of a wave. -/
def TrapRegs.get (t : TrapRegs) (i : Nat) : Nat :=
  match i with
  | 0x40 => t.tvec.toNat
  | 0x41 => t.tcause.toNat
  | 0x42 => t.tpc.toNat
  | 0x43 => t.tnpc.toNat
  | 0x44 => t.tentry.toNat
  | 0x45 => t.taddr.toNat
  | 0x46 => t.tinst.toNat
  | 0x47 => t.ttime.toNat
  | 0x48 => t.tsave.toNat
  | 0x49 => t.twp0.toNat
  | 0x4A => t.twp1.toNat
  | _ => (t.tlm.getD (i - 0x50) 0).toNat

/-- A writable one takes a value. -/
def TrapRegs.set (t : TrapRegs) (i v : Nat) : TrapRegs :=
  let d : Dword := BitVec.ofNat 64 v
  match i with
  | 0x40 => { t with tvec := d }
  | 0x42 => { t with tpc := d }
  | 0x48 => { t with tsave := d }
  | 0x49 => { t with twp0 := d }
  | 0x4A => { t with twp1 := d }
  | _ => { t with tlm := putAt t.tlm (i - 0x50) (BitVec.ofNat 32 v) }

/-- A register of the context. -/
def Ctx.getReg (c : Ctx) (i : Nat) : Nat :=
  match i with
  | 0x60 => c.dtgt.toNat
  | 0x61 => c.dbuf.toNat
  | 0x62 => c.dord.toNat
  | 0x63 => c.mcfg.toNat
  | _ => c.trbase.toNat

/-- What sr.get reads in lane l; in a task wave sr.group is `group`. -/
def State.special (s : State) (env : Env) (group : Nat) (i l : Nat) : Nat :=
  let w := env.w
  match i with
  | 0x00 => l
  | 0x01 => if w.task then 0 else w.index
  | 0x02 => group
  | 0x03 => if w.task then noGang else s.gangIndex w.gang
  | 0x04 => coreInQuad w.core
  | 0x05 => quadOf w.core
  | 0x06 => dieOf w.core
  | 0x07 => s.dev.pkg
  | 0x08 => w.role
  | 0x09 => env.e.depth + (if w.trapMode then 2 ^ 8 else 0) + (if w.haltPending then 2 ^ 9 else 0)
  | 0x0A => s.dev.rmap.version
  | 0x0B => s.stamp
  | 0x0C => env.region.word
  | 0x0D => env.cx.id + 2 ^ 16 * env.cx.tenant
  | 0x0E => w.regs % 256 + 2 ^ 8 * w.maxEntries
  | 0x4B => s.tdbg w
  | i => if i < 0x60 then w.trap.get i else env.cx.getReg i

def execSrGet (f : F2) (s : State) : Host.Outcome State Fault Refusal :=
  s.run f.srGetForm (fun env s =>
    let free := env.w.task && f.cN == 2
    let group := if free then (s.freeWord).1.toNat else env.w.group
    let s := if free then (s.freeWord).2 else s
    env.vec f.srGetForm false false (fun l _ => .ok (wordsOf (srWords f.cN) (s.special env group f.cN l))) s)

/-- Is it a watchpoint code (R317)? -/
def watchOk (v : Nat) : Bool :=
  field v 61 2 != 3 && (!bitOf v 63 || (decide (3 ≤ field v 56 5) && decide (field v 56 5 ≤ 17)))

/-- An order is written (R324, R327). -/
def Env.order (env : Env) (v : Nat) (s : State) : Res :=
  if v < 1 ∨ 7 < v then .error (env.raise cIllegal)
  else
    let status := s.orderStatus env.w env.cx v env.cx.dtgt
    if status = 0 ∧ v = 3 ∧ !s.dumpOk env.cx then .error (env.raise cPermission)
    else
      let p : Posted := { wave := env.w.id, code := v, target := env.cx.dtgt, buf := env.cx.dbuf }
      env.fall (s.updCtx env.cx.id (fun c =>
        { c with dord := BitVec.ofNat 32 status, posted := if status = 0 then c.posted ++ [p] else c.posted }))

/-- sr.mcfg is written (R331). -/
def Env.monitor (env : Env) (v : Nat) (s : State) : Res :=
  if env.cx.cls ≠ 1 then .error (env.raise cPermission)
  else
    let p : Posted := { wave := env.w.id, code := if bitOf v 63 then 9 else 8, target := 0, buf := BitVec.ofNat 64 v }
    env.fall (s.updCtx env.cx.id (fun c => { c with mcfg := BitVec.ofNat 64 v, posted := c.posted ++ [p] }))

def execSrSet (f : F2) (s : State) : Host.Outcome State Fault Refusal :=
  s.run f.srSetForm (fun env s => do
    match f.srSetForm.a.val env.w (env.w.lane env.first) with
    | .error c => .error (env.raise c)
    | .ok v =>
      let i := f.cN
      if env.act = 0 then env.fall s
      else if (i = 0x49 ∨ i = 0x4A) ∧ !watchOk v then .error (env.raise cIllegal)
      else if i < 0x60 then env.fall (s.updWave env.w.id (fun w => { w with trap := w.trap.set i v }))
      else if i = 0x62 then env.order v s
      else if i = 0x63 then env.monitor v s
      else
        env.fall (s.updCtx env.cx.id (fun c => match i with
          | 0x60 => { c with dtgt := BitVec.ofNat 32 v }
          | 0x61 => { c with dbuf := BitVec.ofNat 64 v }
          | _ => { c with trbase := BitVec.ofNat 64 v, traceIdx := 0 })))

/-! ## Traps (R318, R491, R492) -/

def execTrap (f : F2) (s : State) : Host.Outcome State Fault Refusal :=
  s.run f.trapForm (fun env _ => .error (env.raise cSoftware))

def execBrk (f : F1) (s : State) : Host.Outcome State Fault Refusal :=
  s.run f.brkForm (fun env _ => .error (env.raise cBreak))

def execNop (f : F1) (s : State) : Host.Outcome State Fault Refusal :=
  s.run f.nopForm (fun env => env.fall)

/-- tret ends trap mode; outside it, it is no instruction. -/
def execTret (f : F2) (s : State) : Host.Outcome State Fault Refusal :=
  s.run f.tretForm (fun env s =>
    if env.w.trapMode then .ok (s.leaveTrap ((s.wave? env.w.id).getD env.w)) else .error (env.raise cIllegal))

/-! ## halt (R68, R493) -/

/-- Every gang of a context is to be suspended (R68). -/
def State.haltContext (s : State) (ctx : Nat) : State := s.updCtx ctx (fun c => { c with halted := true })

/-- The wave stops behind its halt. -/
def execHalt (f : F2) (s : State) : Host.Outcome State Fault Refusal :=
  s.run f.haltForm (fun env s =>
    (env.fall s).map (fun s =>
      ((s.updWave env.w.id (fun w => { w with hold := .halted })).event env.cx.id 2 0 noGang (f.cN + waveInfo env.w)).haltContext
        env.cx.id))

/-! ## prof.rd (R329 to R331, R494) -/

/-- The space and item of a selector, or its lane's cause. -/
def State.profTry (s : State) (env : Env) (a : Nat) : Try (Option Nat) :=
  let sp := a / 2 ^ 13
  let group := env.gang.bind (fun g => g.group? env.w.group)
  if sp = 0 then
    if env.cx.cls ≠ 1 then .error cPermission
    else if field a 7 1 ≠ 0 ∨ field a 8 5 > 18 then .error cIndex
    else .ok (some (s.monitorItem (field a 0 2) (field a 2 5) (field a 8 5)))
  else if sp = 1 then
    if field a 4 9 ≠ 0 then .error cIndex else .ok (if env.w.task then some 0 else none)
  else if a = 2 ^ 14 then .ok (some (group.elim 0 (fun r => if env.w.task then 0 else r.issued)))
  else .error cIndex

/-- Stall counters count cycles, which the model leaves open (log 9): each lane reads a free value. -/
def execProfRd (f : F2) (s : State) : Host.Outcome State Fault Refusal :=
  s.run f.profForm (fun env s => do
    let rs ← env.each (fun _ lane =>
      (both (f.profForm.d.slot env.w.regs lane)
        (match f.profForm.a.val env.w lane with
          | .error c => .error c
          | .ok a => s.profTry env a)).map (fun x => x.2))
    let (vals, s) := rs.foldl (fun (acc : List (Nat × List PWord) × State) x =>
      match x.2 with
      | some v => (acc.1 ++ [(x.1, wordsOf 2 v)], acc.2)
      | none =>
        let (v, t) := acc.2.freeWord
        (acc.1 ++ [(x.1, wordsOf 2 v.toNat)], t)) ([], s)
    env.deliverTo f f.profForm 2 vals s)

end Sys2Proof.Machine
end

