-- ==== Sys2Proof/Machine/Forms.lean ====
section
/-! DEFINITION. What each instruction of Glezu names (R339, R346): the form its meaning issues with, as the readiness of
R107 needs it before the issue. -/

namespace Sys2Proof
open Machine

/-- The form of an instruction; commands and events have none. -/
def Instr.form : Instr → Form
  | .iaddI32 f => f.two
  | .isubI32 f => f.two
  | .imulI32 f => f.two
  | .iminI32 f => f.two
  | .imaxI32 f => f.two
  | .andB32 f => f.two
  | .orB32 f => f.two
  | .xorB32 f => f.two
  | .andnB32 f => f.two
  | .shlB32 f => f.two
  | .shrB32 f => f.two
  | .sraB32 f => f.two
  | .movB32 f => f.one
  | .notB32 f => f.one
  | .popcB32 f => f.one
  | .movi f => f.immediate
  | .iadd f => f.intBinary true
  | .isub f => f.intBinary true
  | .imul f => f.intBinary true
  | .imulh f => f.intBinary false
  | .imad f => f.ternary allTypes true
  | .idiv f => f.intBinary false
  | .irem f => f.intBinary false
  | .imin f => f.intBinary false
  | .imax f => f.intBinary false
  | .iabs f => f.unary [0, 1, 2, 3] true (tyWords f.tyN)
  | .ineg f => f.unary allTypes true (tyWords f.tyN)
  | .and f => f.logicBinary
  | .or f => f.logicBinary
  | .xor f => f.logicBinary
  | .andn f => f.logicBinary
  | .not f => f.unary rawTypes false (tyWords f.tyN)
  | .shl f => f.shiftForm
  | .shr f => f.shiftForm
  | .sra f => f.shiftForm
  | .rol f => f.shiftForm
  | .bfx f => f.bfxForm
  | .bfi f => f.bfiForm
  | .popc f => f.countForm
  | .clz f => f.countForm
  | .ctz f => f.countForm
  | .brev f => f.brevForm
  | .icmp f => f.icmpForm
  | .mov f => f.movForm
  | .sel f => f.selForm
  | .lea f => f.leaForm
  | .xset f => f.indexForm false 3
  | .xadd f => f.indexForm true 0
  | .moviImm32 f => f.moviForm
  | .iaddImm32 f => f.iaddForm
  | .pand f => f.predForm true
  | .por f => f.predForm true
  | .pxor f => f.predForm true
  | .pnot f => f.predForm false
  | .vote f => f.voteD
  | .ballot f => f.ballotForm
  | .shfl f => f.shflForm
  | .redux f => f.reduxForm
  | .bra f => f.braForm
  | .brx f => f.brxForm
  | .call f => f.callForm
  | .callx f => f.callxForm
  | .ret f => f.retForm
  | .exit f => f.exitForm
  | .rgive f => f.rgiveForm
  | .rclaim f => f.poolForm
  | .repack f => f.repackForm
  | .krnLaunch f => f.krnForm
  | .fadd f => f.floatTwo false true
  | .fsub f => f.floatTwo false true
  | .fmul f => f.floatTwo false true
  | .fma f => f.fmaForm false
  | .fmin f => f.floatTwo false false
  | .fmax f => f.floatTwo false false
  | .fcmp f => f.fcmpForm false
  | .fclass f => f.floatOne false false 1
  | .frnd f => f.floatOne false true 1
  | .fdiv f => f.floatTwo false true
  | .fsqrt f => f.floatOne false true 1
  | .frcp f => f.floatOne false true 1
  | .frsq f => f.floatOne false true 1
  | .fexp2 f => f.funcForm
  | .flog2 f => f.funcForm
  | .fsin f => f.funcForm
  | .fcos f => f.funcForm
  | .fscale f => f.fscaleForm false
  | .fexpo f => f.floatOne false false 1
  | .faddF64 f => f.floatTwo true true
  | .fsubF64 f => f.floatTwo true true
  | .fmulF64 f => f.floatTwo true true
  | .fmaF64 f => f.fmaForm true
  | .fminF64 f => f.floatTwo true false
  | .fmaxF64 f => f.floatTwo true false
  | .fcmpF64 f => f.fcmpForm true
  | .fclassF64 f => f.floatOne true false 1
  | .frndF64 f => f.floatOne true true 2
  | .fdivF64 f => f.floatTwo true true
  | .fsqrtF64 f => f.floatOne true true 2
  | .frcpF64 f => f.floatOne true true 2
  | .frsqF64 f => f.floatOne true true 2
  | .fscaleF64 f => f.fscaleForm true
  | .fexpoF64 f => f.floatOne true false 1
  | .cvt f => f.cvtForm
  | .qnt f => f.qntForm
  | .dqnt f => f.dqntForm
  | .bmax f => f.bmaxForm
  | .pack f => f.packForm
  | .unpack f => f.packForm
  | .mma f => f.mmaForm false
  | .mmas f => f.mmaForm true
  | .mzero f => f.mzeroForm
  | .mdrain f => f.mdrainForm
  | .mdrainSp f => f.mdrainSpForm
  | .mmeta f => f.mmetaForm
  | .mstat f => f.mstatForm
  | .ldG f => f.ldGForm
  | .stG f => f.stGForm
  | .ldSp f => f.ldSpForm
  | .stSp f => f.stSpForm
  | .ldRo f => f.ldGForm
  | .ldAcq f => f.ldAcqForm
  | .stRel f => f.stRelForm
  | .ldv f => f.ldvForm
  | .stv f => f.stvForm
  | .pref f => f.prefForm
  | .invL1 f => f.l1Form
  | .wbL1 f => f.wbL1Form
  | .atomAdd f => f.atomForm false false
  | .atomMin f => f.atomForm false false
  | .atomMax f => f.atomForm false false
  | .atomAnd f => f.atomForm false false
  | .atomOr f => f.atomForm false false
  | .atomXor f => f.atomForm false false
  | .atomXch f => f.atomForm false false
  | .atomCas f => f.atomForm false true
  | .fatomAdd f => f.atomForm true false
  | .redAdd f => f.redForm .add
  | .redMin f => f.redForm .min
  | .redMax f => f.redForm .max
  | .redAnd f => f.redForm .and
  | .redOr f => f.redForm .or
  | .redXor f => f.redForm .xor
  | .hgat f => f.hgatForm
  | .cpy f => f.cpyForm
  | .cpyMx f => f.cpyMxForm
  | .cpyCk f => f.cpyCkForm
  | .wait f => f.waitForm
  | .semInc f => f.semGive
  | .semWait f => f.semForm
  | .semSet f => f.semGive
  | .barArrive f => f.barGive
  | .barWait f => f.barForm
  | .barSync f => f.barGive
  | .fenceAcq f => f.fenceForm .loads
  | .fenceRel f => f.fenceForm .none
  | .fenceAr f => f.fenceForm .both
  | .sramMode f => f.sramForm
  | .tskSpawn f => f.spawnForm
  | .tskSpawnp f => f.spawnpForm
  | .tskJoin f => f.joinForm
  | .tskPark f => f.parkForm
  | .tskExit f => f.exitForm
  | .reuInv f => f.reuInvForm
  | .reuStat f => f.reuStatForm
  | .rayCast f => f.emitForm 11
  | .rayBeam f => f.emitForm 16
  | .rayAccept f => f.verdictForm
  | .rayIgnore f => f.verdictForm
  | .rayTerm f => f.verdictForm
  | .rayRd f => f.rayRdForm
  | .rgnOpen f => f.rgnOpenForm
  | .rgnCommit f => f.rgnCommitForm
  | .rgnAbort f => f.rgnAbortForm
  | .rgnStat f => f.rgnStatForm
  | .colStart f => f.colForm
  | .colReform f => f.colForm
  | .colStat f => f.colStatForm
  | .mapRd f => f.mapRdForm
  | .mapAckInstr f => f.mapAckForm
  | .srGet f => f.srGetForm
  | .srSet f => f.srSetForm
  | .trap f => f.trapForm
  | .tret f => f.tretForm
  | .brk f => f.brkForm
  | .nop f => f.nopForm
  | .halt f => f.haltForm
  | .profRd f => f.profForm
  | .ctxCreate _
  | .ctxDestroy _
  | .ctxPolicy _
  | .memMap _
  | .memUnmap _
  | .launch _
  | .ctxHalt _
  | .ctxResume _
  | .mapAck _
  | .ckpt _
  | .restore _
  | .ckWindow _
  | .attest _
  | .mapSnap _
  | .powerLimit _
  | .relaySet _
  | .peerClear _
  | .mapRebuild _
  | .geomIn _
  | .fwWrite _
  | .fwCommit _
  | .loadDataLands _ _
  | .storePerformed _
  | .atomicAtHome _
  | .copyComplete _
  | .cpyMxFollowOn _
  | .matrixCmdStart _ _
  | .matrixCmdComplete _ _
  | .queueDeliveryPush _
  | .barrierRelease _ _
  | .semWaitPass _ _ _
  | .rclaimGrant _ _ _ _
  | .repackMove _
  | .regionOpenRelease _
  | .regionSnapshotDone _
  | .commitPoint _
  | .commitDrainDone _
  | .commitTokenReturn _ _
  | .rollback _
  | .remountReplayStart _
  | .gangKill _
  | .gangRelaunch _
  | .launchComplete _
  | .trapEntry _
  | .siblingStop _
  | .poisonContainment _
  | .dispatcherStep
  | .taskWaveIssue _ _
  | .reuseLookup _
  | .reuseHitCopyDone _
  | .passStart _
  | .treeletLoaded _
  | .segmentCommit _ _
  | .passClose _
  | .rayAppendComplete _
  | .anyHitCandidate _ _ _
  | .collectiveComplete _
  | .moduleReset _
  | .mainInputOutOfRange
  | .clockLower _
  | .clockRaise _
  | .telemetry _ _
  | .timestampSyncSend
  | .timestampSync _
  | .portDown _
  | .portUp _
  | .flitCrcFail _ _
  | .remoteResponse _ _
  | .remoteTimeout _
  | .peerRequest _
  | .unsupportedRequest _ _
  | .unknownVendorMessage _ _
  | .relayForward _
  | .utenaurnFrame _
  | .utenaurnLaneDown _ _
  | .stackLost _
  | .dieLost _
  | .ckptQuiesceTimeout
  | .ckptWriteDone
  | .mapAckDeadline _
  | .mapStaleForcedRollback _
  | .farrierLaneSwap _ _ _
  | .farrierCoreRetire _
  | .farrierUnitRetire _
  | .errorWindowExpiry _
  | .rowScoreHalve
  | .groomClearPage _
  | .preemption _
  | .shadowBankSwap _
  | .spillComplete _
  | .saveSpaceExhausted _
  | .restorePlacement _
  | .waveForced _
  | .entryForced _ _ _
  | .taskGangQueue _
  | .taskGangRelease _
  | .taskRefill _
  | .sceneRelease _ _
  | .passStreamStop _
  | .geomPageRequest _ _ _
  | .parkTimeout _ _ _
  | .enginePageTimeout _
  | .freezeTimeout _ _
  | .monitorSample
  | .colMsgStart _
  | .colMsgData _
  | .colMsgResult _
  | .colMsgAck _
  | .colMsgAbort _
  | .colMsgReform _
  | .colAckTimeout _
  | .colStartTimeout _
  | .abortRecordExpiry _ _ _
  | .debugAttach _
  | .debugDetach _
  | .debugFreeze _
  | .debugThaw _
  | .debugResume _
  | .debugStep _
  | .debugHaltGroup _
  | .monitorConfigure _ _
  | .monitorClear _ _
  | .sramModeChangeDone _ => {}

end Sys2Proof
end

