-- ==== Sys2Proof/Machine/Issue.lean ====
section
/-! DEFINITION. What a partition issues (R107, R108, R190 to R192, R214, R221, R224, R271, R272, R341): when a wave is
ready, which wave is chosen, and what the choice leaves behind. -/

namespace Sys2Proof.Machine

/-! ## Registers with a pending write (R221) -/

/-- Main and operand-file registers of lane l that operations of a wave will write. -/
structure Pending where
  lane : Nat
  slot : Slot
  words : Nat
  deriving DecidableEq, Repr

def Dst.pending (d : Dst) : List Pending := d.lanes.map (fun x => { lane := x.1, slot := x.2, words := d.words })

def MCmd.dst? : MCmd → Option Dst
  | .drain _ _ _ _ _ _ _ _ _ _ d => some d
  | .prune _ _ d _ => some d
  | _ => none

/-- Every pending register write of a wave: of its operations, and of its commands in matrix engines. -/
def State.pending (s : State) (wave : Nat) : List Pending :=
  let ops := (s.ops.filter (fun o => o.wave == wave)).filterMap (fun o => o.body.dst?)
  let cmds := (s.cores.map (fun c => (c.engines.map (fun e => (e.queue ++ e.running.toList).filter
    (fun m => m.wave == wave))).flatten)).flatten.filterMap (fun c => c.dst?)
  ((ops ++ cmds).map (fun d => d.pending)).flatten

/-- Does a pending write touch `words` registers from a slot? -/
def Pending.hits (p : Pending) (s : Slot) (words : Nat) : Bool :=
  match p.slot, s with
  | .v n, .v m => decide (n < m + words) && decide (m < n + p.words)
  | .o n, .o m => decide (n < m + words) && decide (m < n + p.words)
  | _, _ => false

/-- The registers an operand reads in a lane. -/
def Pos.slots (w : Wave) (lane : Lane) : Pos → List (Slot × Nat)
  | .sel code words =>
    if code < 0xC0 then [(.v code, words)]
    else if code < 0xC8 then [(.o (code - 0xC0), words)]
    else if 0xD0 ≤ code ∧ code < 0xD8 then
      match lane.indexed (code - 0xD0) words w.regs with
      | .ok r => [(.v r, words)]
      | .error _ => []
    else []
  | _ => []

def Dest.slots (w : Wave) (lane : Lane) (d : Dest) : List (Slot × Nat) :=
  match d.slot w.regs lane with
  | .ok s =>
    match d with
    | .sel _ words _ => [(s, words)]
    | _ => []
  | .error _ => []

/-- Every register a form names in a lane. -/
def Form.slots (F : Form) (w : Wave) (lane : Lane) : List (Slot × Nat) :=
  F.a.slots w lane ++ F.b.slots w lane ++ F.c.slots w lane ++ F.d.slots w lane ++
    (F.allRanges w).map (fun r => (Slot.v r.1, r.2))

/-- No register it names has a pending write: by its number in any lane, by an index register in an active lane. -/
def Form.landed (F : Form) (w : Wave) (act : Mask) (ps : List Pending) : Bool :=
  let fixed := F.slots w {}
  ps.all (fun p => !fixed.any (fun x => p.hits x.1 x.2) &&
    (!hasLane act p.lane || !(F.slots w (w.lane p.lane)).any (fun x => p.hits x.1 x.2)))

/-! ## Orderings (R271, R272, R280, R454) -/

/-- Are the earlier accesses of the lanes' threads and the earlier stores of the core performed (R271)? -/
def State.released (s : State) (w : Wave) (act : Mask) : Bool :=
  !(s.ops.any (fun o => (o.wave == w.id && o.lanes &&& act != 0 && o.body.isAccess) ||
    (o.core == w.core && o.body.isStore)))

def State.loadsDone (s : State) (w : Wave) (act : Mask) : Bool :=
  !(s.ops.any (fun o => o.wave == w.id && o.lanes &&& act != 0 && o.body.isLoad))

/-- Do the counters a mask names hold at most t (R454)? -/
def Counters.atMost (c : Counters) (mask t : Nat) : Bool :=
  ((indexed c.all).filter (fun x => bitOf mask x.1)).all (fun x => decide (x.2 ≤ t))

def Need.met (n : Need) (s : State) (w : Wave) (act : Mask) (ps : List Pending) : Bool :=
  match n with
  | .none => true
  | .release => s.released w act
  | .loads => s.loadsDone w act
  | .both => s.released w act && s.loadsDone w act
  | .idle rel => w.ctrs.all.all (fun c => c == 0) && (!rel || s.released w act)
  | .counts mask t => w.ctrs.atMost mask t
  | .arrival c => s.hasArrived w c || s.released w act
  | .given k => !(ps.any (fun p => p.hits (.v (w.regs - k)) k))

/-! ## Units (R107) -/

/-- A scene's free segments, and its context's running passes (R157). -/
def State.segmentsFree (s : State) (ctx : Nat) (addr : Nat) : Bool :=
  match s.scenes.find? (fun c => c.ctx == ctx && c.addr == addr) with
  | some c => decide (c.free.length > 128 * ((s.passes.filter (fun p => p.ctx == ctx && p.scene == addr)).length + 1))
  | none => true

def UnitNeed.met (u : UnitNeed) (s : State) (env : Env) (F : Form) : Bool :=
  match u with
  | .none => true
  | .engine e => ((s.coreAt env.w.core).engines.getD (e.getD (env.w.partition % 2)) {}).queue.length < 8
  | .tile t => s.cores.all (fun c => c.engines.all (fun e =>
      (e.queue ++ e.running.toList).all (fun m => m.tile? != some t ||
        !(s.op? m.op).any (fun o => o.ctx == env.w.ctx && o.core == env.w.core))))
  | .tasks => env.buffering ||
    decide (256 - (s.coreAt env.w.core).fifo.length + (env.cx.ringSlots - s.ringCount env.cx) ≥ env.lanes.length)
  | .park =>
    s.poolRoom env.cx (env.parksNow F s)
  | .rays => env.lanes.all (fun l =>
      match F.b.val env.w (env.w.lane l) with
      | .ok a => s.segmentsFree env.cx.id a
      | .error _ => true)
  | .collectives => decide (s.cols.length < 1024)
  | .orders => env.cx.posted.isEmpty

/-! ## Readiness (R107) -/

/-- May the wave issue at all: its gang is on its cores, its core shows its context, and nothing holds it? -/
def State.mayIssue (s : State) (w : Wave) : Bool :=
  w.resident && !w.ended &&
  (match w.hold with
    | .none => true
    | .skid n _ => decide (0 < n)
    | .debug st => st && (s.handlerOf w).all (· == w.id)
    | _ => false) &&
  (match w.gang with
    | some g => (match s.gang? g with | some g => (g.st == .placed || g.st == .leaving) && g.region.st != 6 | none => false)
    | none => true) &&
  ((s.coreAt w.core).ctx == some w.ctx) && !((s.coreAt w.core).frozen.any (fun f => f.1 == w.partition))

/-- Does every open window let one more instruction issue (R341)? -/
def Wave.windowsOpen (w : Wave) : Bool := w.windows.all (fun n => decide (n.issued < n.la))

/-- Is there room for the window an instruction would open (R341)? With no active lane it opens none (R340). -/
def Wave.windowFree (w : Wave) (act : Mask) (F : Form) : Bool := act == 0 || !F.writes || decide (w.windows.length < 16)

/-- Every active lane holds the queue entries the form pops (R224). -/
def Form.queued (F : Form) (w : Wave) (act : Mask) : Bool :=
  (lanesOf act).all (fun l => F.pops.all (fun p => decide (p.2 ≤ ((w.lane l).q.getD p.1 []).length)))

/-- How far each counter would rise (R214). -/
def Form.countersOk (F : Form) (c : Counters) : Bool :=
  F.ctrs.all (fun k => decide (c.get k + (F.ctrs.filter (fun j => j == k)).length ≤ 63))

/-- Registers an instruction writes as a unit of the part: a matrix form's range, a destination's words. -/
def Form.written (F : Form) (w : Wave) (lane : Lane) : List (Slot × Nat) :=
  F.d.slots w lane ++ (if F.writes then (F.mats.drop (F.mats.length - 1)).map (fun r => (Slot.v (r.range w).1, (r.range w).2))
    else [])

/-- It writes no register that a follow-on of the wave has still to read (R452). -/
def State.followFree (s : State) (w : Wave) (F : Form) (act : Mask) : Bool :=
  s.ops.all (fun o => match o.body with
    | .follow _ _ fo lanes _ _ _ false =>
      o.wave != w.id || (lanesOf (act &&& lanes)).all (fun l => (F.written w (w.lane l)).all (fun x =>
        !({ lane := l, slot := .v (fo.range.range w).1, words := (fo.range.range w).2 : Pending }.hits x.1 x.2)))
    | _ => true)

/-- Is the instruction of an entry ready (R107)? An encoding that is no instruction waits for its windows alone (log 41), one
without an active lane for the registers it names too (R221). -/
def State.formReady (s : State) (env : Env) (F : Form) : Bool :=
  let ps := s.pending env.w.id
  env.w.windowsOpen &&
  (!F.legal env || (F.landed env.w env.act ps && env.w.windowFree env.act F &&
    ((env.act = 0 && !F.always) || (F.queued env.w env.act && s.followFree env.w F env.act &&
      F.countersOk env.w.ctrs && F.need.met s env.w env.act ps && F.unit.met s env F))))

/-- What a wave would do in an issue cycle. -/
inductive Offer where
  /-- It is not ready. -/
  | idle
  /-- The fetch parks the entry (R265). -/
  | park (e : Entry) (va : Nat)
  /-- The fetch raises a cause, or the words are no instruction. -/
  | raise (old e : Entry) (is : Issue) (c : Nat)
  /-- It issues. -/
  | run (old e : Entry) (is : Issue) (i : Instr)
  deriving DecidableEq, Repr

/-- The state in which an entry issues: it stands at its instruction, merged with what stood there (R194). -/
def State.standing (s : State) (wave : Nat) (old e : Entry) (is : Issue) : State :=
  { s.updWave wave (fun w => { w with frontier := arrive (w.frontier.filter (fun x => x != old)) e }) with issue := some is }

/-- The waits of a header that is one, when the entry enters its clause (R337). -/
def State.entryWaits (s : State) (cx : Ctx) (w : Wave) (e : Entry) : Bool :=
  match e.clause with
  | some _ => true
  | none => match s.fetchWord cx e.pc with
    | .word h => !(s.headersOf w).contains e.pc || h.mark || !headerOk h.val.toNat || waitsMet h.val.toNat w.ctrs
    | _ => true

def State.offer (s : State) (w : Wave) : Offer :=
  if !s.mayIssue w || !w.windowsOpen then .idle
  else match w.choose, s.ctx? w.ctx with
  | some e, some cx =>
    if !s.entryWaits cx w e then .idle
    else match s.fetchEntry cx w e with
    | .park va => .park e va
    | .raise is e2 c => .raise e e2 is c
    | .issue is w2 e2 =>
      match decodeWords is.w0 is.w1 w2 with
        | .error _ => .raise e e2 is cIllegal
        | .ok i =>
          match (s.standing w.id e e2 is).env? i.form.pidx i.form.pneg with
          | some env => if s.formReady env i.form then .run e e2 is i else .idle
          | none => .idle
  | _, _ => .idle

/-! ## The partition's choice (R108) -/

def Offer.ready : Offer → Bool
  | .idle => false
  | _ => true

/-- The waves of a partition that are ready, oldest first. -/
def State.readyWaves (s : State) (core partition : Nat) (late : List Nat) : List Wave :=
  sortBy (fun a b => decide (a.age < b.age)) (s.waves.filter (fun w =>
    w.core == core && w.partition == partition && !late.contains w.id && (s.offer w).ready))

/-- The first ready wave in rotation order: those that have never issued stand before those that have. -/
def rotate (order : List Nat) (ws : List Wave) : Option Wave :=
  match ws.find? (fun w => !order.contains w.id) with
  | some w => some w
  | none => (order.find? (fun id => ws.any (fun w => w.id == id))).bind (fun id => ws.find? (fun w => w.id == id))

def State.pickWave (s : State) (core partition : Nat) (late : List Nat) : Option Wave :=
  let ws := s.readyWaves core partition late
  let c := s.coreAt core
  let forced := ws.filterMap (fun w => w.forced.map (fun t => (t, w)))
  match (sortBy (fun a b => decide (a.1 < b.1)) forced).head? with
  | some x => some x.2
  | none =>
    let rr := match ws.head?.bind (fun (w : Wave) => s.ctxFor w.gang w.ctx) with
      | some cx => cx.policy.roundRobin
      | none => false
    if rr then rotate c.rotation ws
    else match ws.find? (fun w => lookupBy partition c.current == some w.id) with
      | some w => some w
      | none => ws.head?

/-- A wave whose clause ends with its yield bit set becomes the youngest (R108). -/
def State.yields (s : State) (w : Wave) (e : Entry) (is : Issue) : Bool :=
  is.last && (match e.clause, s.ctx? w.ctx with
    | some c, some cx => (match s.fetchWord cx c.hdr with
      | .word h => headerYield h.val.toNat
      | _ => false)
    | _, _ => false)

/-- The choice is remembered: the current wave, the rotation, a yield. -/
def State.chosen (s : State) (core partition : Nat) (w : Wave) (yield : Bool) : State :=
  let youngest := (s.waves.map (fun x => x.age)).foldl max 0 + 1
  let s := s.updCore core (fun c =>
    { c with
      current := setBy partition (if yield then 0 else w.id) c.current
      rotation := c.rotation.filter (fun id => id != w.id) ++ [w.id] })
  if yield then s.updWave w.id (fun x => { x with age := youngest }) else s

/-- An entry parks at its fetch (R265): CAUSE 3. -/
def State.parkFetch (s : State) (w : Wave) (e : Entry) (va : Nat) : State :=
  let times := e.firstPark
  let since := (times.map (fun x => x.2)).foldl min s.time
  (s.setEntry w.id e { e with block := .park since ((lanesOf e.mask).map (fun l => (l, va))), passed := 0 }).requestPage w.ctx 3
    (s.gangIndex w.gang) va

/-- The guard in the words of a longer instruction (R339), which an unassigned SUB has too. -/
def Issue.guard (is : Issue) (c : Nat) : Nat × Bool :=
  if c = cIllegal ∧ wordsOfOp (is.w0.toNat / 2 ^ 24) ≥ 2 then (field is.w1.toNat 25 3, bitOf is.w1.toNat 24) else (0, false)

/-- A fetch that raises (R334): for every lane of the entry's mask; words that are no instruction for the active ones (R312). -/
def State.raiseFetch (s : State) (w : Wave) (old e : Entry) (is : Issue) (c : Nat) : State :=
  let s := s.standing w.id old e is
  match s.env? (is.guard c).1 (is.guard c).2 with
  | some env => { s.takeTrap env (env.raise c) with issue := none }
  | none => { s with issue := none }

/-! ## Round an issue (R108, R222, R225, R324) -/

/-- Waves of a partition that were forced and are ready no more count afresh (R108). -/
def State.unforced (s : State) (core partition : Nat) : State :=
  { s with waves := s.waves.map (fun (w : Wave) =>
      if w.core = core ∧ w.partition = partition ∧ w.forced.isSome ∧ !(s.offer w).ready then { w with forced := none } else w) }

/-- Does an instruction read its A from the reuse latch (R222)? -/
def Wave.latched (w : Wave) (act : Mask) (F : Form) : Option Latch :=
  match w.latch, F.a with
  | some t, .sel code words =>
    if t.sel.toNat = code ∧ t.words = words ∧ act &&& ~~~t.mask = 0 then some t else none
  | _, _ => none

/-- Does it read the register beside A? -/
def Form.readsBeside (F : Form) (w : Wave) (lane : Lane) (n : Nat) : Bool :=
  (F.b.slots w lane ++ F.c.slots w lane ++ (F.allRanges w).map (fun r => (Slot.v r.1, r.2))).any (fun x =>
    ({ lane := 0, slot := .v n, words := 1 : Pending }).hits x.1 x.2)

/-- The A buffer that a matrix form reads (R417): that of its tile's engine, or for mmeta of the partition's (log 26). -/
def Wave.abufOf (w : Wave) (F : Form) : Option ABuf :=
  match F.reuse, F.unit, F.mats with
  | true, .engine e, m :: _ => w.buffered (e.getD (w.partition % 2)) m
  | _, _, _ => none

/-- An instruction that reads A from the latch, or from its engine's A buffer, does not meet a parity error that the main file
has had since the fill (R222, R225, R417): for its issue such words are shown without their marks, unless it reads them beside
A. -/
def State.throughLatch (s : State) (wave : Nat) (act : Mask) (F : Form) : State :=
  s.updWave wave (fun w => match w.latched act F with
    | none => w.throughBuf (w.abufOf F)
    | some t => w.mapLanes (fun l lane =>
        if !hasLane act l then lane
        else { lane with v := (indexed lane.v).map (fun x =>
          let r := t.regs.getD l 256
          let kept := t.vals.getD l {}
          if x.2.par && decide (r ≤ x.1) && decide (x.1 < r + t.words) && !(if x.1 = r then kept.lo else kept.hi).mark &&
            !F.readsBeside w lane x.1 then { x.2 with mark := false }
          else x.2) }))

/-- After it, words whose parity is still wrong are marked again. -/
def Lane.remark (l : Lane) : Lane := { l with v := l.v.map (fun x => if x.par then { x with mark := true } else x) }

/-- Does an instruction read a word whose parity is wrong (R225)? -/
def Form.struck (F : Form) (w : Wave) (lane : Lane) : Bool :=
  let bad (ws : List PWord) : Bool := ws.any (fun x => x.par && x.mark)
  [F.a, F.b, F.c].any (fun p => match p.cells w lane with | .ok ws => bad ws | .error _ => false) ||
    (F.allRanges w).any (fun r => bad (lane.cells r.1 r.2))

/-- What an issue leaves beside its instruction's effect: marks as they were, whether a wave that stops for poison consumed a
parity error (R307), and the halt after a single step (R324, R332). -/
def State.afterIssue (s : State) (before : Wave) (F : Form) : State :=
  let s := s.updWave before.id (fun w => w.mapLanes (fun _ l => l.remark))
  match s.wave? before.id with
  | none => s
  | some w =>
    if w.hold = .contained ∧ before.hold ≠ .contained then
      s.updWave w.id (fun w => { w with
        consumed := (lanesOf (w.trap.tlm.getD 9 0)).any (fun l => F.struck before (before.lane l)) })
    else if before.hold = .debug true ∧ w.hold = .debug false ∧ (before.trapMode ∨ !w.trapMode) ∧ !before.haltPending then
      s.trace w.ctx w.core 7 cDebug ((w.choose.map (fun e => e.pc)).getD 0) 0
    else s

/-! ## The default order (log 1) -/

/-- The next partition with a ready wave, round the cores in turn. -/
def State.turnTo (s : State) : Option (Nat × Nat) :=
  let seats := (s.waves.filter (fun w => (s.offer w).ready)).map (fun w => 4 * w.core + w.partition)
  let next := seats.filter (fun n => decide (s.turn < n))
  match (sortBy (fun a b => decide (a < b)) next ++ sortBy (fun a b => decide (a < b)) seats).head? with
  | some n => some (n / 4, n % 4)
  | none => none

end Sys2Proof.Machine
end

