-- ==== Sys2Proof/Machine/Wrangler.lean ====
section
/-! DEFINITION. The Wrangler (R158 to R163, R170 to R180): choosing a treelet, running a pass over its queue, committing
segments, any-hit candidates, and demand paging of geometry. -/

namespace Sys2Proof.Machine

/-! ## Passes by number -/

def State.pass? (s : State) (id : Nat) : Option Pass := s.passes.find? (fun p => p.id == id)
def State.updPass (s : State) (id : Nat) (f : Pass → Pass) : State :=
  { s with passes := s.passes.map (fun (p : Pass) => if p.id = id then f p else p) }

/-- A pass's scene, context and gang. -/
def State.passOf (s : State) (id : Nat) : Option (Pass × Scene × Ctx × Gang) :=
  match s.pass? id with
  | none => none
  | some p =>
    match s.scene? p.ctx p.scene, s.ctxFor (some p.gang) p.ctx, s.gang? p.gang with
    | some c, some cx, some g => some (p, c, cx, g)
    | _, _, _ => none

/-- The core a pass gang is placed on. -/
def Gang.passCore (g : Gang) : Nat :=
  ((g.groups.map (fun r => r.places.map (fun p => p.core))).flatten).headD 0

/-! ## Residency (R158, R178) -/

/-- A treelet's entry: its image's address and size, when it keeps R147. -/
def State.treeletEntry (s : State) (cx : Ctx) (c : Scene) (t : Nat) : Option (Nat × Nat) :=
  let bs := s.readVa cx (c.addr + 0x80 + 16 * t) 16
  let b := bs.map (fun x => x.1)
  let va := numAt b 0 8
  let size := numAt b 8 4
  if bs.any (fun x => x.2) ∨ va % 64 ≠ 0 ∨ va ≥ 2 ^ 56 ∨ size < 64 ∨ 524288 < size ∨ numAt b 12 4 ≠ 0 then none
  else some (va, size)

/-- The first page of a range that is not mapped valid. -/
def State.absentIn (s : State) (cx : Ctx) (va n : Nat) : Option Nat :=
  ((pagesFrom va n).find? (fun p => s.xlate cx .engineFill (p * pageBytes) == .invalid)).map (fun p => p * pageBytes)

/-- The first absent page of a treelet, with the end of its image when the entry can be read. -/
def State.absentPage (s : State) (cx : Ctx) (c : Scene) (t : Nat) : Option (Nat × Option Nat) :=
  match s.absentIn cx (c.addr + 0x80 + 16 * t) 16 with
  | some va => some (va, none)
  | none =>
    match s.treeletEntry cx c t with
    | none => none
    | some (va, n) => (s.absentIn cx va n).map (fun p => (p, some (va + n)))

/-! ## Choosing a treelet (R158, R159) -/

/-- Records waiting in a queue. -/
def State.waitingIn (s : State) (cx : Ctx) : Nat → Nat → Nat
  | 0, _ => 0
  | fuel + 1, seg => if seg = 0 then 0 else s.fillOf cx seg + s.waitingIn cx fuel (s.readVaNat cx (segNext seg) 8)

/-- A queue the Wrangler may serve. -/
structure Queue where
  scene : Nat
  treelet : Nat
  age : Nat
  bound : Nat
  waiting : Nat
  deriving DecidableEq, Repr

def Queue.urgent (q : Queue) : Bool := decide (q.age + 500000 ≥ q.bound)

def State.queueRuns (s : State) (c : Scene) (t : Nat) : Bool :=
  s.passes.any (fun p => p.ctx == c.ctx && p.scene == c.addr && p.treelet == t)

/-- How long the oldest segment of a queue has waited for its treelet (R159). -/
def State.queueAge (s : State) (cx : Ctx) (c : Scene) (t head : Nat) : Nat :=
  s.stamp - max (s.readVaNat cx (segEnq head) 8) ((lookupBy t c.residentAt).getD 0)

def State.eligibleQueues (s : State) (cx : Ctx) (c : Scene) : List Queue :=
  (List.range c.count).filterMap (fun t =>
    let head := s.headOf cx c t
    if head = 0 || s.queueRuns c t || (lookupBy t c.requested).isSome || (s.absentPage cx c t).isSome then none
    else
      some { scene := c.addr, treelet := t, age := s.queueAge cx c t head, bound := c.ageBound,
             waiting := s.waitingIn cx (c.qBase + 1) head })

/-- Urgent queues oldest first, then the fullest. -/
def Queue.before (a b : Queue) : Bool :=
  (a.urgent && !b.urgent) ||
  (a.urgent && b.urgent && decide (a.age > b.age)) ||
  (!a.urgent && !b.urgent && (decide (a.waiting > b.waiting) || (a.waiting == b.waiting && decide (a.treelet < b.treelet))))

/-- May the context have one more pass: it is neither halted nor held for a checkpoint or restore (R175)? -/
def State.passesAllowed (s : State) (cx : Ctx) : Bool :=
  !s.barred cx && decide ((s.passes.filter (fun p => p.ctx == cx.id)).length < 64)

/-- The reserve of R157 for one more pass of the scene. -/
def State.reserveHolds (s : State) (c : Scene) : Bool :=
  decide (128 * ((s.passes.filter (fun p => p.ctx == c.ctx && p.scene == c.addr)).length + 1) ≤ c.free.length)

def nextPassNum (n : Nat) : Nat := if (n + 1) % 2 ^ 24 = 0 then 1 else (n + 1) % 2 ^ 24

/-- PASS_START (R159, R102, R516): the chosen queue gets a pass, whose gang the dispatcher will place. No launch gives that gang
its age: it is the time of this event (DESIGN CHOICE, log 114). -/
def execPassStart (ctx : Nat) (s : State) : Host.Outcome State Fault Refusal :=
  .next (match s.ctx? ctx with
    | none => s
    | some cx =>
      if !s.passesAllowed cx then s
      else
        let qs := ((s.scenes.filter (fun c => c.ctx == ctx && s.reserveHolds c)).map (s.eligibleQueues cx)).flatten
        match (sortBy Queue.before qs).head? with
        | none => s
        | some q =>
          let num := nextPassNum cx.passNum
          let (id, s) := s.fresh
          let (gid, s) := s.fresh
          let gang : Gang := { id := gid, launch := 0, ctx := ctx, index := noGang, acceptedAt := s.time, first := 0
                               pendingAt := s.time, pass := some id }
          let p : Pass := { id := id, num := num, ctx := ctx, scene := q.scene, treelet := q.treelet, gang := gid, startedAt := s.time }
          ({ s with gangs := s.gangs ++ [gang], passes := s.passes ++ [p] }.updCtx ctx (fun c => { c with passNum := num })).updScene
            ctx q.scene (fun c => { c with idleSince := none }))

/-! ## Streaming (R161) -/

/-- The segments of a queue in order, from one on. -/
def State.segmentsFrom (s : State) (cx : Ctx) : Nat → Nat → List Nat
  | 0, _ => []
  | fuel + 1, seg => if seg = 0 then [] else seg :: s.segmentsFrom cx fuel (s.readVaNat cx (segNext seg) 8)

def State.queueSegments (s : State) (cx : Ctx) (c : Scene) (t : Nat) : List Nat :=
  s.segmentsFrom cx (c.qBase + 1) (s.headOf cx c t)

/-- A segment as a pass opens it: its records' rays. -/
def State.openSegment (s : State) (cx : Ctx) (c : Scene) (seg : Nat) : OpenSeg :=
  { addr := seg
    rays := ((List.range (s.fillOf cx seg)).map (fun i =>
      let r := s.readVa cx (seg + 64 * i) 64
      let d := s.readVa cx (seg + 0x1000 + 32 * i) 12
      raysOf i (lookupBy (seg + 64 * i) c.malformed) (wordsAt (r.map (fun x => x.1)) 0 16) (wordsAt (d.map (fun x => x.1)) 0 3) ((r ++ d).any (fun x => x.2)))).flatten }

/-- Two segments at most are open, and none is opened 200 µs after the pass started on its core (R160); an empty queue ends the
streaming. -/
def State.openSegments (s : State) (id : Nat) : State :=
  match s.passOf id with
  | none => s
  | some (p, c, cx, _) =>
    if p.stopped || decide (p.startedAt + 200000 ≤ s.time) then s
    else
      let segs := s.queueSegments cx c p.treelet
      if segs.isEmpty then s.updPass id (fun p => { p with stopped := true, waitSince := some s.time })
      else
        let more := (segs.filter (fun a => !p.segs.any (fun g => g.addr == a))).take (2 - p.segs.length)
        s.updPass id (fun p => { p with segs := p.segs ++ more.map (s.openSegment cx c) })

/-- TREELET_LOADED (R161, R176, R177): the image as it stands now is what the pass reads; the die's monitors hear the queue's age
(R331, log 117). -/
def execTreeletLoaded (pass : Nat) (s : State) : Host.Outcome State Fault Refusal :=
  .next (match s.passOf pass with
    | none => s
    | some (p, c, cx, g) =>
      if p.loaded || p.stopped || g.st != .placed || decide (g.passCore ≥ bankBase) then s
      else
        let img := match s.treeletEntry cx c p.treelet with
          | some (va, n) => s.readVa cx va n
          | none => []
        let marks := ((indexed img).filter (fun b => b.2.2 && b.1 % 8 == 0)).map (fun b => b.1 / 8)
        let head := s.headOf cx c p.treelet
        let s := if head = 0 then s else s.sample (dieOf g.passCore) 8 (s.queueAge cx c p.treelet head / 1000)
        (s.updPass pass (fun p =>
          { p with loaded := true, image := img.map (fun b => b.1), marks := marks })).openSegments pass)

/-! ## Rays in a pass (R164 to R167, R171, R174) -/

/-- What a ray of an open segment comes to. -/
inductive Outcome where
  | leaves (l : Leaves)
  | waits (r : Ray) (h : Hit) (prim : Nat)
  | consumed
  | dropped
  deriving DecidableEq, Repr

def passTreelet (p : Pass) (c : Scene) (cx : Ctx) : Treelet :=
  { id := p.treelet, bytes := p.image, marks := p.marks, count := c.count, anyHit := c.pcAny != 0, tolerant := cx.policy.tolerant }

def Treelet.trav (t : Treelet) (r : RayState) : Trav := t.run (rayOf r.rec_ r.side) r.verdicts

/-- A ray's outcome when it is traversed by itself. -/
def Treelet.outcome (t : Treelet) (root : Nat) (r : RayState) : Outcome :=
  if r.poisoned then .dropped
  else if bitOf (wordNat r.rec_ 9) 21 then .leaves (badRay (rayOf r.rec_ r.side) r.rec_)
  else match t.trav r with
    | .bad y => .leaves (badRay y r.rec_)
    | .consumed => .consumed
    | .waits y h prim => .waits y h prim
    | .ends y => .leaves (finishRay y r.rec_)
    | .through y exits => .leaves (leaveTreelet root y r.rec_ exits)

/-- Does a beam finish whole at its treelet's end (R174): every pixel has an accepted candidate, and every exit that
passed for some pixel lies, for every pixel, beyond its TMAX? -/
def Treelet.beamEnds (t : Treelet) (rays : List RayState) : Bool :=
  let ts : List (Option (Ray × List Exit)) := rays.map (fun r => match t.trav r with
    | .through y exits => if r.verdicts.isEmpty && !bitOf (wordNat r.rec_ 9) 21 && !r.poisoned then some (y, exits) else none
    | _ => none)
  ts.all (fun x => x.isSome) &&
    (let ys : List (Ray × List Exit) := ts.filterMap (fun x => x)
     ys.all (fun x => x.1.prim != noPrim) &&
       ((ys.map (fun x => x.2)).flatten).all (fun e => ys.all (fun x => f32.cond 4 (boxTest x.1 e.box).2 x.1.tmax)))

/-- The rays of a segment with their outcomes; the pixels of a beam that finishes whole end there. -/
def Treelet.outcomes (t : Treelet) (root : Nat) (rays : List RayState) : List (RayState × Outcome) :=
  let whole (i : Nat) : Bool := t.beamEnds (rays.filter (fun r => r.idx == i && r.pixel))
  rays.map (fun r =>
    if r.pixel && whole r.idx then
      (r, match t.trav r with
        | .through y _ => .leaves (finishRay y r.rec_)
        | _ => t.outcome root r)
    else (r, t.outcome root r))

/-! ## Records to programs (R170, R171) -/

def rayRecord (c : Scene) (cx : Ctx) (kind pc join handle : Nat) (rec_ : List Word) (prim tdist u v ctrl treelet : Nat) : Rec :=
  { pc := pc, join := join, tenant := cx.tenant, ctx := cx.id, kind := kind, nreg := 8, dbase := c.dbase, depth := 0
    launch := 0xFFFF, poison := 0, gang := noGang
    scene := c.addr, regs := slice 0 ([wordNat rec_ 8, wordNat rec_ 14, prim, tdist, u, v, ctrl, treelet].map (BitVec.ofNat 32)) 0 16
    tail := slice 0 rec_ 0 7 ++ [BitVec.ofNat 32 handle] }

/-- The record a finished ray releases, if any. -/
def finalRecord (c : Scene) (cx : Ctx) (rec_ side : List Word) : Option Rec :=
  let y := rayOf rec_ side
  if y.prim ≠ noPrim then
    if c.pcHit = 0 then none else some (rayRecord c cx 3 c.pcHit c.join 0 rec_ y.prim y.tmax y.u y.v y.ctrl y.treelet)
  else if c.pcMiss = 0 then none
  else some (rayRecord c cx 5 c.pcMiss c.join 0 rec_ y.prim y.tmax 0 0 y.ctrl y.treelet)

/-! ## Committing a segment (R162, R172, R176) -/

/-- A segment leaves its queue. -/
def State.unlink (s : State) (cx : Ctx) (c : Scene) (t seg : Nat) : State :=
  let segs := s.queueSegments cx c t
  let next := s.readVaNat cx (segNext seg) 8
  let prev := (segs.find? (fun a => s.readVaNat cx (segNext a) 8 == seg)).getD 0
  let s := if s.headOf cx c t = seg then s.writeVaNat cx (c.qBase + 16 * t) 8 next
    else if prev = 0 then s else s.writeVaNat cx (segNext prev) 8 next
  if s.tailOf cx c t = seg then s.writeVaNat cx (c.qBase + 16 * t + 8) 8 prev else s

/-- n decrements of a scene's join word, by the pass. -/
def State.sceneDec (s : State) (cx : Ctx) (c : Scene) (core : Nat) : Nat → State
  | 0 => s
  | n + 1 => State.sceneDec (s.joinDec cx.id core 0xFFFF noGang c.join) cx c core n

/-- One ray at its segment's commit; none while there is no room for what it releases. -/
def State.settleRay (s : State) (cx : Ctx) (c : Scene) (core seg : Nat) (r : RayState) : Outcome → Option State
  | .leaves (.to id rec_ side) => s.appendRay cx c.addr id none (cleanWords rec_) (cleanWords side)
  | .leaves (.done rec_ side) =>
    match finalRecord c cx rec_ side with
    | some k => if s.taskRoom cx core then some (s.dispatchRec cx core k) else none
    | none => some (s.sceneDec cx c core 1)
  | .dropped =>
    some ((s.sceneDec cx c core (joinWeight (isBeam (lookupBy (seg + 64 * r.idx) c.malformed) r.rec_) r.rec_)).poisonReport cx.id noGang 3 (seg + 64 * r.idx))
  | _ => none

def State.settleRays (s : State) (cx : Ctx) (c : Scene) (core seg : Nat) : List (RayState × Outcome) → Option State
  | [] => some s
  | x :: t => (s.settleRay cx c core seg x.1 x.2).bind (fun s => State.settleRays s cx c core seg t)

/-- A scene without a waiting record or a pass is idle from now on (R147). -/
def State.noteIdle (s : State) (ctx addr : Nat) : State :=
  match s.scene? ctx addr, s.ctx? ctx with
  | some c, some cx =>
    let busy := s.passes.any (fun p => p.ctx == ctx && p.scene == addr) ||
      (List.range c.count).any (fun t => s.headOf cx c t != 0)
    s.updScene ctx addr (fun c => { c with idleSince := if busy then none else some (c.idleSince.getD s.time) })
  | _, _ => s

/-- Every ray of the segment has finished or left: it commits in one step. A ray that consumed poison makes the pass's
gang fail instead. -/
def execSegmentCommit (pass segment : Nat) (s : State) : Host.Outcome State Fault Refusal :=
  .next (match s.passOf pass with
    | none => s
    | some (p, c, cx, g) =>
      match p.segs[segment]? with
      | none => s
      | some sg =>
        let outs := (passTreelet p c cx).outcomes c.root sg.rays
        if g.st != .placed then s
        else if outs.any (fun x => x.2 == .consumed) then s.charge g.id 3 none
        else
          let s1 := (s.unlink cx c p.treelet sg.addr).updPass pass (fun p => { p with segs := p.segs.eraseIdx segment })
          match s1.settleRays cx c g.passCore sg.addr outs with
          | none => s
          | some t =>
            ((t.updScene cx.id c.addr (fun c => { c.forget sg.addr with free := c.free ++ [sg.addr] })).openSegments pass).noteIdle cx.id c.addr)

/-! ## Any-hit candidates (R171, R516) -/

/-- The verdict slots in use. -/
def Pass.slots (p : Pass) : List Nat :=
  (p.segs.map (fun g => g.rays.filterMap (fun r => r.slot))).flatten

/-- A ray at a non-opaque candidate takes the lowest free slot and releases the candidate's record. -/
def execAnyHitCandidate (pass segment ray : Nat) (s : State) : Host.Outcome State Fault Refusal :=
  .next (match s.passOf pass with
    | none => s
    | some (p, c, cx, g) =>
      match (p.segs[segment]?).bind (fun sg => sg.rays[ray]?) with
      | none => s
      | some r =>
        if r.slot.isSome || r.poisoned || g.st != .placed || !s.taskRoom cx g.passCore then s
        else match (passTreelet p c cx).outcome c.root r, (List.range 256).find? (fun k => !p.slots.contains k) with
          | .waits y h prim, some k =>
            let rec_ := rayRecord c cx 4 c.pcAny 0 (p.num * 256 + k) r.rec_ prim h.t h.u h.v y.ctrl p.treelet
            (s.updPass pass (fun p => { p with segs := (indexed p.segs).map (fun (x : Nat × OpenSeg) =>
              if x.1 = segment then { x.2 with rays := (indexed x.2.rays).map (fun (q : Nat × RayState) =>
                if q.1 = ray then { q.2 with slot := some k } else q.2) } else x.2) })).dispatchRec cx g.passCore rec_
          | _, _ => s)

/-! ## The end of a pass (R160, R163, R175) -/

/-- The pass ends: its banks and open segments go, its committed segments stand. -/
def State.endPass (s : State) (id : Nat) : State :=
  match s.pass? id with
  | none => s
  | some p =>
    ({ s with passes := s.passes.filter (fun q => q.id != id), gangs := s.gangs.filter (fun g => g.id != p.gang) }.lapse
      p.ctx).noteIdle p.ctx p.scene

def execPassStreamStop (pass : Nat) (s : State) : Host.Outcome State Fault Refusal :=
  .next (match s.passOf pass with
    | some (p, _, _, g) =>
      if p.stopped || g.st != .placed || decide (g.passCore ≥ bankBase) || decide (s.time < p.startedAt + 200000) then s
      else s.updPass pass (fun p => { p with stopped := true, waitSince := some s.time })
    | none => s)

def execPassClose (pass : Nat) (s : State) : Host.Outcome State Fault Refusal :=
  .next (match s.pass? pass with
    | some p =>
      let waited := match p.waitSince with
        | some t => decide (t + 1000000 ≤ s.time)
        | none => false
      if p.stopped && (p.segs.isEmpty || waited) then s.endPass pass else s
    | none => s)

/-- SCENE_RELEASE (R147). -/
def execSceneRelease (ctx scene : Nat) (s : State) : Host.Outcome State Fault Refusal :=
  .next (match s.scene? ctx scene with
    | some c =>
      match c.idleSince with
      | some t =>
        if t + 10000000 ≤ s.time then { s with
          scenes := s.scenes.filter (fun x => !(x.ctx == ctx && x.addr == scene))
          oldScenes := s.oldScenes.filter (fun x => !(x.ctx == ctx && x.addr == scene)) ++ [c] } else s
      | none => s
    | none => s)

/-! ## Demand paging of geometry (R178, R180) -/

/-- A geometry page request goes out, the first time or 50 ms after the last. -/
def State.requestGeometry (s : State) (cx : Ctx) (c : Scene) (t : Nat) : State :=
  match s.absentPage cx c t with
  | none => s
  | some (va, stop) =>
    let (n, s) : Nat × State := match stop with
      | some e => (e - va, s)
      | none => let (lo, s) := s.freeWord; let (hi, s) := s.freeWord; (lo.toNat + 2 ^ 32 * hi.toNat, s)
    (s.emit (.host 0x82 cx.id 0 0 (toBytes 8 c.addr ++ toBytes 4 t ++ toBytes 4 0 ++ toBytes 8 va ++ toBytes 8 n))).updScene
      cx.id c.addr (fun c => { c with requested := setBy t s.time c.requested })

def execGeomPageRequest (ctx scene treelet : Nat) (s : State) : Host.Outcome State Fault Refusal :=
  .next (match s.scene? ctx scene, s.ctx? ctx with
    | some c, some cx =>
      let due : Bool := match lookupBy treelet c.requested with
        | some t => decide (t + 50000000 ≤ s.time)
        | none => true
      if treelet < c.count ∧ s.headOf cx c treelet ≠ 0 ∧ !s.queueRuns c treelet ∧ due then s.requestGeometry cx c treelet else s
    | _, _ => s)

/-- The last GEOM_IN of a treelet: resident from now on, or asked for again. -/
def State.recheckTreelet (s : State) (cx : Ctx) (scene treelet : Nat) : State :=
  match s.scene? cx.id scene with
  | none => s
  | some c =>
    if treelet ≥ c.count then s
    else match s.absentPage cx c treelet with
      | some _ => s.requestGeometry cx c treelet
      | none => s.updScene cx.id scene (fun c =>
          { c with requested := c.requested.filter (fun x => x.1 != treelet)
                   residentAt := setBy treelet s.stamp c.residentAt })

end Sys2Proof.Machine
end

