-- ==== Sys2Proof/Machine/Kill.lean ====
section
/-! DEFINITION. What stops waves and gangs: a sibling's own handler (R315), containment (R313, R307), the kill of a gang,
its relaunch (R303, R304, R130) and the completion of a launch (R78, R305); waiting claims (R204, R205) and the move of
repack (R197 to R200). -/

namespace Sys2Proof.Machine

/-! ## A wave that holds a cause of its own (R315, R319) -/

/-- TRAP_ENTRY: no handler of the group runs any more, so the wave's own cause is taken. -/
def execTrapEntry (wave : Nat) (s : State) : Host.Outcome State Fault Refusal :=
  .next (match s.wave? wave with
    | none => s
    | some w =>
      if decide (w.core ≥ bankBase) || w.hold != .stopped || !w.ownCause || w.trapMode || (s.handlerOf w).isSome then s
      else
        let c := w.trap.tcause.toNat % 256
        match w.frontier.find? (fun e => e.isAt w.trap.tpc.toNat (field w.trap.tentry.toNat 32 8)), s.ctx? w.ctx with
        | some e, some cx =>
          if cx.debugger.isSome && (c == cBreak || c == cWatch) then
            ((s.updWave wave (fun w => { w with hold := .debug false, ownCause := false })).event w.ctx 9 c (s.gangIndex w.gang)
              (waveInfo w)).trace w.ctx w.core 7 c e.pc 0
          else if w.trap.tvec = 0 then s.escalate w c
          else s.startHandler w e
        | _, _ => s)

/-! ## Containment (R307, R313) -/

/-- POISON_CONTAINMENT: what the wave consumed is its gangs' error: a parity error attributed to the core, else poison. -/
def execPoisonContainment (wave : Nat) (s : State) : Host.Outcome State Fault Refusal :=
  .next (match s.wave? wave with
    | none => s
    | some w =>
      let mask := w.trap.tlm.getD 9 0
      if w.hold != .contained || mask = 0 then s
      else
        let source := if w.consumed then 2 else 3
        match w.gang with
        | some g => s.charge g source (if w.consumed then some w.core else none)
        | none => s.killTask w source 0 (2 ^ 8 + source))

/-! ## Tasks that name a killed gang (R130, R303) -/

/-- Does a record name a gang of a launch? -/
def Rec.names (r : Rec) (launch gang : Nat) : Bool := r.launch == launch % 65536 && r.gang == gang && decide (r.kind < 3)

/-- The pending entry of a pure task that never ends becomes invalid. -/
def State.dropPending (s : State) (r : Rec) : State :=
  if r.kind = 1 then (match r.pend? with
    | some (d, st, w) => s.dropEntry d st w
    | none => s) else s

/-- The ring without the records of a gang. -/
def State.sweepRing (s : State) (cx : Ctx) (launch gang : Nat) : Nat → State
  | 0 => s
  | n + 1 =>
    match s.ringPop cx with
    | (some r, s) => if r.names launch gang then (s.dropPending r).sweepRing cx launch gang n
                     else (s.ringPush cx r).sweepRing cx launch gang n
    | (none, s) => s.sweepRing cx launch gang n

/-- The slots of the free chain. -/
def State.freeSlots (s : State) (cx : Ctx) : Nat → Nat → List Nat
  | 0, _ => []
  | fuel + 1, slot => if slot = 0 then [] else slot :: s.freeSlots cx fuel (s.readVaNat cx (cx.poolVa slot + 0x68) 4)

/-- A waiter leaves the chain of its join word. -/
def State.unchain (s : State) (cx : Ctx) (slot prevAt : Nat) : Nat → State
  | 0 => s
  | fuel + 1 =>
    let at_ := s.readVaNat cx prevAt 4
    if at_ = 0 then s
    else if at_ = slot then s.writeVaNat cx prevAt 4 (s.readVaNat cx (cx.poolVa slot + 0x68) 4)
    else s.unchain cx slot (cx.poolVa at_ + 0x68) fuel

/-- The park pool without the continuations of a gang. -/
def State.sweepPool (s : State) (cx : Ctx) (launch gang : Nat) : State :=
  let used := s.areaGet cx 0x18 4
  let free := s.freeSlots cx used (s.areaGet cx 0x04 4)
  let mine := ((List.range used).filter (fun k => decide (1 ≤ k) && !free.contains k)).filterMap (fun k =>
    let r := s.recAt cx (cx.poolVa k)
    if r.kind = 2 ∧ r.names launch gang then some (k, r) else none)
  mine.foldl (fun (s : State) x =>
    let on := (x.2.tail.getD 0 0).toNat + 2 ^ 32 * (x.2.tail.getD 1 0).toNat
    let s := if on = 0 then s else s.unchain cx x.1 (on + 4) used
    let s := s.updCtx cx.id (fun c =>
      { c with
        released := c.released.filter (fun k => k != x.1)
        parked := c.parked.map (fun (p : ParkSet) => { p with slots := p.slots.filter (fun k => k != x.1) }) })
    s.poolFree cx x.1) s

/-- Lanes of a task wave whose tasks are killed leave it. -/
def State.dropLanes (s : State) (wave : Nat) (gone : Mask) : State :=
  let cut (es : List Entry) : List Entry := (es.map (fun e => { e with mask := e.mask &&& ~~~ gone })).filter (fun e => e.mask != 0)
  let s := (s.discardPending wave gone).updWave wave (fun w =>
    { w with
      frontier := cut w.frontier
      heldEntries := cut w.heldEntries
      lanes := (indexed w.lanes).map (fun (x : Nat × Lane) =>
        if hasLane gone x.1 then { x.2 with rec_ := none, pure_ := none, spoke := false } else x.2) })
  s.settleWave wave

/-- Every task and parked continuation that names a gang goes, without its decrement (log 32). -/
def State.killTasks (s : State) (g : Gang) : State :=
  match s.ctx? g.ctx, s.launch? g.launch with
  | some cx, some l =>
    let named (r : Rec) : Bool := r.ctx == cx.id && r.names l.id g.index
    let running : List (Nat × Mask) := (s.waves.filter (fun w => w.ctx == cx.id)).filterMap (fun w =>
      let m := maskBy (fun l => (w.lane l).rec_.any named)
      if m = 0 then none else some (w.id, m))
    let lost := (s.waves.map (fun w => w.lanes.filterMap (fun l => l.rec_))).flatten ++
      (s.cores.map (fun c => c.fifo ++ (c.keys.map (fun k => k.recs)).flatten)).flatten ++ cx.stranded
    let s := (lost.filter named).foldl (fun s r => s.dropPending r) s
    let s := running.foldl (fun s x => s.dropLanes x.1 x.2) s
    let s := { s with
      spawns := s.spawns.filter (fun x => !named x.rec_)
      cores := s.cores.map (fun (c : Core) => { c with
        fifo := c.fifo.filter (fun r => !named r)
        keys := (c.keys.map (fun (k : OpenKey) => { k with recs := k.recs.filter (fun r => !named r) })).filter (fun k => !k.recs.isEmpty) }) }
    let s := s.updCtx cx.id (fun c => { c with stranded := c.stranded.filter (fun r => !named r) })
    let s := if cx.areaReady then (s.sweepRing cx l.id g.index (s.ringCount cx)).sweepPool cx l.id g.index else s
    s.updGang g.id (fun g => { g with waiters := 0 })
  | _, _ => s

/-! ## The kill of a gang (R303) -/

/-- Linear numbers of a gang's groups. -/
def Gang.ownsGroup (g : Gang) (h : KHdr) (lin : Nat) : Bool := decide (g.first ≤ lin) && decide (lin < g.first + h.gang)

/-- Save-pool and free-pool pages that a saved gang's state held go back (R115). -/
def State.unspill (s : State) (g : Gang) : State :=
  let s := { s with pool := { s.pool with saveFree := s.pool.saveFree + g.savePages } }
  (g.spill.foldl (fun (s : State) p => s.freePage p) s).updGang g.id (fun g => { g with savePages := 0, spill := [] })

/-- The waves of a gang leave; what they wait for and what waits for them goes with them. -/
def State.removeWaves (s : State) (g : Gang) : State :=
  let ids := (s.waves.filter (fun w => w.gang == some g.id)).map (fun w => w.id)
  let s := ids.foldl (fun (s : State) i => s.discardPending i 0xFFFFFFFF) s
  { s with
    waves := s.waves.filter (fun w => w.gang != some g.id)
    ctxCores := s.ctxCores.map (fun (c : CtxCore) => { c with waiters := c.waiters.filter (fun x => !ids.contains x.2.wave) }) }

/-- What the stores of an open region still had on the way to it is discarded with the rest (R303): the operations only run
out. -/
def State.dropPins (s : State) (g : Gang) : State :=
  if !g.region.attempting then s
  else { s with ops := s.ops.map (fun (o : Op) => match o.body with
    | .pin _ _ _ _ _ => if o.gang = some g.id then { o with body := .buffered } else o
    | _ => o) }

/-- A gang's waves stop: its ranks' collectives, what holds its state. -/
def State.stopGang (s : State) (g : Gang) : State :=
  (((s.dropPins g).removeWaves g).killRanks g.id).unspill g

/-- The exit records of a killed gang's groups, when its operations have run out (R303, R330). -/
def State.killedExits (s : State) (g : Gang) : State :=
  g.groups.foldl (fun (s : State) r => if r.ended then s else s.writeExit g r 1) s

/-- GANG_KILL: the steps of R303 up to the wait for the operations. A commit past its point ends first (R296). -/
def execGangKill (gang : Nat) (s : State) : Host.Outcome State Fault Refusal :=
  .next (match s.gang? gang with
    | none => s
    | some g =>
      match g.doom with
      | none => s
      | some d =>
        if !d.kill || !g.st.live || g.region.st = 5 then s
        else
          let s := s.stopGang g
          let s := match s.launch? g.launch with
            | some l => if g.pass.isSome then s else s.updLaunch l.id (fun l =>
                { l with detOps := l.detOps.filter (fun o => !g.ownsGroup l.hdr o.key.1) })
            | none => s
          let s := s.updGang gang (fun g => { g with st := .dying, region := {} })
          (s.killTasks g).lapse g.ctx)

/-! ## Relaunch, or the end (R304, R310) -/

/-- May the gang run again? -/
def State.relaunches (s : State) (g : Gang) (d : Doom) : Bool :=
  match s.launch? g.launch, s.ctxFor (some g.id) g.ctx with
  | some l, some cx =>
    g.pass.isNone && !g.taskGang && bitOf l.record.flags 1 && decide (g.relaunches < min l.record.relaunch cx.policy.relaunchCeil) &&
      d.source != 0x0A && d.source != 0x0B
  | _, _ => false

/-- INFO of event 5. -/
def killInfo (d : Doom) (again : Bool) (used : Nat) : Nat :=
  d.reason + (if again then 2 ^ 8 else 0) + 2 ^ 12 * (used % 16) + 2 ^ 16 * (d.core.getD 0xFFFF % 2 ^ 16)

/-- DETAIL of a launch that a kill ends: the cause of an escalation, or the source with bit 8. -/
def Doom.detail (d : Doom) : Nat := if d.cause ≠ 0 then d.cause else 2 ^ 8 + d.source

/-- GANG_RELAUNCH: every operation of the killed gang has run out. -/
def execGangRelaunch (gang : Nat) (s : State) : Host.Outcome State Fault Refusal :=
  .next (match s.gang? gang with
    | none => s
    | some g =>
      if g.st != .dying || s.ops.any (fun o => o.gang == some gang) then s
      else match g.doom with
      | none => s
      | some d =>
        let again := s.relaunches g d
        let used := g.relaunches + (if again then 1 else 0)
        let s := (s.killedExits g).event g.ctx 5 (if d.cause ≠ 0 then d.cause else d.source) g.index (killInfo d again used)
        if again then
          (s.updGang gang (fun g =>
            { g with st := .pending, pendingAt := s.time, groups := [], bar := {}, region := {}, lost := 0, doom := none, stale := none, relaunches := used })).updLaunch
            g.launch (fun l => { l with relaunched := l.relaunched + (if g.relaunches = 0 then 1 else 0) })
        else
          let s := match g.pass with
            | some p => s.endPass p
            | none => s
          if g.pass.isSome then s
          else if g.taskGang then { s with gangs := s.gangs.filter (fun x => x.id != gang) }
          else (s.updGang gang (fun g => { g with st := .done, groups := [], doom := none })).updLaunch g.launch
            (fun l => { l with doneGangs := l.doneGangs + 1, killed := some (l.killed.getD d.detail) }))

/-! ## The completion of a launch (R78, R97, R305) -/

/-- The order of R305. -/
def DetOp.before (a b : DetOp) : Bool :=
  decide (a.key.1 < b.key.1) || (a.key.1 == b.key.1 && (decide (a.key.2.1 < b.key.2.1) || (a.key.2.1 == b.key.2.1 &&
    (decide (a.key.2.2.1 < b.key.2.2.1) || (a.key.2.2.1 == b.key.2.2.1 && decide (a.key.2.2.2 < b.key.2.2.2))))))

/-- One buffered operation takes effect. -/
def State.applyDet (s : State) (l : Launch) (gang : Option Nat) (d : DetOp) : State :=
  match d.loc with
  | .home pa => (s.atomicHome (some l.ctx) pa d.width (fun old => atomNew .fadd d.width false old d.b.toNat 0)).2
  | .remote _ _ =>
    s.deviceOp gang l.ctx 0 (.atom .fadd d.width false none [{ acc := { lane := 0, va := 0, loc := d.loc }, b := d.b, c := 0 }] [])
  | .sp _ _ _ => s

/-- The status and DETAIL of a launch. -/
def Launch.verdict (l : Launch) : Nat × Nat :=
  match l.killed, l.dropped with
  | some d, _ => (9, d)
  | none, some i => (5, i % 65536)
  | none, none => (0, 0)

/-- Has every gang that the launch releases ended? -/
def Launch.ended (l : Launch) : Bool := (l.nextGang == l.gangs || l.dropped.isSome) && l.doneGangs == l.nextGang

/-- DONE is written (R78), once: a request where its page lies on another package. -/
def State.writeDone (s : State) (l : Launch) (status : Nat) : State :=
  match s.ctx? l.ctx with
  | some cx =>
    if l.record.done = 0 ∨ l.doneOp.isSome then s
    else s.writeOut cx none l.record.done ((toBytes 8 status).map (fun b => (b, false)))
  | none => s

/-- LAUNCH_COMPLETE: the buffered operations are applied; when they, and all the device still does for the launch's gangs,
are performed, DONE is written, and when that is performed too, the completion goes out. -/
def execLaunchComplete (launch : Nat) (s : State) : Host.Outcome State Fault Refusal :=
  .next (match s.launch? launch with
    | none => s
    | some l =>
      let mine := (s.gangs.filter (fun g => g.launch == launch && g.pass.isNone)).map (fun g => g.id)
      if !l.ended then s
      else
        let s := (sortBy DetOp.before l.detOps).foldl (fun (s : State) d => s.applyDet l mine.head? d) s
        let s := l.detPages.foldl (fun (s : State) p => s.freePage p) s
        let s := s.updLaunch launch (fun l => { l with detOps := [], detPages := [] })
        if s.ops.any (fun o => o.gang.any (fun g => mine.contains g) || l.doneOp == some o.id) then s
        else
          let (status, detail) := l.verdict
          let t := s.writeDone l status
          match (t.ops.drop s.ops.length).getLast? with
          | some o => t.updLaunch launch (fun l => { l with doneOp := some o.id })
          | none =>
          let s := (t.complete l.ctx l.tag status detail l.relaunched).unretain l
          { s with
            launches := s.launches.filter (fun x => x.id != launch)
            gangs := s.gangs.filter (fun g => !mine.contains g.id)
            waves := s.waves.filter (fun w => !(w.gang.any (fun g => mine.contains g))) })

/-! ## Waiting claims (R204, R205) -/

/-- Does a wave do nothing but wait in rclaim? -/
def Wave.onlyClaims (w : Wave) : Bool :=
  w.frontier.all (fun e => e.block != .none) && w.frontier.any (fun e => match e.block with | .rclaim _ => true | _ => false)

/-- The oldest wave that waits for a pool with its claim (R108, R205). -/
def State.oldestClaim (s : State) (p : Pool) : Option (Wave × Claim) :=
  (sortBy (fun a b => decide (a.1.age < b.1.age)) (p.claims.filterMap (fun c => (s.wave? c.wave).map (fun w => (w, c))))).head?

/-- The first claim of a pool is met; or no wave of the group can ever meet it, and the oldest waiting wave raises. -/
def execRclaimGrant (gang group core partition : Nat) (s : State) : Host.Outcome State Fault Refusal :=
  .next (match (s.gang? gang).bind (fun g => g.group? group) with
    | none => s
    | some r =>
      match r.pools.find? (fun p => p.core == core && p.partition == partition) with
      | none => s
      | some p =>
        match p.claims with
        | [] => s
        | c :: _ =>
          match s.wave? c.wave with
          | none => s
          | some w =>
            let mine (e : Entry) : Bool := e.pc == c.pc && e.depth == c.depth && e.block == .rclaim c.n
            let leave (c : Claim) (s : State) : State := s.updPool w (fun p => { p with claims := p.claims.erase c })
            if c.n ≤ p.free then
              ((leave c s).updPool w (fun p => { p with free := p.free - c.n })).updWave w.id
                (fun w => (w.grow c.n).freeEntries 4 2 mine)
            else
              let here := s.waves.filter (fun x =>
                x.gang == some gang && x.group == group && x.core == core && x.partition == partition && !x.ended)
              if !here.all (fun x => x.onlyClaims) then s
              else match s.oldestClaim p with
              | none => s
              | some (w, c) =>
                match w.frontier.find? (fun e => e.pc == c.pc && e.depth == c.depth && e.block == .rclaim c.n) with
                | some e => (leave c s).raiseBlocked w e cClaim []
                | none => s)

/-! ## The move of repack (R197 to R200) -/

/-- The waves that take part with a wave. -/
def State.repackers (s : State) (w : Wave) : List Wave :=
  if w.gang.isNone then [w]
  else sortBy (fun a b => decide (a.index < b.index))
    (s.waves.filter (fun x => x.gang == w.gang && x.group == w.group && x.role == w.role && !x.ended))

/-- The keys a wave arrived with, when it stands at repack with its one entry. -/
def Wave.repackKeys (w : Wave) (pc depth : Nat) : Option (List (Nat × Nat)) :=
  match w.frontier, w.heldEntries with
  | [e], [] => (match e.block with
    | .repack ks => if e.pc = pc ∧ e.depth = depth then some ks else none
    | _ => none)
  | _, _ => none

/-- A thread that moves: its key, its wave's position among the participants, its lane. -/
structure Mover where
  key : Nat
  wave : Nat
  lane : Nat
  deriving DecidableEq, Repr

def Mover.before (a b : Mover) : Bool :=
  decide (a.key < b.key) || (a.key == b.key && (decide (a.wave < b.wave) || (a.wave == b.wave && decide (a.lane < b.lane))))

/-- What a lane position holds after the move: a thread's own state over what stays (R199). -/
def Lane.takeThread (stay : Lane) (n : Nat) (from_ : Option Lane) : Lane :=
  let base : Lane := { stay with o := List.replicate stay.o.length {}, lt := {}, rec_ := none, pure_ := none, spoke := false }
  match from_.map Lane.recheck with
  | none => base
  | some t => { base with v := putMany base.v 0 (t.v.take n), x := t.x, p := t.p, rec_ := t.rec_, pure_ := t.pure_, spoke := t.spoke }

/-- The participants after the move. -/
def moveThreads (ws : List Wave) (ms : List Mover) (n : Nat) : List Wave :=
  (indexed ws).map (fun (x : Nat × Wave) =>
    let mine := (ms.drop (32 * x.1)).take 32
    let lanes := (indexed x.2.lanes).map (fun (l : Nat × Lane) =>
      l.2.takeThread n ((mine[l.1]?).bind (fun (m : Mover) => (ws[m.wave]?).map (fun (w : Wave) => w.lane m.lane))))
    let es := (x.2.frontier.map (fun e => { (e.past 4 2) with mask := maskBy (fun l => decide (l < mine.length)) })).filter (fun e => e.mask != 0)
    { x.2 with lanes := lanes, frontier := es, latch := none, abufs := [] })

/-- A follow-on of a wave that has still to read its registers (R452). -/
def State.followOf (s : State) (wave : Nat) : Bool :=
  s.ops.any (fun o => o.wave == wave && (match o.body with | .follow _ _ _ _ _ _ _ queued => !queued | _ => false))

/-- REPACK_MOVE: every participant has arrived and is on its core (R201), its writes have landed and its release is done. -/
def execRepackMove (wave : Nat) (s : State) : Host.Outcome State Fault Refusal :=
  .next (match s.wave? wave with
    | none => s
    | some w =>
      match w.frontier with
      | [e] =>
        let ws := s.repackers w
        let ks := ws.map (fun x => x.repackKeys e.pc e.depth)
        if !ks.all (fun k => k.isSome) then s
        else if ws.any (fun x => decide (x.core ≥ bankBase)) then s
        else match ws.find? (fun x => !x.queuesEmpty) with
        | some x => (match x.frontier with
          | [f] => s.raiseBlocked x f cIllegal []
          | _ => s)
        | none =>
          if ws.any (fun x => !(s.pending x.id).isEmpty || !s.released x 0xFFFFFFFF || s.followOf x.id) then s
          else
            let ms : List Mover := ((indexed ks).map (fun k => ((k.2.getD []).map (fun x => Mover.mk x.2 k.1 x.1)))).flatten
            let n := match s.kernelOf w with
              | some h => ((h.roles[w.role]?).map (fun r => if h.roles.length = 1 then h.regs else r.2)).getD h.regs
              | none => w.regs
            let after := moveThreads ws (sortBy Mover.before ms) n
            let s := after.foldl (fun (s : State) x => s.updWave x.id (fun _ => x)) s
            let cores := ws.foldl (fun cs x => addSet x.core cs) []
            let s := if cores.length ≤ 1 then s else cores.foldl (fun s c => s.acquire c) s
            after.foldl (fun s x => s.settleWave x.id) s
      | _ => s)

end Sys2Proof.Machine
end

