-- ==== Sys2Proof/Machine/Message.lean ====
section
/-! DEFINITION. Host messages as they are taken and checked (R61 to R63, R87), and hardware errors as they strike (R7,
R225, R243, R306). -/

namespace Sys2Proof.Machine

/-! ## Sequences (R62, R63) -/

/-- Does a command with this TYPE and CTX belong to the device sequence? -/
def deviceSeq (type ctx : Nat) : Bool := ctx == 0xFF || type == 0x01

/-- The SEQ its sequence expects, when it belongs to one. -/
def State.expectedSeq (s : State) (type ctx : Nat) : Option Nat :=
  if deviceSeq type ctx then some s.dev.devSeq
  else (s.ctx? ctx).map (fun c => c.nextSeq)

def State.advanceSeq (s : State) (type ctx : Nat) : State :=
  if deviceSeq type ctx then { s with dev := { s.dev with devSeq := (s.dev.devSeq + 1) % 2 ^ 32 } }
  else s.updCtx ctx (fun c => { c with nextSeq := (c.nextSeq + 1) % 2 ^ 32 })

/-- A completion without detail or value. -/
def State.answer (s : State) (m : Msg) (status : Nat) : State := s.complete m.ctx m.tag status 0 0

/-- Does the device serve commands: its firmware runs (R87), and, but for MAP_REBUILD, its map is published (R36)? -/
def State.serves (s : State) (type : Nat) : Bool :=
  type == 0x14 || type == 0x15 || s.dev.fw.running.isSome

/-- Step 1 of R62: the sequence number. -/
def State.seqOk (s : State) (type : Nat) (m : Msg) : Bool :=
  match s.expectedSeq type m.ctx with
  | some n => m.seq == n
  | none => true

/-- The checks of R62 before a command takes effect. `lenOk` is R71's length; `device` the scope of R68. -/
def State.command (s : State) (type : Nat) (device : Bool) (m : Msg) (lenOk : Bool) (k : State → State) :
    Host.Outcome State Fault Refusal :=
  .next (
    if !s.serves type then s.answer m 6
    else if !s.seqOk type m then s.answer m 3
    else
      let s := s.advanceSeq type m.ctx
      let scopeOk := if type = 0x01 then decide (m.ctx < 64) else if device then m.ctx == 0xFF else decide (m.ctx < 64)
      if !scopeOk then s.answer m 4
      else if !device && (s.ctx? m.ctx).isNone then s.answer m 2
      else if !lenOk || decide (m.len > 4064) || m.body.length != m.len then s.answer m 4
      else k s)

/-- A command that takes effect later waits where it stood, at the front of what was received (log 36). -/
def State.putBack (s : State) (i : Instr) : State :=
  { s with dev := { s.dev with inbox := encodeMsg i :: s.dev.inbox } }

/-- A message whose TYPE no command has (R62): its sequence number is checked and advances first. -/
def State.unknownCommand (s : State) (type : Nat) (m : Msg) : State :=
  if !s.serves type then s.answer m 6
  else if !s.seqOk type m then s.answer m 3
  else (s.advanceSeq type m.ctx).answer m 1

/-- May the n-th message received be executed now (R62): a device-scope command only after all before it, another only
after those of its context? -/
def eligible (inbox : List (List Byte)) (n : Nat) : Bool :=
  match inbox[n]? with
  | none => false
  | some bs =>
    let ctx (m : List Byte) : Nat := numAt m 1 1
    if deviceSeq (numAt bs 0 1) (ctx bs) then n == 0
    else (inbox.take n).all (fun m => ctx m != ctx bs)

/-- A message taken: a command to execute, or an unknown one answered. One without a whole header, or whose body is not as long
as LEN says, is dropped with no answer; a TYPE of 0x00 or 0x80 to 0xFF counts as unassigned (DESIGN CHOICE, log 103). -/
def State.takeMessage (s : State) (n : Nat) : Except State (Instr × State) :=
  let n := if eligible s.dev.inbox n then n else 0
  match s.dev.inbox[n]? with
  | none => .error s
  | some bs =>
    let s := { s with dev := { s.dev with inbox := s.dev.inbox.eraseIdx n } }
    match decodeMsg bs with
    | .ok i => .ok (i, s)
    | .error (.unknownCommand t) => .error (s.unknownCommand t (msgOf bs))
    | .error _ => .error s

/-! ## Events -/

end Sys2Proof.Machine

namespace Sys2Proof

/-- Neither an instruction of Glezu nor a command: an event. -/
def Instr.isEvent (i : Instr) : Bool := (encodeWords i).isEmpty && (encodeMsg i).isEmpty

end Sys2Proof

namespace Sys2Proof.Machine

/-! ## Hardware errors (R7, R51, R54, R225, R306, R307) -/

/-- The retirement state of the map (R36). -/
def RMap.retirement (m : RMap) : Durable :=
  { valid := true
    cores := m.cores.map (fun (c : Nat × CoreEnt) => (c.1, { c.2 with st := if c.2.st = 4 then 4 else 1 }))
    slices := m.slices
    stackEnts := m.stackEnts.map (fun (x : Nat × StackEnt) => (x.1, { x.2 with st := if x.2.failed then 3 else 1 }))
    remaps := m.remaps }

/-- The durable copy follows the map. -/
def State.keepDurable (s : State) : State :=
  s.updDev (fun d => if d.durable.valid then { d with durable := d.rmap.retirement } else d)

/-- A stack that can give no more is marked failing (R55). -/
def State.stackFails (s : State) (st : Nat) : State := (s.publishStack 0x0D st (fun e => { e with st := 3, failed := true })).keepDurable

/-- The row of its stack that holds a page (R252): the page's own, or the spare row it was remapped to (log 25). -/
def RMap.rowOf (m : RMap) (page : Nat) : Nat :=
  m.remaps.foldl (fun row r => if r.kind = 1 ∧ r.stack = stackOf page ∧ r.bad = row then r.target else row) (page / 12)

/-- A spare row of a stack, whose number the spec does not give (log 6). -/
def State.freeRowNo (s : State) : Nat × State :=
  let (w, s) := s.freeWord
  (w.toNat % 2 ^ 24, s)

/-- A remap entry and the stack's entry change together (R44, R45); the version's DETAIL is the remap entry's index. -/
def State.publishRemap (s : State) (cause st : Nat) (r : Remap) (f : StackEnt → StackEnt) : State :=
  (s.publish cause s.dev.rmap.remaps.length (fun (m : RMap) => { m with
    remaps := m.remaps ++ [r], stackEnts := setBy st (f ((lookupBy st m.stackEnts).getD {})) m.stackEnts })).keepDurable

/-- A page is retired (R55, R141): it is never allocated again, and while mapped keeps its data. A stack that fails, or a full
table, records it no more. -/
def State.retirePage (s : State) (page : Nat) : State :=
  let st := stackOf page
  let s := { s with pool := { s.pool with withheld := addSet page s.pool.withheld } }.unwatch none page
  let e := s.stackEnt st
  if e.st ≠ 1 then s
  else if s.dev.rmap.remaps.length ≥ 4096 then s.stackFails st
  else
    let s := s.publishRemap 0x0C st { stack := st, kind := 2, bad := s.dev.rmap.rowOf page, target := page } (fun e => { e with retired := e.retired + 1 })
    let s := if e.retired + 1 ≥ 512 then s.stackFails st else s
    { s with dev := { s.dev with rowScores := s.dev.rowScores.filter (fun r => r.1 != page) } }

/-- A row whose score has reached 32 is remapped to a spare row, or its page retired (R55). -/
def State.rowDue (s : State) (page : Nat) : State :=
  let st := stackOf page
  let e := s.stackEnt st
  if e.st ≠ 1 then s
  else if s.dev.rmap.remaps.length ≥ 4096 then s.stackFails st
  else if e.spare = 0 then s.retirePage page
  else
    let (target, s) := s.freeRowNo
    let s := s.publishRemap 0x0B st { stack := st, kind := 1, bad := s.dev.rmap.rowOf page, target := target }
      (fun e => { e with spare := e.spare - 1, remapped := e.remapped + 1 })
    { s with dev := { s.dev with rowScores := s.dev.rowScores.filter (fun r => r.1 != page) } }

/-- The score of a page's row rises (R54, R252). -/
def State.scoreRow (s : State) (page n : Nat) : State :=
  let score := (lookupBy page s.dev.rowScores).getD 0 + n
  let s := { s with dev := { s.dev with rowScores := setBy page score s.dev.rowScores } }
  if decide (32 ≤ score) && !s.pool.withheld.contains page then s.rowDue page else s

/-- A fault in an element of a tile: its value, and what R423 sees of it in block kinds. -/
def Tile.hit (t : Tile) (elem : Nat) (value : Dword) (delta : Int) : Tile :=
  let add (k : Nat) (l : List (Nat × Check)) : List (Nat × Check) :=
    let c := (lookupBy k l).getD {}
    setBy k { c with resid := c.resid + delta } l
  { t with acc := setBy elem value t.acc, rows := add (elem / 64) t.rows, cols := add (elem % 64) t.cols }

/-- A word of a wave is changed. -/
def Wave.strike (w : Wave) (a : WordAt) (f : PWord → PWord) : Wave :=
  let pair (p : PPair) (half : Nat) : PPair := if half = 0 then { p with lo := f p.lo } else { p with hi := f p.hi }
  let at_ (ws : List PWord) (n : Nat) : List PWord := (indexed ws).map (fun x => if x.1 = n then f x.2 else x.2)
  match a with
  | .main l n => w.updLane l (fun lane => { lane with v := at_ lane.v n })
  | .operand l n => w.updLane l (fun lane => { lane with o := at_ lane.o n })
  | .last l half => w.updLane l (fun lane => { lane with lt := pair lane.lt half })
  | .scalar n half => { w with scalars := (indexed w.scalars).map (fun x => if x.1 = n then pair x.2 half else x.2) }
  | .queue l q pos => w.updLane l (fun lane => { lane with q := (indexed lane.q).map (fun x => if x.1 = q then at_ x.2 pos else x.2) })

/-- The unit a parity error in a word counts against (R51): the main file's quarter, else the core. -/
def Wave.parityUnit (w : Wave) (a : WordAt) (quarter : Nat) : HwUnit :=
  match a with
  | .main _ _ => .quarter w.core w.partition quarter
  | .operand _ _ | .last _ _ | .scalar _ _ | .queue _ _ _ => .core w.core

/-- A wave consumes an error of its own state (R226, R307; log 108): it issues nothing more, its gang, or a task wave, takes it. -/
def State.consumeState (s : State) (w : Wave) : State :=
  match w.gang with
  | some g => (s.updWave w.id (fun w => { w with hold := .contained })).charge g 2 (some w.core)
  | none => s.killTask w 2 0 (2 ^ 8 + 2)

/-- A scratchpad unit fails (R246): poisoned, and, of a line an attempt has journalled, the gang's error (R307). -/
def State.spFails (s : State) (g : Gang) (place unit : Nat) (p : Place) : State :=
  let s := (s.updGang g.id (fun g => g.updPlace place (fun p => { p with marks := addSet unit p.marks }))).countError
    (.bank p.core (p.spBanks.getD (unit * 8 / 65536) 0)) true
  if g.region.attempting && p.journalled.contains (unit / 16) then s.charge g.id 6 (some p.core) else s

/-- A 64-bit unit of a FIFO's entry fails (R246): its two words are marked. -/
def State.fifoFails (s : State) (g : Gang) (place fifo entry unit : Nat) (p : Place) : State :=
  let hit (ws : List PWord) : List PWord := (indexed ws).map (fun x => if x.1 / 2 = unit then { x.2 with mark := true } else x.2)
  (s.updGang g.id (fun g => g.updPlace place (fun p => { p with
    fifos := (indexed p.fifos).map (fun q => if q.1 = fifo then
      (indexed q.2).map (fun e => if e.1 = entry then hit e.2 else e.2) else q.2) }))).countError
    (.bank p.core (p.fifoBanks.getD fifo 0)) true

/-- A line a region holds back fails: the gang's error (R307), or, past the commit point, words that reach home poisoned, and a
report (R296). -/
def State.lineFails (s : State) (g : Gang) (n : WLine) (bank : Nat) : State :=
  let s := if n.spilled then s else s.countError (.bank n.core bank) true
  if g.region.st = 5 then
    (s.updRegion g.id (fun r => { r with lines := r.lines.map (fun (x : WLine) => if x.core = n.core ∧ x.line = n.line then
      { x with words := x.words.map (fun w => (w.1, { w.2 with mark := true })) } else x) })).poisonReport g.ctx g.index 9 n.va
  else s.charge g.id 6 (some n.core)

/-- A hardware error strikes. -/
def State.upset (s : State) : Upset → State
  | .hbmCorrected page => s.scoreRow page 1
  | .hbmUncorrectable unit =>
    { s with poison := addSet unit s.poison }.scoreRow (unit * 64 / pageBytes) 16
  | .l2Uncorrectable unit way =>
    let pa := unit * 64
    let e := s.dev.rmap.sliceEnt (64 * homeDie pa + homeSlice pa)
    if decide (tierBase ≤ pa) || e.homeOnly || e.ways.getLsbD way || decide (12 ≤ way) then s
    else { s with poison := addSet unit s.poison }.countError (.way (homeDie pa) (homeSlice pa) way) true
  | .spUncorrectable gang place unit =>
    match s.gang? gang with
    | some g => (g.place? place).elim s (s.spFails g place unit)
    | none => s
  | .fifoUncorrectable gang place fifo entry unit =>
    match s.gang? gang with
    | some g => (g.place? place).elim s (s.fifoFails g place fifo entry unit)
    | none => s
  | .l1Uncorrectable core sector bank =>
    if (s.coreAt core).l1.any (fun w => w.pa / 32 == sector) then
      (s.updCore core (fun c => { c with l1Marks := addSet sector c.l1Marks })).countError (.bank core bank) true
    else s
  | .pinned gang core line bank =>
    match s.gang? gang with
    | some g => (g.region.lines.find? (fun n => n.core == core && n.line == line)).elim s (fun n => s.lineFails g n bank)
    | none => s
  | .parity wave at_ quarter =>
    match s.wave? wave with
    | some w => (s.updWave wave (fun w => w.strike at_ (fun x => { x with mark := true, par := true }))).countError
        (w.parityUnit at_ quarter) true
    | none => s
  | .parityState wave =>
    match s.wave? wave with
    | some w => (s.countError (.core w.core) true).consumeState w
    | none => s
  | .paritySync core =>
    (s.waves.filter (fun w => w.core == core && w.resident && !w.ended)).foldl (fun (s : State) w => s.consumeState w)
      (s.countError (.core core) true)
  | .tile ctx core tile elem value delta =>
    s.updCtxCore ctx core (fun c => { c with tiles := (indexed c.tiles).map (fun t =>
      if t.1 = tile then t.2.hit elem value delta else t.2) })
  | .counted unit bad => s.countError unit bad
  | .durable => { s with dev := { s.dev with durable := { s.dev.durable with valid := false } } }

end Sys2Proof.Machine
end

