-- ==== Sys2Proof/Machine/Mapping.lean ====
section
/-! DEFINITION. MEM_MAP and MEM_UNMAP (R69, R70, R141, R143, R261, R262, R265 to R267). -/

namespace Sys2Proof.Machine

/-! ## The bodies (R70) -/

/-- What MEM_MAP asks. -/
structure MapReq where
  va : Nat
  count : Nat
  size : Nat
  alloc : Bool
  w : Bool
  x : Bool
  pt : Bool
  r : Bool
  prot : Bool
  pa : Nat
  pkg : Nat
  deriving DecidableEq, Repr

def mapReqOf (b : List Byte) : MapReq :=
  let f := numAt b 0x0C 4
  { va := numAt b 0 8, count := numAt b 8 4, size := field f 0 2, alloc := bitOf f 2, w := bitOf f 3, x := bitOf f 4,
    pt := bitOf f 5, r := bitOf f 6, prot := bitOf f 7, pa := numAt b 0x10 8, pkg := numAt b 0x18 2 }

/-- Bytes of one of its pages. -/
def MapReq.step (q : MapReq) : Nat := sizePages q.size * pageBytes

/-- Small pages of the range. -/
def MapReq.small (q : MapReq) : Nat := q.count * sizePages q.size

/-- Is a range one that a body may name: SIZE, alignment, bits [63:56]? -/
def badRange (va size : Nat) : Bool := size == 3 || va % (sizePages size * pageBytes) != 0 || decide (va ≥ 2 ^ 56)

/-- Does the count lie in its range, and the range in the address space? -/
def badCount (va count size : Nat) : Bool :=
  count == 0 || decide (count > 1048576) || decide (va + count * sizePages size * pageBytes > 2 ^ 56)

/-- A malformed MEM_MAP body. With R, PA and PKG go unchecked but for PA's alignment (R70). -/
def MapReq.malformed (q : MapReq) (cx : Ctx) (b : List Byte) : Bool :=
  decide (numAt b 0x0C 4 ≥ 256) || numAt b 0x1A 6 != 0 || badRange q.va q.size ||
  q.pa % q.step != 0 || (!q.r && q.pkg != 0) ||
  (q.alloc && (q.r || q.pa != 0)) || (q.prot && (q.alloc || q.r || q.pa != 0)) || (q.pt && !cx.policy.tolerant)

/-! ## The range as it stands -/

/-- The walks of a range's small pages, with their virtual addresses. -/
def State.walks (s : State) (cx : Ctx) (va small : Nat) : List (Nat × Walk) :=
  (List.range small).map (fun i => (va + i * pageBytes, s.walk cx.root (va + i * pageBytes)))

def Walk.entry? : Walk → Option Nat
  | .found e => some e
  | .invalid | .poisoned => none

/-- Does an entry's page reach beyond the range (R262)? -/
def partOf (va small at_ e : Nat) : Bool :=
  let n := sizePages (pteSize e) * pageBytes
  decide (at_ / n * n < va) || decide (va + small * pageBytes < at_ / n * n + n)

/-- The entries of a range that PROT or MEM_UNMAP acts on: 0x04 where it names part of a larger page, 0x05 with DETAIL 1
at a poisoned entry, 0x05 where one is not valid or of another SIZE. -/
def State.entriesIn (s : State) (cx : Ctx) (va count size : Nat) : Except (Nat × Nat) (List (Nat × Nat)) :=
  let small := count * sizePages size
  let ws := s.walks cx va small
  let es := ws.filterMap (fun w => w.2.entry?.map (fun e => (w.1, e)))
  if es.any (fun e => decide (size < pteSize e.2) && partOf va small e.1 e.2) then .error (4, 0)
  else if ws.any (fun w => w.2 == .poisoned) then .error (5, 1)
  else if decide (es.length < ws.length) || es.any (fun e => pteSize e.2 != size) then .error (5, 0)
  else .ok es

/-! ## Accesses under way (R267) -/

/-- Does an operation hold a translation of an address in a range? -/
def OpBody.holds (b : OpBody) (lo hi : Nat) : Bool :=
  let inside (a : Acc) : Bool := decide (lo ≤ a.va) && decide (a.va < hi)
  match b with
  | .load _ _ _ _ _ _ _ accs => accs.any inside
  | .store _ _ _ items | .pin _ _ _ _ items => items.any (fun i => inside i.1)
  | .atom _ _ _ _ items _ => items.any (fun i => inside i.acc)
  | .copy src dst n _ _ wrote =>
    let reaches (e : CopyEnd) : Bool := match e with
      | .g va => decide (va < hi) && decide (lo < va + n)
      | .sp _ _ _ | .ck _ => false
    wrote && (reaches src || reaches dst)
  | .deliver _ _ | .fifoPop _ _ _ _ _ | .fifoPush _ _ _ _ | .fence | .buffered | .writeBack _ | .follow _ _ _ _ _ _ _ _
  | .matrix | .col _ _ | .ray _ _ | .join _ _ _ _ | .sramMode _ _ => false

/-- Does a region hold back a write to one of some local pages, for its commit? -/
def Region.writes (r : Region) (pages : List Nat) : Bool :=
  let at_ (l : Loc) : Bool := match l with
    | .home pa => pages.contains (pa / pageBytes)
    | .remote _ _ | .sp _ _ _ => false
  r.lines.any (fun l => pages.contains (l.line * 128 / pageBytes)) ||
  r.deferred.any (fun d => match d.body with
    | .atom _ _ _ loc _ _ => at_ loc
    | .store loc _ _ => at_ loc
    | .spawn _ => false)

/-- Has every access that used a translation of the range been performed? -/
def State.rangeQuiet (s : State) (cx : Ctx) (lo hi : Nat) (pages : List Nat) : Bool :=
  !s.ops.any (fun o => o.ctx == cx.id && o.body.holds lo hi) &&
  !s.gangs.any (fun g => g.ctx == cx.id && g.region.writes pages) &&
  !s.launches.any (fun l => l.ctx == cx.id && l.detOps.any (fun d => match d.loc with
    | .home pa => pages.contains (pa / pageBytes)
    | .remote _ _ | .sp _ _ _ => false))

/-! ## What a change brings with it (R141, R143, R267) -/

/-- L1 copies of a page that is not writable go, everywhere; and the tenant's reuse entries. -/
def State.dropReadOnly (s : State) (cx : Ctx) (entries : List (Nat × Nat)) : State :=
  let ro := entries.filter (fun e => !pteW e.2)
  if ro.isEmpty then s
  else
    let s := (ro.filterMap (fun e => leafPage? e.1 e.2)).foldl (fun (s : State) p =>
      (s.cores.map (fun c => c.idx)).foldl (fun (s : State) c => s.invalidateWords c (p * pageBytes) ((p + 1) * pageBytes)) s) s
    s.invalidateReuse none (fun r => r.tenant == cx.tenant)

/-- Entries that parked for pages that have come are unblocked (R194, R265). -/
def wake (ok : Nat → Bool) (es : List Entry) : List Entry :=
  let due (e : Entry) : Bool := match e.block with
    | .park _ vas => vas.all (fun v => ok v.2)
    | _ => false
  (es.filter due).foldl (fun (acc : List Entry) e => arrive acc { e with block := .none, passed := 0, firstPark := e.parkTimes })
    (es.filter (fun e => !due e))

/-- What waited for a page that is now valid goes on. -/
def State.pagesCame (s : State) (cx : Ctx) : State :=
  let ok (va : Nat) : Bool := s.mapped cx (va / pageBytes)
  let s := { s with waves := s.waves.map (fun (w : Wave) => if w.ctx = cx.id then
    { w with frontier := wake ok w.frontier, heldEntries := wake ok w.heldEntries } else w) }
  let s := s.ops.foldl (fun (s : State) o => match o.body with
    | .join va core launch gang =>
      if o.ctx = cx.id ∧ ok va then (s.dropOp o.id).joinDec cx.id core launch gang va else s
    | _ => s) s
  s.settleRequests cx.id

/-! ## The task area (R69) -/

/-- Is the context's task area in use, so that its pages must stay? -/
def State.areaHeld (s : State) (cx : Ctx) : Bool :=
  let used := s.areaGet cx 0x18 4
  s.launches.any (fun l => l.ctx == cx.id) || s.scenes.any (fun c => c.ctx == cx.id) ||
    (cx.areaReady && (s.ringCount cx != 0 || decide ((s.freeSlots cx used (s.areaGet cx 0x04 4)).length + 1 < used)))

/-- Does a range meet the task area? -/
def Ctx.areaIn (cx : Ctx) (va n : Nat) : Bool :=
  decide (va < cx.taskArea + (2 * cx.taskPages + 1) * pageBytes) && decide (cx.taskArea < va + n)

/-! ## MEM_MAP -/

/-- An entry as MEM_MAP writes it for the i-th page: where it leads. Bits of PA and PKG that the fields of a remote entry do
not hold are lost (DESIGN CHOICE, log 107). -/
def MapReq.pte (q : MapReq) (cx : Ctx) (page : Nat) : Nat :=
  if q.r then 2 ^ 50 * (q.pkg % 2 ^ 14) + 2 ^ 10 + pteOf 0 (page % 2 ^ 35) q.size q.pt q.x q.w
  else pteOf cx.tenant page q.size q.pt q.x q.w

/-- The entries of one page of any size. -/
def State.putRun (s : State) (cx : Ctx) (va e n : Nat) : Option State :=
  (List.range n).foldl (fun (s : Option State) i => s.bind (fun s => s.putPte cx.root (va + i * pageBytes) e)) (some s)

/-- The pages written one after the other, taken from the pool with ALLOC. -/
def State.putAll (s : State) (cx : Ctx) (q : MapReq) : Option State :=
  (List.range q.count).foldl (fun (s : Option State) i => s.bind (fun s =>
    let at_ := q.va + i * q.step
    let put (s : State) (page : Nat) : Option State := s.putRun cx at_ (q.pte cx page) (sizePages q.size)
    if q.alloc then (s.takeSized q.size).bind (fun x => put x.2 x.1)
    else put s ((q.pa + i * q.step) / pageBytes))) (some s)

/-- An entry with W, X and PT changed. -/
def MapReq.protect (q : MapReq) (e : Nat) : Nat :=
  e / 2 ^ 10 * 2 ^ 10 + (if q.pt then 2 ^ 9 else 0) + (if q.x then 2 ^ 7 else 0) + (if q.w then 2 ^ 6 else 0) + e % 2 ^ 6

/-- What a mapping command comes to: a status with its DETAIL, a wait for accesses under way, or the change. -/
inductive MapTo where
  | fail (status detail : Nat)
  | wait
  | done (s : State)
  deriving DecidableEq, Repr

/-- New entries: none names part of a mapped larger page (R262), only HBM is a local target (R251), and only pages the tenant
has already are shared (R70). -/
def State.mapNew (s : State) (cx : Ctx) (q : MapReq) : MapTo :=
  let ws := s.walks cx q.va q.small
  if ws.any (fun w => w.2.entry?.any (fun e => decide (q.size < pteSize e) && partOf q.va q.small w.1 e)) then .fail 4 0
  else if ws.any (fun w => w.2 == .poisoned) then .fail 5 1
  else if ws.any (fun w => w.2 != .invalid) then .fail 5 0
  else
    let live := s.livePages (fun c => c.tenant == cx.tenant)
    if !q.alloc && !q.r && decide (hbmPages * pageBytes < q.pa + q.small * pageBytes) then .fail 5 0
    else if !q.alloc && !q.r && !(List.range q.small).all (fun i => live.contains (q.pa / pageBytes + i)) then .fail 6 0
    else match s.putAll cx q with
      | none => .fail 5 0
      | some s =>
        let made := (s.walks cx q.va q.small).filterMap (fun w => w.2.entry?.map (fun e => (w.1, e)))
        let s := s.updCtx cx.id (fun c => { c with ranges := c.ranges ++ [(q.va, q.count * q.step)] })
        .done ((s.dropReadOnly cx made).pagesCame cx)

def State.mapProtect (s : State) (cx : Ctx) (q : MapReq) : MapTo :=
  match s.entriesIn cx q.va q.count q.size with
  | .error (status, detail) => .fail status detail
  | .ok es =>
    if !q.w && cx.areaIn q.va (q.count * q.step) && s.areaHeld cx then .fail 6 0
    else if !s.rangeQuiet cx q.va (q.va + q.count * q.step) (es.filterMap (fun e => leafPage? e.1 e.2)) then .wait
    else match es.foldl (fun (s : Option State) e => s.bind (fun s => s.putPte cx.root e.1 (q.protect e.2))) (some s) with
      | none => .fail 5 0
      | some s => .done (s.dropReadOnly cx (es ++ es.map (fun e => (e.1, q.protect e.2))))

/-- What a mapping command answers. -/
def State.mapAnswer (s0 : State) (i : Instr) (m : Msg) (count : Nat) (s : State) : MapTo → State
  | .fail status detail => s.complete m.ctx m.tag status detail 0
  | .wait => s0.putBack i
  | .done t => t.complete m.ctx m.tag 0 0 count

def execMemMap (m : Msg) (s : State) : Host.Outcome State Fault Refusal :=
  s.command 0x04 false m (m.len == 32) (fun t => match t.ctx? m.ctx with
    | none => t
    | some cx =>
      let q := mapReqOf m.body
      s.mapAnswer (.memMap m) m q.count t (
        if q.malformed cx m.body then .fail 4 0
        else if badCount q.va q.count q.size then .fail 5 0
        else if q.prot then t.mapProtect cx q else t.mapNew cx q))

/-! ## MEM_UNMAP -/

def State.unmap (s : State) (cx : Ctx) (va count size : Nat) : MapTo :=
  match s.entriesIn cx va count size with
  | .error (status, detail) => .fail status detail
  | .ok es =>
    let n := count * sizePages size * pageBytes
    let pages := es.filterMap (fun e => leafPage? e.1 e.2)
    if cx.areaIn va n && s.areaHeld cx then .fail 6 0
    else if !s.rangeQuiet cx va (va + n) pages then .wait
    else
      let s := es.foldl (fun (s : State) e => s.clearPte cx.root e.1) s
      let s := (s.dropReadOnly cx es)
      let s := pages.foldl (fun (s : State) p => s.unwatch none p) s
      .done (s.freeUnmapped pages)

def execMemUnmap (m : Msg) (s : State) : Host.Outcome State Fault Refusal :=
  s.command 0x05 false m (m.len == 16) (fun t => match t.ctx? m.ctx with
    | none => t
    | some cx =>
      let va := numAt m.body 0 8
      let count := numAt m.body 8 4
      let flags := numAt m.body 12 4
      s.mapAnswer (.memUnmap m) m count t (
        if decide (flags ≥ 4) || badRange va flags then .fail 4 0
        else if badCount va count flags then .fail 5 0
        else t.unmap cx va count flags))

end Sys2Proof.Machine
end

