-- ==== Sys2Proof/Machine/Dispatcher.lean ====
section
/-! DEFINITION. The dispatcher (R90 to R106, R206, R323): which gang is placed or restored next, where it goes, what it
receives, and the reservation of the oldest gang. -/

namespace Sys2Proof.Machine

/-! ## Where a group's waves sit (R98, R99, R202) -/

/-- A wave's place in its group: which of the group's cores, the partition, the role, its index among the role's waves, and
its registers. -/
structure Seat where
  place : Nat
  partition : Nat
  role : Nat
  rank : Nat
  regs : Nat
  deriving DecidableEq, Repr

/-- The first wave of a group's k-th block of n. -/
def blockStart (waves n k : Nat) : Nat := k * (waves / n) + Nat.min k (waves % n)

/-- The role of the i-th wave: its number, the wave's index in it, its register count. -/
def roleOf (r : Nat) : List (Nat × Nat) → Nat → Nat × Nat × Nat
  | [], i => (r, i, 0)
  | x :: t, i => if i < x.1 then (r, i, x.2) else roleOf (r + 1) t (i - x.1)

def KHdr.seat (h : KHdr) (n i : Nat) : Seat :=
  let k := ((List.range n).filter (fun k => blockStart (h.group / 32) n k ≤ i)).length - 1
  let (role, rank, regs) := roleOf 0 h.roles i
  { place := k, partition := (i - blockStart (h.group / 32) n k) % 4, role := role, rank := rank
    regs := if h.roles.length = 1 then h.regs else regs }

/-- The effective register count (R98). -/
def KHdr.effective (h : KHdr) (regs : Nat) : Nat := roundUp (regs + 2 * (h.frontier - 8)) 8

/-- What a group needs of one of its cores: registers and wave slots of each partition, scratchpad and FIFO banks; and the
bank its saved state is in, when it is restored. -/
structure Part where
  regs : List Nat
  waves : List Nat
  sp : Nat
  fifo : Nat
  bank : Option Nat := none
  deriving DecidableEq, Repr

/-- What a group needs: its parts, and its named barriers. -/
structure Demand where
  parts : List Part
  bars : Nat
  deriving DecidableEq, Repr

/-- Registers of a group's k-th core by partition. -/
def KHdr.regsOn (h : KHdr) (n k : Nat) : List Nat :=
  let seats := ((List.range (h.group / 32)).map (h.seat n)).filter (fun x => x.place == k)
  [0, 1, 2, 3].map (fun p => ((seats.filter (fun x => x.partition == p)).map (fun x => h.effective x.regs)).foldl (· + ·) 0)

def KHdr.wavesOn (h : KHdr) (n k : Nat) : List Nat :=
  let seats := ((List.range (h.group / 32)).map (h.seat n)).filter (fun x => x.place == k)
  [0, 1, 2, 3].map (fun p => (seats.filter (fun x => x.partition == p)).length)

/-- A group of a kernel on n cores. -/
def KHdr.demand (h : KHdr) (n : Nat) : Demand :=
  { bars := h.barriers
    parts := (List.range n).map (fun k =>
      { regs := h.regsOn n k, waves := h.wavesOn n k, sp := h.spBanks, fifo := h.fifoBanks }) }

/-! ## What a core has left (R93, R98, R100, R101) -/

/-- A core as the dispatcher sees it: whether it may take the group, whether its active bank is empty, and what is free. -/
structure Room where
  core : Nat
  open_ : Bool
  empty : Bool
  regs : List Nat
  waves : List Nat
  banks : Nat
  bars : List (Nat × Nat)
  deriving DecidableEq, Repr

def State.enabled (s : State) (core : Nat) : Bool :=
  (s.dev.rmap.coreEnt core).st == 1 && !s.dev.rmap.diesLost.contains (dieOf core)

/-- Registers of a partition: 2,048, less 512 for each retired quarter. -/
def CoreEnt.regsOf (e : CoreEnt) (p : Nat) : Nat :=
  2048 - 512 * ((List.range 4).filter (fun q => e.regsOut.getLsbD (4 * p + q))).length

/-- A core nothing holds. -/
def State.idleRoom (s : State) (core : Nat) : Room :=
  let e := s.dev.rmap.coreEnt core
  { core := core, open_ := s.enabled core, empty := true, regs := [0, 1, 2, 3].map e.regsOf, waves := [16, 16, 16, 16]
    banks := ((List.range 32).filter (fun b => !e.banksOut.getLsbD b)).length - 4, bars := [] }

/-- The header a gang's groups run under; passes and task gangs have none. -/
def State.gangHdr (s : State) (g : Gang) : Option KHdr :=
  if g.pass.isSome || g.taskGang then none else (s.launch? g.launch).map (fun l => l.hdr)

/-- The groups that hold a core: the gang, the group, which of its cores it is. -/
def State.groupsOn (s : State) (core : Nat) : List (Gang × Group × Nat) :=
  ((s.gangs.filter (fun g => g.st.holds)).map (fun g =>
    ((g.groups.filter (fun r => !r.ended)).map (fun r =>
      ((indexed r.places).filter (fun p => p.2.core == core)).map (fun p => (g, r, p.1)))).flatten)).flatten

/-- Task waves on a partition. -/
def State.taskWaves (s : State) (core partition : Nat) : List Wave :=
  s.waves.filter (fun w => w.gang.isNone && w.core == core && w.partition == partition && w.resident)

/-- Registers taken on a partition: groups' for their lifetime, task waves'. -/
def State.regsTaken (s : State) (core partition : Nat) : Nat :=
  ((s.groupsOn core).map (fun x => match s.gangHdr x.1 with
    | some h => (h.regsOn x.2.1.places.length x.2.2).getD partition 0
    | none => 0)).foldl (· + ·) 0 +
  ((s.taskWaves core partition).map (fun w => match s.kernelOf w with
    | some h => h.effective h.regs
    | none => 0)).foldl (· + ·) 0

def State.seatsTaken (s : State) (core partition : Nat) : List Nat :=
  (s.waves.filter (fun w => w.core == core && w.partition == partition && w.resident)).map (fun w => w.seat)

/-- Blocks of named barriers taken on a core. -/
def State.barsTaken (s : State) (core : Nat) : List (Nat × Nat) :=
  (s.groupsOn core).map (fun x => (x.2.1.barBase, x.2.1.bars.length))

/-- A core as a gang of a context finds it (R93): a bank that still spills does not keep it closed, one whose spill waits for pages
does (R115), and one whose shadow bank holds an incoming context. Of a set reserved for another gang nothing is free (R104), so
its idle cores do not count as free when the dies are put in order (R94; DESIGN CHOICE, log 111). -/
def State.room (s : State) (ctx gang core : Nat) : Room :=
  let idle := s.idleRoom core
  let c := s.coreAt core
  let reserved := s.reserve.any (fun r => r.gang != gang && r.cores.contains core)
  { idle with
    open_ := idle.open_ && (match c.shadow with | .empty | .spilling _ _ => true | .incoming _ _ | .waiting _ _ _ => false) && (c.ctx == none || c.ctx == some ctx) && !reserved
    empty := c.ctx == none
    regs := (indexed idle.regs).map (fun x => x.2 - s.regsTaken core x.1)
    waves := [0, 1, 2, 3].map (fun p => 16 - (s.seatsTaken core p).length)
    banks := Nat.min ((s.cacheBanks core).length - 4) (s.claimable core).length
    bars := s.barsTaken core }

def Part.fits (p : Part) (r : Room) : Bool :=
  r.open_ && (p.regs.zip r.regs).all (fun x => decide (x.1 ≤ x.2)) && (p.waves.zip r.waves).all (fun x => decide (x.1 ≤ x.2)) &&
    decide (p.sp + p.fifo ≤ r.banks)

/-- The lowest base of a block of n named barriers that is free on every core of a group (R101). -/
def barBaseFor (rooms : List Room) (n : Nat) : Option Nat :=
  if n = 0 then some 0
  else (List.range (65 - n)).find? (fun b => rooms.all (fun r => r.bars.all (fun x => x.2 == 0 || decide (x.1 + x.2 ≤ b) || decide (b + n ≤ x.1))))

/-- What is left once a part sits there. -/
def Room.take (r : Room) (p : Part) (base bars : Nat) : Room :=
  { r with
    regs := (r.regs.zip p.regs).map (fun x => x.1 - x.2)
    waves := (r.waves.zip p.waves).map (fun x => x.1 - x.2)
    banks := r.banks - (p.sp + p.fifo), bars := (base, bars) :: r.bars }

/-! ## Finding a place (R94, R99, R323) -/

/-- Where a group goes: its cores in order, and the base of its barriers. -/
structure Spot where
  cores : List Nat
  base : Nat
  deriving DecidableEq, Repr

/-- May a part go to a room: one whose state is in a bank goes where that bank's state went, or to an empty core. -/
def Part.mayGo (p : Part) (went : List (Nat × Nat)) (r : Room) : Bool :=
  match p.bank with
  | none => true
  | some b => match lookupBy b went with
    | some c => r.core == c
    | none => r.empty && !went.any (fun x => x.2 == r.core)

/-- A group's parts, each on the lowest core that takes it, later blocks of a new group on higher cores than earlier ones (R99). -/
def pickCores (went : List (Nat × Nat)) : List Room → List Part → Option (List Room)
  | _, [] => some []
  | rooms, p :: ps =>
    match rooms.find? (fun r => p.fits r && p.mayGo went r) with
    | none => none
    | some r => (pickCores went (rooms.filter (fun x => x.core != r.core && (p.bank.isSome || decide (r.core < x.core)))) ps).map (fun t => r :: t)

/-- A group on rooms of one core set, with its barriers. -/
def Demand.on (d : Demand) (went : List (Nat × Nat)) (rooms : List Room) : Option Spot :=
  match pickCores went rooms d.parts with
  | none => none
  | some rs => (barBaseFor rs d.bars).map (fun b => { cores := rs.map (fun r => r.core), base := b })

/-- A group in a window: on one core, or on one enabled quad (R93). -/
def Demand.spot (d : Demand) (m : RMap) (went : List (Nat × Nat)) (rooms : List Room) : Option Spot :=
  if d.parts.length ≤ 1 then rooms.findSome? (fun r => d.on went [r])
  else
    let quads := (rooms.map (fun r => r.core / 4)).foldl (fun qs q => addSet q qs) []
    quads.findSome? (fun q =>
      let die := 4 * q / 68
      if m.quadState die (q - 17 * die) != 1 then none else d.on went (rooms.filter (fun r => r.core / 4 == q)))

/-- Groups in gang order, each beside those before it. -/
def spots (m : RMap) : List Demand → List (Nat × Nat) → List Room → Option (List Spot)
  | [], _, _ => some []
  | d :: ds, went, rooms =>
    match d.spot m went rooms with
    | none => none
    | some x =>
      let put : List (Nat × Part) := x.cores.zip d.parts
      let rooms := rooms.map (fun (r : Room) => match lookupBy r.core put with
        | some p => r.take p x.base d.bars
        | none => r)
      let went := put.foldl (fun w y => match y.2.bank with | some b => setBy b y.1 w | none => w) went
      (spots m ds went rooms).map (fun t => x :: t)

/-- The width of a gang's window. -/
def widthOf (ds : List Demand) : Nat := Nat.min 17 (ceilDiv ((ds.map (fun d => d.parts.length)).foldl (· + ·) 0) 4 + 1)

def inWindow (die lo width : Nat) (rooms : List Room) : List Room :=
  rooms.filter (fun r => decide (68 * die + 4 * lo ≤ r.core) && decide (r.core < 68 * die + 4 * (lo + width)))

/-- The windows of the dies in the dispatcher's order: (die, first quad). -/
def windowsOf (rooms : List Room) (width : Nat) : List (Nat × Nat) :=
  let free (die : Nat) : Nat := (rooms.filter (fun r => dieOf r.core == die && r.open_ && r.empty)).length
  let dies := sortBy (fun a b => decide (free a > free b) || (free a == free b && decide (a < b))) [0, 1, 2, 3]
  (dies.map (fun die => (List.range (18 - width)).map (fun lo => (die, lo)))).flatten

def findSpots (m : RMap) (ds : List Demand) (went : List (Nat × Nat)) (rooms : List Room) : Option (List Spot) :=
  (windowsOf rooms (widthOf ds)).findSome? (fun x => spots m ds went (inWindow x.1 x.2 (widthOf ds) rooms))

def State.idleRooms (s : State) : List Room := (List.range 272).map s.idleRoom

/-- The smallest number of cores a group of a kernel spans (R99). -/
def State.spanOf (s : State) (h : KHdr) : Option Nat :=
  [1, 2, 3, 4].find? (fun n => ((h.demand n).spot s.dev.rmap [] s.idleRooms).isSome)

/-- Groups of a launch's gang (R76). -/
def Launch.gangSize (l : Launch) (idx : Nat) : Nat := Nat.min l.hdr.gang (l.record.groups - idx * l.hdr.gang)

/-- What a gang needs: a pass and a task gang one core (R102, R132), a new gang its header's groups, a saved one what it
left (R323). -/
def State.demands (s : State) (g : Gang) : Option (List Demand) :=
  if g.st == .saved then
    some ((g.groups.filter (fun r => !r.ended)).map (fun r =>
      { bars := r.bars.length
        parts := (indexed r.places).map (fun (p : Nat × Place) =>
          { regs := match s.gangHdr g with | some h => h.regsOn r.places.length p.1 | none => [0, 0, 0, 0]
            waves := [0, 1, 2, 3].map (fun q => (s.waves.filter (fun w => w.gang == some g.id && w.group == r.linear &&
              w.core == p.2.core && w.partition == q && w.resident)).length)
            sp := p.2.spBanks.length, fifo := p.2.fifoBanks.length, bank := some p.2.core }) }))
  else if g.pass.isSome then some [{ bars := 0, parts := [{ regs := [], waves := [], sp := 8, fifo := 0 }] }]
  else if g.taskGang then some [{ bars := 0, parts := [{ regs := [], waves := [], sp := 0, fifo := 0 }] }]
  else match s.launch? g.launch with
    | none => none
    | some l => (s.spanOf l.hdr).map (fun n => List.replicate (l.gangSize g.index) (l.hdr.demand n))

/-- The core a place lies on: itself, or, of a bank, the core whose shadow bank it is while it comes in (R113). -/
def State.coreFor (s : State) (n : Nat) : Nat :=
  match s.cores.find? (fun c => match c.shadow with | .incoming _ b => b == n | _ => false) with
  | some c => c.idx
  | none => n

/-- Where the state of a context's banks went. -/
def State.went (s : State) (ctx : Nat) : List (Nat × Nat) :=
  (s.ctxCores.filter (fun c => c.ctx == ctx && decide (s.coreFor c.core < bankBase))).filterMap (fun c =>
    c.was.map (fun b => (b, s.coreFor c.core)))

/-- Cores a gang holds: those of its groups that have not ended. -/
def Gang.heldCores (g : Gang) : List Nat :=
  (((g.groups.filter (fun r => !r.ended)).map (fun r => r.places.map (fun p => p.core))).flatten).foldl (fun cs c => addSet c cs) []

/-- Gangs that still have to leave a core. -/
def State.residents (s : State) (core : Nat) : List Gang :=
  s.gangs.filter (fun g => (g.st == .placed || g.st == .leaving) && g.heldCores.contains core)

/-- A core as its reserving gang finds it: one that another context is all ordered off, with an empty shadow bank, takes the
gang there, to be swapped in (R110, R113). -/
def State.shadowRoom (s : State) (g : Gang) (core : Nat) : Room :=
  let c := s.coreAt core
  let room := s.room g.ctx g.id core
  if room.open_ || !s.reserve.any (fun r => r.gang == g.id && r.cores.contains core) || c.shadow != .empty ||
      !(s.residents core).all (fun x => x.st == .leaving) then room
  else s.idleRoom core

/-- Does a pass hold a core's traversal unit (R161)? `stays`: one that is not on its way out. -/
def State.traversing (s : State) (stays : Bool) (core : Nat) : Bool :=
  s.gangs.any (fun g => g.pass.isSome && (g.st == .placed || (!stays && g.st == .leaving)) &&
    g.heldCores.any (fun c => s.coreFor c == core))

/-- The rooms a gang of its kind may take: a task gang claims a core that is empty, a pass a core that runs none (R161). -/
def State.roomsFor (s : State) (g : Gang) (stays : Bool) (rooms : List Room) : List Room :=
  if g.taskGang then rooms.filter (fun r => r.empty)
  else if g.pass.isSome then rooms.filter (fun r => !s.traversing stays r.core)
  else rooms

/-- Where a gang can go now. -/
def State.placeFor (s : State) (g : Gang) (ds : List Demand) : Option (List Spot) :=
  let rooms := s.roomsFor g false ((List.range 272).map (s.room g.ctx g.id))
  findSpots s.dev.rmap ds (if g.st == .saved then s.went g.ctx else []) rooms

/-- Where a reserving gang can go in part through shadow banks. -/
def State.shadowFor (s : State) (g : Gang) (ds : List Demand) : Option (List Spot) :=
  if !s.reserve.any (fun r => r.gang == g.id) then none
  else findSpots s.dev.rmap ds (if g.st == .saved then s.went g.ctx else []) (s.roomsFor g true ((List.range 272).map (s.shadowRoom g)))

/-- Could it be placed if every core were free (R97, R103, R323)? -/
def State.placeable (s : State) (ds : List Demand) : Bool := (findSpots s.dev.rmap ds [] s.idleRooms).isSome

/-! ## Placing (R95, R96, R100, R206) -/

/-- A wave of a group as it starts. -/
def startWave (l : Launch) (g : Gang) (linear i : Nat) (x : Seat) (core id seat age : Nat) : Wave :=
  let h := l.hdr
  let r := l.record
  let value (lane n : Nat) : Nat :=
    match n with
    | 0 => 32 * i + lane
    | 1 => linear % r.gx
    | 2 => linear / r.gx % r.gy
    | 3 => linear / (r.gx * r.gy)
    | 4 => g.index
    | _ => x.rank
  let lane (k : Nat) : Lane :=
    { v := (List.range x.regs).map (fun n => if n < 6 && h.preload.getLsbD n then PWord.ofNat (value k n) else {})
      o := List.replicate 8 {} }
  { id := id, ctx := g.ctx, launch := l.id, gang := some g.id, group := linear, index := i, role := x.role, task := false
    core := core, partition := x.partition, seat := seat, age := age
    lanes := laneList.map lane
    scalars := (List.range h.scalars).map (fun n =>
      if n = 0 then PPair.ofNat r.args.toNat else if n = 1 then PPair.ofNat l.recordVa else {})
    nscalars := h.scalars, regs := x.regs, maxEntries := h.frontier, slots := r.slots
    frontier := [{ pc := h.entry, depth := 0, prio := 0, mask := Mask.all }], headers := l.headers }

/-- The lowest free wave slot of a partition (log 31). -/
def State.freeSeat (s : State) (core partition : Nat) : Nat :=
  ((List.range 16).find? (fun n => !(s.seatsTaken core partition).contains n)).getD 0

/-- Banks of a core for a group: its scratchpad's and its FIFOs'. -/
def State.banksFor (s : State) (core sp fifo : Nat) : List Nat × List Nat :=
  let free := (s.claimable core).reverse
  (free.take sp, (free.drop sp).take fifo)

/-- A wave sits down. -/
def State.seatWave (s : State) (l : Launch) (g : Gang) (linear i : Nat) (x : Seat) (core : Nat) : State :=
  let (id, s) := s.fresh
  let age := (s.waves.map (fun w => w.age)).foldl max 0 + 1
  { s with waves := s.waves ++ [startWave l g linear i x core id (s.freeSeat core x.partition) age] }

/-- A context that enters an empty active bank finds its tiles unset there (R409), and its semaphores 0, but for what came there
from a bank that a gang or task wave of its still waits in (DESIGN CHOICE, log 87). -/
def State.dropUnits (s : State) (ctx core : Nat) : State :=
  { s with ctxCores := s.ctxCores.filter (fun (u : CtxCore) => !(u.ctx == ctx && u.core == core) ||
      u.was.any (fun b => s.gangs.any (fun g => g.st.live && g.heldCores.contains b) ||
        s.waves.any (fun w => w.core == b && w.gang.isNone && !w.ended))) }

/-- A context enters cores: their active banks where those are empty or its own, else their shadow banks, to be swapped in. Each
core with where the context stands on it. -/
def State.enterCores (s : State) (ctx : Nat) : List Nat → State × List (Nat × Nat)
  | [] => (s, [])
  | c :: cs =>
    let k := s.coreAt c
    if k.ctx = none ∨ k.ctx = some ctx then
      let s := if k.ctx = none then s.dropUnits ctx c else s
      let (t, loc) := (s.updCore c (fun k => { k with ctx := some ctx })).enterCores ctx cs
      (t, (c, c) :: loc)
    else
      let (n, s) := s.fresh
      let (t, loc) := (s.updCore c (fun k => { k with shadow := .incoming ctx (bankBase + n) })).enterCores ctx cs
      (t, (c, bankBase + n) :: loc)

/-- Banks for a part of a group where it stands: on a core they are cache banks no more, whose dirty lines go home first (R100);
in a shadow bank only their number counts. -/
def State.partBanks (s : State) (at_ sp fifo : Nat) : State × List Nat × List Nat :=
  if at_ ≥ bankBase then (s, List.range sp, List.range fifo)
  else if sp + fifo = 0 then (s, [], [])
  else (s.writeBackL1 at_, s.banksFor at_ sp fifo)

/-- The parts of a group where they stand, with their banks. -/
def State.standParts (s : State) : List (Nat × Place) → State × List Place
  | [] => (s, [])
  | (at_, p) :: t =>
    let (s, sp, fifo) := s.partBanks at_ p.spBanks.length p.fifoBanks.length
    let (s, ps) := s.standParts t
    (s, { p with core := at_, spBanks := sp, fifoBanks := fifo } :: ps)

/-- A group of a gang takes its spot, its banks cleared. -/
def State.placeGroup (s : State) (gang linear bars : Nat) (d : Demand) (x : Spot) (loc : List (Nat × Nat)) : State :=
  let (s, places) := s.standParts ((x.cores.zip d.parts).map (fun y =>
    ((lookupBy y.1 loc).getD y.1, { core := y.1, spBanks := List.range y.2.sp, fifoBanks := List.range y.2.fifo,
                                    fifos := List.replicate y.2.fifo [] })))
  s.updGang gang (fun g => { g with groups := g.groups ++
    [{ linear := linear, places := places, barBase := x.base, bars := List.replicate bars {}, start := s.stamp }] })

/-- The class-wait monitors hear of a placement (R331). -/
def State.sampleWait (s : State) (g : Gang) (core : Nat) : State :=
  match s.ctx? g.ctx with
  | some cx => s.sample (dieOf core) (4 + cx.cls) ((s.time - g.pendingAt) / 1000)
  | none => s

/-- The passes of gangs that stand on their core start now (R160). -/
def State.startPasses (s : State) (gangs : List Nat) : State :=
  { s with passes := s.passes.map (fun (p : Pass) => if gangs.contains p.gang then { p with startedAt := s.time } else p) }

/-- A gang takes its spots: its groups, its waves, its log (R304). One of a launch of krn.launch sees what its thread wrote
before it (R382): its placement acts as an acquire. -/
def State.placeGang (s : State) (g : Gang) (ds : List Demand) (xs : List Spot) : State :=
  let policy := ((s.ctx? g.ctx).map (fun c => c.policy)).getD {}
  let bars := ((s.gangHdr g).map (fun h => h.barriers)).getD 0
  let s := s.updGang g.id (fun g => { g with st := .placed, groups := [], placedAt := s.time, policy := policy })
  let (s, loc) := s.enterCores g.ctx ((xs.map (fun x => x.cores)).flatten.foldl (fun cs c => addSet c cs) [])
  let at_ (c : Nat) : Nat := (lookupBy c loc).getD c
  let s := (indexed (ds.zip xs)).foldl (fun (s : State) y => s.placeGroup g.id (g.first + y.1) bars y.2.1 y.2.2 loc) s
  let s := s.sampleWait g (((xs.map (fun x => x.cores)).flatten).headD 0)
  if g.pass.isSome || g.taskGang then s.startPasses [g.id]
  else match s.launch? g.launch with
    | none => s
    | some l =>
      let h := l.hdr
      let s := (indexed xs).foldl (fun (s : State) y =>
        (List.range (h.group / 32)).foldl (fun (s : State) i =>
          let x := h.seat y.2.cores.length i
          s.seatWave l g (g.first + y.1) i x (at_ (y.2.cores.getD x.place 0))) s) s
      let s := if l.device then ((xs.map (fun x => x.cores)).flatten).foldl (fun (s : State) c => s.acquire c) s else s
      (s.updGang g.id (fun g =>
        { g with logPages := h.regionLog, logBase := l.record.logBase + g.index * h.regionLog * pageBytes })).writeControl g.id

/-! ## Moving state between a core and a bank (R110, R112, R321, R323) -/

def Gang.moveCore (g : Gang) (a b : Nat) : Gang :=
  let f (n : Nat) : Nat := if n = a then b else n
  { g with
    groups := g.groups.map (fun (r : Group) =>
      { r with places := r.places.map (fun (p : Place) => { p with core := f p.core })
               pools := r.pools.map (fun (p : Pool) => { p with core := f p.core }) })
    region := { g.region with
      lines := g.region.lines.map (fun (n : WLine) => { n with core := f n.core })
      deferred := g.region.deferred.map (fun (d : Deferred) => { d with core := f d.core })
      tiles := g.region.tiles.map (fun x => (f x.1, x.2))
      drained := g.region.drained.map f } }

/-- What gangs and waves hold on a core, or in a bank, is in another. -/
def State.moveCore (s : State) (mine : Gang → Bool) (task : Wave → Bool) (a b : Nat) : State :=
  let gangs := (s.gangs.filter mine).map (fun g => g.id)
  let inGang (g : Option Nat) : Bool := g.any (fun g => gangs.contains g)
  let tasks := (s.waves.filter (fun w => w.gang.isNone && w.core == a && task w)).map (fun w => w.id)
  { s with
    gangs := s.gangs.map (fun (g : Gang) => if mine g then g.moveCore a b else g)
    waves := s.waves.map (fun (w : Wave) => if w.core = a ∧ (inGang w.gang ∨ tasks.contains w.id) then
      { w with core := b, latch := none, abufs := [] } else w)
    ops := s.ops.map (fun (o : Op) => if o.core = a ∧ (inGang o.gang ∨ tasks.contains o.wave) then { o with core := b, home := if b < bankBase then b else o.home } else o) }

/-- What a context keeps of a core's unit, and of its issue policy, is where its gang stands now (R110, R321). -/
def State.moveUnits (s : State) (ctx a b : Nat) : State :=
  match s.ctxCore? ctx a with
  | none => s
  | some u =>
    let s := { s with ctxCores := (s.ctxCores.filter (fun c => !(c.ctx == ctx && c.core == b))).map (fun (c : CtxCore) =>
      if c.ctx = ctx ∧ c.core = a then { c with core := b } else c) }
    if b ≥ bankBase then s else s.updCore b (fun k => { k with rotation := u.rotation, current := u.current })

/-- Waves that have come to a core sit down. -/
def State.reseat (s : State) (ids : List Nat) : State :=
  let s := ids.foldl (fun (s : State) i => s.updWave i (fun w => { w with seat := 16 })) s
  ids.foldl (fun (s : State) i => s.updWave i (fun w => { w with seat := s.freeSeat w.core w.partition })) s

/-- The context that a core's shadow bank holds is in its active bank (R110, R113): its parts take their banks, its waves sit down.
The move to another core is an acquire there (R278). -/
def State.swapIn (s : State) (ctx core bank : Nat) : State :=
  let gs := s.gangs.filter (fun g => g.st.live && g.heldCores.contains bank)
  let ids := gs.map (fun g => g.id)
  let s := (s.dropUnits ctx core).updCore core (fun k => { k with ctx := some ctx })
  let s := gs.foldl (fun (s : State) g => g.groups.foldl (fun (s : State) r =>
    if r.ended || !r.places.any (fun p => p.core == bank) then s
    else
      let (s, ps) := s.standParts (r.places.map (fun p => (if p.core = bank then core else bankBase, p)))
      s.updGroup g.id r.linear (fun r => { r with places := (r.places.zip ps).map (fun x => if x.1.core = bank then x.2 else x.1) })) s) s
  let s := (s.moveCore (fun g => ids.contains g.id) (fun _ => false) bank core).moveUnits ctx bank core
  let s := s.reseat ((s.waves.filter (fun w => w.core == core && w.resident && w.gang.any (fun g => ids.contains g))).map (fun w => w.id))
  ((s.startPasses ids).acquire core).trace ctx core 5 0 0 0

/-- A saved gang comes back (R114, R115, R323): what its banks hold goes to its cores, or to their shadow banks, its pages go
back. The move to another core is an acquire there (R278). -/
def State.restoreGang (s : State) (g : Gang) (xs : List Spot) : State :=
  let live := g.groups.filter (fun r => !r.ended)
  let s := s.updGang g.id (fun g => { g with st := .placed, placedAt := s.time, tried := none, region := { g.region with forced := false } })
  let (s, loc) := s.enterCores g.ctx ((xs.map (fun x => x.cores)).flatten.foldl (fun cs c => addSet c cs) [])
  let at_ (c : Nat) : Nat := (lookupBy c loc).getD c
  let moves := ((live.zip xs).map (fun y => (y.1.places.map (fun p => p.core)).zip (y.2.cores.map at_))).flatten
  -- the banks of its places, one group after the other
  let s := (live.zip xs).foldl (fun (s : State) y =>
    let (s, ps) := s.standParts ((y.1.places.zip y.2.cores).map (fun z => (at_ z.2, z.1)))
    s.updGroup g.id y.1.linear (fun r => { r with places := ps, barBase := y.2.base })) s
  let s := moves.foldl (fun (s : State) m => s.moveCore (fun x => x.id == g.id) (fun _ => false) m.1 m.2) s
  let s := moves.foldl (fun (s : State) m =>
    if (s.ctxCore? g.ctx m.1).isSome then (s.moveUnits g.ctx m.1 m.2).updCtxCore g.ctx m.2 (fun c => { c with was := some m.1 }) else s) s
  let s := s.reseat ((s.waves.filter (fun w => w.gang == some g.id && w.resident)).map (fun w => w.id))
  let s := (moves.filter (fun m => decide (m.2 < bankBase))).foldl (fun (s : State) m => (s.acquire m.2).trace g.ctx m.2 5 0 0 0) s
  (s.sampleWait g (s.coreFor ((moves.map (fun m => m.2)).headD 0))).unspill g

/-! ## The order of pending gangs (R90 to R92, R97) -/

def lexLt : List Nat → List Nat → Bool
  | [], [] => false
  | [], _ => true
  | _, [] => false
  | a :: s, b :: t => decide (a < b) || (a == b && lexLt s t)

/-- Class and age. -/
def State.rank (s : State) (g : Gang) : List Nat :=
  [((s.ctx? g.ctx).map (fun c => c.cls)).getD 3, g.acceptedAt, g.ctx, g.index, g.launch]

/-- A gang of a launch that has never been placed. -/
def Gang.isNew (g : Gang) : Bool := g.st == .pending && g.relaunches == 0 && g.pass.isNone && !g.taskGang

/-- The next gang of each runnable context's launch queue becomes a candidate. -/
def State.release (s : State) : State :=
  s.ctxs.foldl (fun (s : State) cx =>
    let waits := s.gangs.any (fun g => g.ctx == cx.id && g.isNew)
    match s.launches.find? (fun l => l.ctx == cx.id && decide (l.nextGang < l.gangs) && l.dropped.isNone) with
    | some l =>
      if waits || s.barred cx then s
      else
        let (id, s) := s.fresh
        let g : Gang := { id := id, launch := l.id, ctx := cx.id, index := l.nextGang, acceptedAt := l.acceptedAt
                          first := l.nextGang * l.hdr.gang, pendingAt := l.acceptedAt }
        { s with gangs := s.gangs ++ [g] }.updLaunch l.id (fun l => { l with nextGang := l.nextGang + 1 })
    | none => s) s

/-- May the gang be placed or restored at all? -/
def State.candidate (s : State) (g : Gang) : Bool :=
  !((s.ctx? g.ctx).all s.barred) && g.doom.all (fun d => !d.kill) && g.stale.isNone &&
  (g.st == .pending || (g.st == .saved && g.region.st != 5 && g.tried != some s.dev.rmap.version))

def State.candidates (s : State) : List Gang :=
  sortBy (fun a b => lexLt (s.rank a) (s.rank b)) (s.gangs.filter s.candidate)

/-- A gang that waits for its placement is dropped (R97): one never placed before was the last its launch released. -/
def State.dropOne (s : State) (g : Gang) : State :=
  let first (l : Launch) : Nat := match l.dropped with | some n => Nat.min n g.index | none => g.index
  if g.isNew then
    { s with gangs := s.gangs.filter (fun x => x.id != g.id) }.updLaunch g.launch (fun l =>
      { l with nextGang := g.index, dropped := some (first l) })
  else
    (s.updGang g.id (fun g => { g with st := .done, groups := [] })).updLaunch g.launch (fun l =>
      { l with doneGangs := l.doneGangs + 1, dropped := some (first l) })

/-- A gang that no die could ever take (R97): its launch releases no more, and its gangs that are not placed are dropped. -/
def State.dropGang (s : State) (g : Gang) : State :=
  (s.gangs.filter (fun x => x.launch == g.launch && x.st == .pending && x.pass.isNone && !x.taskGang)).foldl
    (fun (s : State) x => s.dropOne x) s

/-! ## The reservation (R103 to R105) -/

/-- The reserved set of a gang: of the windows that would take it if every core were idle, the one with the fewest cores
holding groups. -/
def State.reservedSet (s : State) (ds : List Demand) : List Nat :=
  let rooms := s.idleRooms
  let width := widthOf ds
  let all := (windowsOf ((List.range 272).map (fun c => { s.idleRoom c with empty := (s.coreAt c).ctx == none })) width).filterMap (fun x =>
    (spots s.dev.rmap ds [] (inWindow x.1 x.2 width rooms)).map (fun t =>
      (((inWindow x.1 x.2 width rooms).filter (fun r => !(s.groupsOn r.core).isEmpty)).length, t)))
  match (sortBy (fun a b => decide (a.1 < b.1)) all).head? with
  | some x => ((x.2.map (fun y => y.cores)).flatten).foldl (fun cs c => addSet c cs) []
  | none => []

/-- The gang reserves, with a set chosen now unless it has one whose cores are all enabled still. -/
def State.reserveFor (s : State) (g : Gang) (ds : List Demand) : State :=
  match s.reserve with
  | some r => if r.gang = g.id ∧ r.cores.all s.enabled then s else { s with reserve := some { gang := g.id, cores := s.reservedSet ds } }
  | none => { s with reserve := some { gang := g.id, cores := s.reservedSet ds } }

/-! ## One step (R95) -/

/-- Active banks that hold nothing any more are empty, and shadow banks whose incoming gangs have gone. -/
def State.emptyCores (s : State) : State :=
  { s with cores := s.cores.map (fun (c : Core) =>
      let used := !(s.groupsOn c.idx).isEmpty || s.waves.any (fun w => w.core == c.idx && w.resident) || !c.fifo.isEmpty ||
        !c.keys.isEmpty
      let c := match c.shadow with
        | .incoming _ b => if s.waves.any (fun w => w.core == b && w.resident) || s.gangs.any (fun g => g.st.holds && g.heldCores.contains b)
            then c else { c with shadow := .empty }
        | _ => c
      if used then c else { c with ctx := none, rotation := [], current := [] }) }

/-- What waits in the shadow bank of an empty core starts without a swap (R113). -/
def State.freeCores (s : State) : State :=
  let s := s.emptyCores
  s.cores.foldl (fun (s : State) c => match c.ctx, c.shadow with
    | none, .incoming ctx bank =>
      if s.enabled c.idx then (s.updCore c.idx (fun k => { k with shadow := .empty })).swapIn ctx c.idx bank else s
    | _, _ => s) s

/-- A saved task wave finds room on a core of its context (R132) that is not reserved (R104); none while system software has still
to acknowledge what its context was suspended for (R50). -/
def State.restoreTask (s : State) : Option State :=
  let cands := (s.waves.filter (fun w => w.gang.isNone && !w.resident && !w.ended)).filter (fun w => !((s.ctx? w.ctx).all s.barred) &&
    !s.gangs.any (fun g => g.ctx == w.ctx && g.stale.isSome))
  cands.findSome? (fun w => match s.kernelOf w with
    | none => none
    | some h =>
      let cores := (List.range 272).filter (fun c => (s.coreAt c).ctx == some w.ctx && s.enabled c)
      (cores.map (fun c => [0, 1, 2, 3].map (fun p => (c, p)))).flatten.findSome? (fun x =>
        let room := s.room w.ctx 0 x.1
        if !room.open_ ∨ room.waves.getD x.2 0 = 0 ∨ room.regs.getD x.2 0 < h.effective h.regs then none
        else
          let s := s.moveCore (fun _ => false) (fun y => y.id == w.id) w.core x.1
          some ((s.updWave w.id (fun w => { w with resident := true, partition := x.2, seat := s.freeSeat x.1 x.2 })).acquire x.1)))

/-- The candidates in order: the first that can be placed is, a reserving one in part through shadow banks; the first that cannot
reserves. -/
def State.placeNext (s : State) : Bool → List Gang → State
  | reserved, [] =>
    let s := if reserved then s else { s with reserve := none }
    (s.restoreTask).getD s
  | reserved, g :: gs =>
    match s.demands g with
    | none => if g.pass.isSome || g.taskGang || g.st == .saved then s.placeNext reserved gs else s.dropGang g
    | some ds =>
      match s.placeFor g ds with
      | some xs =>
        let s := if s.reserve.any (fun r => r.gang == g.id) then { s with reserve := none } else s
        if g.st == .saved then s.restoreGang g xs else s.placeGang g ds xs
      | none =>
        match s.shadowFor g ds with
        | some xs =>
          let s := { s with reserve := none }
          if g.st == .saved then s.restoreGang g xs else s.placeGang g ds xs
        | none =>
        if !s.placeable ds then
          if g.pass.isSome || g.taskGang || g.st == .saved then s.placeNext reserved gs else s.dropGang g
        else if reserved then s.placeNext true gs
        else (s.reserveFor g ds).placeNext true gs

/-- DISPATCHER_STEP: what is empty is freed, gangs are released, and one gang is placed (log 1). -/
def execDispatcherStep (s : State) : Host.Outcome State Fault Refusal :=
  let s := s.freeCores.release
  let gs := s.candidates
  let s := { s with reserve := s.reserve.bind (fun (r : Reserve) => if gs.any (fun g => g.id == r.gang) then some r else none) }
  .next (s.placeNext false gs)

end Sys2Proof.Machine
end

