-- ==== Sys2Proof/Machine/Swap.lean ====
section
/-! DEFINITION. Pre-emption by shadow-bank swap (R49, R83, R109 to R115, R132, R175, R321 to R323): which gangs leave, the
swap of a core, the spill of what it held, and the retry of a restoration. -/

namespace Sys2Proof.Machine

/-! ## The order to leave (R49, R68, R83, R109) -/

/-- Is the gang outside every region, or back at the open of one it was forced out of (R49)? -/
def Gang.betweenRegions (g : Gang) : Bool := g.region.st == 0 || g.region.st == 1 || (g.region.st == 6 && g.region.forced)

/-- Does a reserving gang of a higher class than a context's wait for a core (R103, R109)? -/
def State.wanted (s : State) (ctx core : Nat) : Bool :=
  match s.reserve with
  | none => false
  | some r =>
    r.cores.contains core &&
    (match (s.gang? r.gang).bind (fun g => s.ctx? g.ctx), s.ctx? ctx with
      | some a, some b => decide (a.cls < b.cls)
      | _, _ => false)

/-- Is the reserving gang of class P0 (R109)? -/
def State.urgent (s : State) : Bool :=
  s.reserve.any (fun r => ((s.gang? r.gang).bind (fun g => s.ctx? g.ctx)).any (fun c => c.cls == 0))

/-- The save-pool pages below which no gang is pre-empted for a higher class (R115): 256 MiB. -/
def saveReserve : Nat := 2048

/-- Why a gang must leave: its context is held back, the Farrier holds one of its cores, a debugger attached to its context
orders it (the spec gives no order's code for that: the event is the order; DESIGN CHOICE, log 110), or a higher class needs its
cores, P0 at once. -/
def State.mustLeave (s : State) (g : Gang) : Bool :=
  ((s.ctx? g.ctx).any s.barred && g.betweenRegions) ||
  g.heldCores.any (fun c => (s.dev.rmap.coreEnt (s.coreFor c)).st == 3) ||
  g.heldCores.any (fun c => decide (bankBase ≤ c) && decide (s.coreFor c < bankBase) && !s.enabled (s.coreFor c)) ||
  (s.ctx? g.ctx).any (fun c => c.debugger.isSome) ||
  ((s.urgent || (decide (g.placedAt + 2000000 ≤ s.time) && decide (saveReserve ≤ s.pool.saveFree))) && g.heldCores.any (s.wanted g.ctx))

/-- Gangs that share a core with some of a list, those that share one with them, and so on. -/
def State.closure (s : State) : Nat → List Nat → List Nat
  | 0, ids => ids
  | n + 1, ids =>
    let cores := ((s.gangs.filter (fun g => ids.contains g.id)).map (fun g => g.heldCores)).flatten
    s.closure n ((s.gangs.filter (fun g => g.st == .placed && g.heldCores.any (fun c => cores.contains c))).foldl
      (fun ids g => addSet g.id ids) ids)

/-- A gang that has left its last core is saved; a pass ends there (R175). -/
def State.settleSaved (s : State) (gang : Nat) : State :=
  match s.gang? gang with
  | none => s
  | some g =>
    if g.st != .leaving || g.heldCores.any (fun c => decide (c < bankBase)) then s
    else match g.pass with
      | some p => s.endPass p
      | none => s.updGang gang (fun g => { g with st := .saved, pendingAt := s.time })

/-- Shadow banks whose incoming gangs are all ordered off spill them instead. -/
def State.turnBack (s : State) : State :=
  { s with cores := s.cores.map (fun (c : Core) => match c.shadow with
      | .incoming ctx b => if s.gangs.any (fun g => g.st == .placed && g.heldCores.contains b) then c
          else { c with shadow := .spilling ctx b }
      | _ => c) }

/-- What a context owes at most. -/
def Ctx.highestOwed (c : Ctx) : Nat := c.owed.foldl (fun n o => Nat.max n o.version) 0

/-- PREEMPTION: the gang, and every gang with a group on a core that is swapped with it, is ordered off. Those of an overdue
context wait, once off, for system software to acknowledge what it owes (R50). -/
def execPreemption (gang : Nat) (s : State) : Host.Outcome State Fault Refusal :=
  .next (match s.gang? gang with
    | none => s
    | some g =>
      if g.st != .placed || g.doom.any (fun d => d.kill) || !s.mustLeave g then s
      else
        let ids := s.closure s.gangs.length [gang]
        let s := { s with gangs := s.gangs.map (fun (x : Gang) => if ids.contains x.id then { x with st := .leaving } else x) }
        let s := ids.foldl (fun (s : State) i => s.settleSaved i) s.turnBack
        let late := ((s.ctx? g.ctx).filter (fun c => c.overdue)).map (fun c => c.highestOwed)
        let s := { s with gangs := s.gangs.map (fun (x : Gang) => if ids.contains x.id ∧ late.isSome then { x with stale := late } else x) }
        if (s.ctx? g.ctx).any (fun c => c.overdue) then
          g.heldCores.foldl (fun (s : State) c => s.trace g.ctx c 10 0 0 0) s
        else s)

/-! ## The swap of a core (R110 to R112, R132) -/

/-- Is the core's shadow bank ready for a swap (R113): empty, or holding the incoming context of a core that is enabled? -/
def State.shadowReady (s : State) (core : Nat) : Bool :=
  match (s.coreAt core).shadow with
  | .empty => true
  | .incoming _ _ => s.enabled core
  | .spilling _ _ | .waiting _ _ _ => false

/-- May the core swap now: its partitions are thawed (R322), its commit drain has ended (R111), its shadow bank is ready (R113),
and all it holds is ordered off? -/
def State.swapDue (s : State) (core ctx : Nat) : Bool :=
  let c := s.coreAt core
  let gs := s.residents core
  c.frozen.isEmpty && s.shadowReady core &&
  gs.all (fun g => g.st == .leaving && (g.region.st != 5 || g.region.drained.contains core)) &&
  (!gs.isEmpty || c.shadow != .empty || (s.ctx? ctx).any s.barred || (s.dev.rmap.coreEnt core).st == 3 || s.wanted ctx core)

/-- A record that leaves a core's storage: to the ring, or behind those that found it full. -/
def State.strand (s : State) (cx : Ctx) (r : Rec) : State :=
  if !s.ringFull cx && (s.ctx? cx.id).all (fun c => c.stranded.isEmpty) then s.ringPush cx r
  else s.updCtx cx.id (fun c => { c with stranded := c.stranded ++ [r] })

/-- The records a core holds, oldest first: those of the open keys, which were taken from the FIFO before what it still holds, key by
key, and then the FIFO's. Among open keys the spec gives no order (DESIGN CHOICE, log 112). -/
def Core.records (c : Core) : List Rec := (c.keys.map (fun k => k.recs)).flatten ++ c.fifo

/-- The context's unit state of a core is in a bank; what was restored from an older bank and has not come back follows it. -/
def State.bankUnits (s : State) (ctx core bank : Nat) : State :=
  let s := s.updCtxCore ctx core (fun c => c)
  let old := ((s.ctxCore? ctx core).bind (fun c => c.was)).getD bank
  let s := { s with ctxCores := s.ctxCores.map (fun (c : CtxCore) =>
    if c.ctx = ctx ∧ c.core = core then
      { c with core := bank, was := none, rotation := (s.coreAt core).rotation, current := (s.coreAt core).current } else c) }
  s.moveCore (fun g => g.ctx == ctx) (fun w => w.ctx == ctx) old bank

/-- SHADOW_BANK_SWAP: the core's context leaves its active bank, and the one that its shadow bank holds comes in. -/
def execShadowBankSwap (core : Nat) (s : State) : Host.Outcome State Fault Refusal :=
  .next (match (s.coreAt core).ctx with
    | none => s
    | some ctx =>
      match s.ctx? ctx with
      | none => s
      | some cx =>
        if !s.swapDue core ctx then s
        else
          let ids := (s.residents core).map (fun g => g.id)
          let (n, s) := s.fresh
          let bank := bankBase + n
          let recs := (s.coreAt core).records
          let tasks := (s.waves.filter (fun w => w.gang.isNone && w.core == core && w.resident && !w.ended)).map (fun w => w.id)
          let s := (s.moveCore (fun g => ids.contains g.id) (fun w => tasks.contains w.id) core bank).bankUnits ctx core bank
          let s := tasks.foldl (fun (s : State) t => s.updWave t (fun w => { w with resident := false })) s
          let s := recs.foldl (fun (s : State) r => s.strand cx r) s
          let arriving := (s.coreAt core).shadow
          let s := s.updCore core (fun c =>
            { c with ctx := none, shadow := .spilling ctx bank, fifo := [], keys := [], rotation := [], current := [] })
          let s := ids.foldl (fun (s : State) g => s.settleSaved g) (s.trace ctx core 4 0 0 0)
          match arriving with
          | .incoming next b => s.swapIn next core b
          | _ => s)

/-! ## The spill (R114, R115) -/

/-- The save pages a core's part of a gang takes: its register banks and its scratchpad and FIFO banks (the model's own
count). A task wave that leaves with its core takes none (DESIGN CHOICE, log 109). -/
def Place.savePages (p : Place) : Nat := 8 + ceilDiv (p.spBanks.length + p.fifoBanks.length) 2

/-- The gangs with state in a bank, and the pages it takes. -/
def State.inBank (s : State) (bank : Nat) : List (Nat × Nat) :=
  (s.gangs.map (fun g => ((g.groups.filter (fun r => !r.ended)).map (fun r =>
    (r.places.filter (fun p => p.core == bank)).map (fun p => (g.id, p.savePages)))).flatten)).flatten

/-- Pages for a gang's state: from the save pool, else from the free pool. -/
def State.savePagesFor (s : State) (gang : Nat) : Nat → Option State
  | 0 => some s
  | n + 1 =>
    if 0 < s.pool.saveFree then
      State.savePagesFor ({ s with pool := { s.pool with saveFree := s.pool.saveFree - 1 } }.updGang gang
        (fun g => { g with savePages := g.savePages + 1 })) gang n
    else match s.grabPage with
      | some (p, s) => (s.updGang gang (fun g => { g with spill := g.spill ++ [p] })).savePagesFor gang n
      | none => none

def State.saveAll (s : State) : List (Nat × Nat) → Option State
  | [] => some s
  | x :: t => (s.savePagesFor x.1 x.2).bind (fun s => s.saveAll t)

/-- The bank a core spills. -/
def Shadow.spills : Shadow → Option (Nat × Nat)
  | .empty | .incoming _ _ => none
  | .spilling ctx bank => some (ctx, bank)
  | .waiting ctx bank _ => some (ctx, bank)

/-- SPILL_COMPLETE: the outgoing state has its pages, and the dirty lines are home. -/
def execSpillComplete (core : Nat) (s : State) : Host.Outcome State Fault Refusal :=
  .next (match (s.coreAt core).shadow.spills with
    | none => s
    | some (_, bank) => match s.saveAll (s.inBank bank) with
      | none => s
      | some s => (s.writeBackL1 core).updCore core (fun c => { c with shadow := .empty }))

/-- SAVE_SPACE_EXHAUSTED: no page is left, nor one to be cleared; event 11 now and every 100 ms. -/
def execSaveSpaceExhausted (core : Nat) (s : State) : Host.Outcome State Fault Refusal :=
  .next (
    let tell (ctx bank : Nat) : State :=
      (s.event ctx 11 0 (s.gangIndex ((s.inBank bank).head?.map (fun x => x.1))) 0).updCore core
        (fun c => { c with shadow := .waiting ctx bank s.time })
    match (s.coreAt core).shadow with
    | .empty | .incoming _ _ => s
    | .spilling ctx bank => if (s.saveAll (s.inBank bank)).isNone && s.pool.clearing.isEmpty then tell ctx bank else s
    | .waiting ctx bank last =>
      if decide (last + 100000000 ≤ s.time) && (s.saveAll (s.inBank bank)).isNone then tell ctx bank else s)

/-! ## The retry of a restoration (R323) -/

/-- RESTORE_PLACEMENT: the gang is restored when no earlier one can be placed; when no die offers it a set, event 8. -/
def execRestorePlacement (gang : Nat) (s : State) : Host.Outcome State Fault Refusal :=
  .next (match s.gang? gang with
    | none => s
    | some g =>
      if g.st != .saved || !s.candidate g then s
      else match s.demands g with
        | none => s
        | some ds =>
          let s0 := s.freeCores
          let cannot (x : Gang) : Bool := (s0.demands x).all (fun d => (s0.placeFor x d).isNone)
          match s0.placeFor g ds with
          | some xs =>
            if (s0.candidates.takeWhile (fun x => x.id != gang)).all cannot then
              { s0 with reserve := s0.reserve.bind (fun (r : Reserve) => if r.gang = gang then none else some r) }.restoreGang g xs
            else s
          | none =>
            if s.placeable ds then s
            else (s.event g.ctx 8 0 g.index 0).updGang gang (fun g => { g with tried := some s.dev.rmap.version }))

end Sys2Proof.Machine
end

