-- ==== Sys2Proof/Machine/Contexts.lean ====
section
/-! DEFINITION. Commands over contexts: their creation, end and policies, launches, halts and acknowledgements, windows and
geometry (R49, R50, R68, R69, R71 to R74, R77, R82, R143, R179). -/

namespace Sys2Proof.Machine

/-! ## CTX_CREATE and CTX_POLICY (R69, R72 to R74) -/

/-- The policies that PFLAGS, RCEIL and GRACE give. -/
def policyOf (flags rceil grace : Nat) : Policy :=
  { roundRobin := bitOf flags 0, tolerant := bitOf flags 1, flush := bitOf flags 2, deviceLaunch := bitOf flags 3,
    relaunchCeil := rceil, grace := grace }

def zeros (b : List Byte) (lo n : Nat) : Bool := (slice 0 b lo n).all (· == 0)

/-- What a CTX_CREATE body fails on: 0x04, then 0x05, then 0x06 (log 33). -/
def State.createFails (s : State) (ctx : Nat) (b : List Byte) : Option Nat :=
  let cls := numAt b 0 1
  let flags := numAt b 1 1
  let grace := numAt b 4 2
  let tenant := numAt b 6 2
  let area := numAt b 8 8
  let pages := numAt b 0x10 4
  let salt := slice 0 b 0x20 32
  if decide (cls > 3) || decide (flags ≥ 16) || !zeros b 3 1 || !zeros b 0x14 12 || area % pageBytes != 0 ||
      decide (area ≥ 2 ^ 56) || tenant == 0 || s.ctxs.any (fun c => c.tenant == tenant && c.salt != salt) then some 4
  else if decide (numAt b 2 1 > 15) || grace == 0 || decide (grace > 100) || pages == 0 || decide (pages > 4096) ||
      (s.ctx? ctx).isSome then some 5
  else if cls == 0 || (bitOf flags 1 && cls != 3) then some 6
  else none

def execCtxCreate (m : Msg) (s : State) : Host.Outcome State Fault Refusal :=
  s.command 0x01 true m (m.len == 64) (fun t =>
    match t.createFails m.ctx m.body with
    | some status => t.answer m status
    | none =>
      match t.takePage with
      | none => t.answer m 5
      | some (page, u) =>
        let root := page * pageBytes
        let cx : Ctx :=
          { id := m.ctx, cls := numAt m.body 0 1, tenant := numAt m.body 6 2, salt := slice 0 m.body 0x20 32
            policy := policyOf (numAt m.body 1 1) (numAt m.body 2 1) (numAt m.body 4 2)
            taskArea := numAt m.body 8 8, taskPages := numAt m.body 0x10 4, root := root }
        let u := u.zeroAt root pageBytes
        { u with ctxs := u.ctxs ++ [cx] }.complete m.ctx m.tag 0 0 root)

/-- CTX_POLICY: the values that SELECT chooses. -/
def execCtxPolicy (m : Msg) (s : State) : Host.Outcome State Fault Refusal :=
  s.command 0x03 false m (m.len == 8) (fun t => match t.ctx? m.ctx with
    | none => t
    | some cx =>
      let sel := numAt m.body 0 1
      let flags := numAt m.body 1 1
      let rceil := numAt m.body 2 1
      let grace := numAt m.body 4 2
      let stray (i j : Nat) : Bool := bitOf flags i && !bitOf sel j
      if sel == 0 || decide (sel ≥ 64) || decide (flags ≥ 16) || stray 0 0 || stray 1 1 || stray 2 4 || stray 3 5 ||
          (!bitOf sel 2 && rceil != 0) || (!bitOf sel 3 && grace != 0) || !zeros m.body 3 1 || !zeros m.body 6 2 then
        t.answer m 4
      else if decide (rceil > 15) || (bitOf sel 3 && (grace == 0 || decide (grace > 100))) then t.answer m 5
      else if bitOf flags 1 && cx.cls != 3 then t.answer m 6
      else (t.updCtx m.ctx (fun c => { c with policy :=
        { roundRobin := if bitOf sel 0 then bitOf flags 0 else c.policy.roundRobin
          tolerant := if bitOf sel 1 then bitOf flags 1 else c.policy.tolerant
          flush := if bitOf sel 4 then bitOf flags 2 else c.policy.flush
          deviceLaunch := if bitOf sel 5 then bitOf flags 3 else c.policy.deviceLaunch
          relaunchCeil := if bitOf sel 2 then rceil else c.policy.relaunchCeil
          grace := if bitOf sel 3 then grace else c.policy.grace } })).answer m 0)

/-! ## CTX_DESTROY (R68) -/

/-- A gang of a destroyed context stops; the spec names neither source nor reason for its event. -/
def State.destroyGang (s : State) (g : Gang) : State :=
  if g.region.st = 5 ∨ (g.st = .dying ∧ g.doom.isSome) then s
  else
    let s := if g.st.live then
        let (cause, s) := s.freeWord
        let (why, s) := s.freeWord
        s.event g.ctx 5 (cause.toNat % 2 ^ 16) g.index (why.toNat % 2 ^ 8 + 2 ^ 12 * (g.relaunches % 16) + 2 ^ 16 * 0xFFFF)
      else s
    let s := if g.st.live then s.stopGang g else s
    s.updGang g.id (fun g => { g with st := if g.st == .pending || g.st == .done then .done else .dying, doom := none, region := {} })

/-- Every gang, task and pass of the context stops. -/
def State.destroyStop (s : State) (ctx : Nat) : State :=
  let s := (s.gangs.filter (fun g => g.ctx == ctx && g.pass.isNone)).foldl (fun (s : State) g => s.destroyGang g) s
  let s := (s.passes.filter (fun p => p.ctx == ctx)).foldl (fun (s : State) p => s.endPass p.id) s
  let tasks := s.waves.filter (fun w => w.ctx == ctx && w.gang.isNone)
  let s := tasks.foldl (fun (s : State) w => s.discardPending w.id 0xFFFFFFFF) s
  let s := { s with
    waves := s.waves.filter (fun w => !(w.ctx == ctx && w.gang.isNone))
    spawns := s.spawns.filter (fun x => x.ctx != ctx)
    cores := s.cores.map (fun (c : Core) => if c.ctx = some ctx then { c with fifo := [], keys := [] } else c) }
  s.updCtx ctx (fun c => { c with halted := true, stranded := [], released := [], parked := [], starved := none })

/-- Its launches end: DONE is written and a completion goes out for each (log 34). -/
def State.destroyLaunch (s : State) (cx : Ctx) (l : Launch) : State :=
  let s := s.writeDone l 9
  let (w, s) := s.freeWord
  (l.detPages.foldl (fun (s : State) p => s.freePage p) s).complete cx.id l.tag 9 (w.toNat % 2 ^ 16) l.relaunched

/-- What held the context goes: its pages and nodes, its state on the cores, its scenes. -/
def State.destroyRest (s : State) (cx : Ctx) : State :=
  let pages := s.pagesOf cx
  let nodes := (s.nodes3 cx.root ++ s.nodes2 cx.root).map (fun n => n.2 / pageBytes) ++ [cx.root / pageBytes]
  let s := pages.foldl (fun (s : State) p => s.unwatch none p) s
  let s := { s with
    ctxs := s.ctxs.filter (fun c => c.id != cx.id)
    launches := s.launches.filter (fun l => l.ctx != cx.id)
    gangs := s.gangs.filter (fun g => g.ctx != cx.id)
    waves := s.waves.filter (fun w => w.ctx != cx.id)
    ctxCores := s.ctxCores.filter (fun c => c.ctx != cx.id)
    scenes := s.scenes.filter (fun c => c.ctx != cx.id)
    oldScenes := s.oldScenes.filter (fun c => c.ctx != cx.id)
    cols := s.cols.filter (fun c => c.ctx != cx.id)
    cores := s.cores.map (fun (c : Core) => if c.ctx = some cx.id then { c with ctx := none, rotation := [], current := [] } else c)
    reserve := s.reserve.bind (fun (r : Reserve) => if s.gangs.any (fun g => g.id == r.gang && g.ctx == cx.id) then none else some r) }
  let s := if s.ctxs.any (fun c => c.tenant == cx.tenant) then s
    else s.invalidateReuse none (fun r => r.tenant == cx.tenant)
  nodes.foldl (fun (s : State) p => s.freePage p) (s.freeUnmapped pages)

/-- CTX_DESTROY waits for a checkpoint that names the context, for commits under way and for what its gangs still have in
flight (R296, R303). -/
def execCtxDestroy (m : Msg) (s : State) : Host.Outcome State Fault Refusal :=
  s.command 0x02 false m (m.len == 0) (fun t => match t.ctx? m.ctx with
    | none => t
    | some cx =>
      if (s.dev.ckpt).any (fun o => o.mask.getLsbD cx.id) then s.putBack (.ctxDestroy m)
      else
        let quiet (s : State) : Bool := !s.ops.any (fun o => o.ctx == cx.id) && !s.gangs.any (fun g => g.ctx == cx.id && (g.region.st == 5 || (g.st == .dying && g.doom.isSome)))
        if quiet (t.destroyStop cx.id) then
          let t := t.destroyStop cx.id
          let t := (t.gangs.filter (fun g => g.ctx == cx.id && g.st == .dying)).foldl (fun (t : State) g => t.killedExits g) t
          let t := (t.launches.filter (fun l => l.ctx == cx.id)).foldl (fun (t : State) l => t.destroyLaunch cx l) t
          (t.destroyRest cx).answer m 0
        else (s.destroyStop cx.id).putBack (.ctxDestroy m))

/-! ## LAUNCH (R77, R78) -/

/-- A launch that fails its checks answers at once; one that is queued answers when it completes. -/
def execLaunch (m : Msg) (s : State) : Host.Outcome State Fault Refusal :=
  s.command 0x06 false m (m.len == 128) (fun t =>
    let ((status, detail), u) := t.acceptLaunch m.ctx m.body m.tag false
    if status = 0 then u else u.complete m.ctx m.tag status detail 0)

/-! ## CTX_HALT, CTX_RESUME, MAP_ACK (R47, R50, R68) -/

def execCtxHalt (m : Msg) (s : State) : Host.Outcome State Fault Refusal :=
  s.command 0x07 false m (m.len == 0) (fun t => ((t.haltContext m.ctx).event m.ctx 2 0 noGang 0).answer m 0)

/-- The context may run again, and its suspended gangs are retried (R323). -/
def execCtxResume (m : Msg) (s : State) : Host.Outcome State Fault Refusal :=
  s.command 0x08 false m (m.len == 0) (fun t =>
    let u := t.updCtx m.ctx (fun c => { c with halted := false, restored := false })
    let u := { u with
      waves := u.waves.map (fun (w : Wave) => if w.ctx == m.ctx && w.hold == Hold.halted then { w with hold := .none } else w)
      gangs := u.gangs.map (fun (g : Gang) => if g.ctx = m.ctx then { g with tried := none } else g) }
    u.unforce.answer m 0)

/-- System software acknowledges versions up to V for gangs suspended over them (R50). -/
def State.releaseStale (s : State) (ctx v : Nat) : State :=
  { s with gangs := s.gangs.map (fun (g : Gang) =>
      if g.ctx = ctx ∧ g.stale.any (fun n => decide (n ≤ v)) then { g with stale := none } else g) }

def execMapAck (m : Msg) (s : State) : Host.Outcome State Fault Refusal :=
  s.command 0x09 false m (m.len == 8) (fun t =>
    let v := Nat.min (numAt m.body 0 8) t.dev.rmap.version
    ((t.ackMap m.ctx v).releaseStale m.ctx v).complete m.ctx m.tag 0 0 v)

/-! ## CK_WINDOW (R71, R82) -/

/-- The delta area: its offset in the tier and its length. -/
def deltaBase : Nat := 1537 * 2 ^ 30
def deltaBytes : Nat := 511 * 2 ^ 30

/-- Do two ranges meet? -/
def meets (a n b m : Nat) : Bool := decide (a < b + m) && decide (b < a + n)

def CopyEnd.isCk : CopyEnd → Bool
  | .ck _ => true
  | .g _ | .sp _ _ _ => false

def Op.ckCopy (o : Op) : Bool :=
  match o.body with
  | .copy src dst _ _ _ _ => src.isCk || dst.isCk
  | _ => false

def execCkWindow (m : Msg) (s : State) : Host.Outcome State Fault Refusal :=
  s.command 0x0C false m (m.len == 16) (fun t =>
    let off := numAt m.body 0 8
    let size := numAt m.body 8 8
    if off % pageBytes != 0 || size % pageBytes != 0 then t.answer m 4
    else if size != 0 && (decide (off < deltaBase) || decide (off + size > deltaBase + deltaBytes) ||
        t.dev.images.any (fun i => meets off size i.extent.1 i.extent.2)) then t.answer m 5
    else if t.ops.any (fun o => o.ctx == m.ctx && o.ckCopy) then t.answer m 6
    else (t.updCtx m.ctx (fun c => { c with window := if size = 0 then none else some (off, size) })).answer m 0)

/-! ## GEOM_IN (R179) -/

def execGeomIn (m : Msg) (s : State) : Host.Outcome State Fault Refusal :=
  s.command 0x13 false m (decide (m.len ≥ 24) && m.len % 8 == 0) (fun t => match t.ctx? m.ctx with
    | none => t
    | some cx =>
      let va := numAt m.body 0 8
      let flags := numAt m.body 0x14 4
      let data := m.body.drop 24
      let pages := if data.isEmpty then [] else (List.range ((va + data.length + pageBytes - 1) / pageBytes - va / pageBytes)).map (fun i => (va / pageBytes + i) * pageBytes)
      if decide (flags ≥ 2) then t.answer m 4
      else if !pages.all (fun p => (t.localPa cx .load p).isSome) then t.answer m 5
      else
        let t := if data.isEmpty then t else t.writeVa cx va (data.map (fun b => (b, false)))
        (if flags = 1 then t.recheckTreelet cx (numAt m.body 8 8) (numAt m.body 0x10 4) else t).answer m 0)

end Sys2Proof.Machine
end

