-- ==== Sys2Proof/Machine/Ckpt.lean ====
section
/-! DEFINITION. Checkpoint and restore (R82 to R86): orders, their quiescence, images and their chains, and the rebuilding
of contexts. An image is held as what it says; the model gives its pages no layout in the tier (log 37). -/

namespace Sys2Proof.Machine

/-! ## Images and chains (R84, R85) -/

def Device.image? (d : Device) (seq : Nat) : Option Image := d.images.find? (fun i => i.seq == seq)

/-- The magic of a descriptor. -/
def imageMagic : Nat := 0x5358434B

/-- The bytes of an image's pages, in the order written. -/
def heldBytes (ps : List ImgPage) : List Byte :=
  ((ps.filter (fun p => p.held)).map (fun p => readBytes p.cells 0 pageBytes)).flatten

/-- Does the digest of the descriptor match the pages? -/
def Image.digestOk (i : Image) : Bool :=
  i.count == (i.pages.filter (fun p => p.held)).length && i.digest == sha512 (heldBytes i.pages)

/-- The chain of an image, from the full image up; or the sequence that fails (R85). -/
def Device.chain (d : Device) : Nat → Nat → Except Nat (List Image)
  | 0, seq => .error seq
  | fuel + 1, seq =>
    match d.image? seq with
    | none => .error seq
    | some i =>
      let good := i.complete && i.magic == imageMagic && i.digestOk
      if i.kind = 0 then (if good then .ok [i] else .error seq)
      else match d.chain fuel i.base with
        | .error e => .error e
        | .ok c => if good then .ok (c ++ [i]) else .error seq

def Device.chainOf (d : Device) (seq : Nat) : Except Nat (List Image) := d.chain (d.images.length + 1) seq

def Device.valid (d : Device) (i : Image) : Bool :=
  match d.chainOf i.seq with
  | .ok _ => true
  | .error _ => false

/-- The newest of some images. -/
def newest (is : List Image) : Option Image :=
  is.foldl (fun (best : Option Image) i => match best with
    | none => some i
    | some b => if b.seq < i.seq then some i else some b) none

/-- The newest valid image of a context set: what an incremental image extends. -/
def Device.baseFor (d : Device) (mask : BitVec 64) : Option Image :=
  newest (d.images.filter (fun i => i.mask == mask && d.valid i))

/-- The slot a full image takes: that of the area that does not hold the newest valid full image. -/
def Device.fullSlot (d : Device) : Nat :=
  match newest (d.images.filter (fun i => i.kind == 0 && d.valid i)) with
  | some i => if i.slot = 1 then 2 else 1
  | none => 1

/-- The lowest free slot from 3 to 17. -/
def Device.deltaSlot (d : Device) : Option Nat :=
  ((List.range 15).map (fun k => k + 3)).find? (fun k => !d.images.any (fun i => i.slot == k))

/-- The lowest run of the delta area outside every image's extent and every window. -/
def deltaRun (taken : List (Nat × Nat)) (len : Nat) : Nat → Nat → Option Nat
  | 0, _ => none
  | fuel + 1, at_ =>
    if at_ + len > deltaBase + deltaBytes then none
    else match taken.find? (fun t => meets at_ len t.1 t.2) with
      | some t => deltaRun taken len fuel (roundUp (t.1 + t.2) pageBytes)
      | none => some at_

def State.deltaSpace (s : State) (len : Nat) : Option Nat :=
  let taken := (s.dev.images.filter (fun i => i.kind == 1)).map (fun i => i.extent) ++ s.ctxs.filterMap (fun c => c.window)
  deltaRun taken len (taken.length + 1) deltaBase

/-! ## The order (R71, R83) -/

def ctxNumbers : List Nat := List.range 64

/-- What a CKPT body fails on. -/
def State.ckptFails (s : State) (b : List Byte) : Option Nat :=
  let mask := BitVec.ofNat 64 (numAt b 0 8)
  let kind := numAt b 8 1
  let limit := numAt b 12 4
  if mask == 0 || decide (kind > 1) || !zeros b 9 3 then some 4
  else if ctxNumbers.any (fun c => mask.getLsbD c && (s.ctx? c).isNone) then some 2
  else if limit == 0 || decide (limit > 60000) then some 5
  else if kind == 1 && ((s.dev.baseFor mask).isNone || s.dev.deltaSlot.isNone) then some 7
  else none

/-- CKPT: one order at a time. -/
def execCkpt (m : Msg) (s : State) : Host.Outcome State Fault Refusal :=
  s.command 0x0A true m (m.len == 16) (fun t =>
    match t.ckptFails m.body with
    | some status => t.answer m status
    | none =>
      if t.dev.ckpt.isSome then s.putBack (.ckpt m)
      else
        let o : CkptOrder :=
          { mask := BitVec.ofNat 64 (numAt m.body 0 8), kind := numAt m.body 8 1, limit := numAt m.body 12 4
            startedAt := s.time, msgCtx := m.ctx, tag := m.tag }
        t.updDev (fun d => { d with ckpt := some o }))

def CkptOrder.names (o : CkptOrder) (ctx : Nat) : Bool := decide (ctx < 64) && o.mask.getLsbD ctx

/-- Is everything of the named contexts off the cores and at rest? -/
def State.quiesced (s : State) (o : CkptOrder) : Bool :=
  !s.gangs.any (fun g => o.names g.ctx && g.st.holds) && !s.passes.any (fun p => o.names p.ctx) &&
  !s.ops.any (fun p => o.names p.ctx) && !s.spawns.any (fun x => o.names x.ctx) &&
  !s.cores.any (fun c => c.ctx.any o.names || (match c.shadow.spills with
    | some (ctx, _) => o.names ctx
    | none => false))

/-- The order ends: its contexts may run again. -/
def State.endCkpt (s : State) : State := (s.updDev (fun d => { d with ckpt := none })).unforce

/-- CKPT_QUIESCE_TIMEOUT: gangs still inside replayable regions are forced out; one that cannot be replayed ends the order. -/
def execCkptQuiesceTimeout (s : State) : Host.Outcome State Fault Refusal :=
  .next (match s.dev.ckpt with
    | none => s
    | some o =>
      let inside (g : Gang) : Bool := o.names g.ctx && (g.st == .placed || g.st == .leaving) && g.region.inside
      if s.time < o.startedAt + o.limit * 1000000 then s
      else if s.gangs.any (fun g => inside g && !g.region.replayable) then (s.complete o.msgCtx o.tag 0x0A 0 0).endCkpt
      else { s with gangs := s.gangs.map (fun (g : Gang) =>
        if inside g then { g with region := { g.region with forced := true } } else g) })

/-! ## The image (R83 to R85) -/

/-- Poisoned units of a page, counted from its start. -/
def State.pageMarks (s : State) (page : Nat) : List Nat :=
  (List.range (pageBytes / 64)).filter (fun u => s.unitBad (page * pageBytes + 64 * u))

/-- A page's contents, when it has them. -/
def pageUnits (s : State) (page : Nat) : List Nat :=
  if s.stackLost (stackOf page) then s.pageMarks page
  else (s.poison.filter (fun u => u * 64 / pageBytes == page)).map (fun u => u - page * (pageBytes / 64))

/-- Pages the images of a chain hold. -/
def heldIn (c : List Image) (page : Nat) : Bool := c.any (fun i => i.pages.any (fun p => p.page == page && p.held))

/-- Was a page written since an image was taken? -/
def State.dirtySince (s : State) (seq page : Nat) : Bool := (lookupBy page s.dirty).any (fun n => decide (seq < n))

/-- The mappings of the contexts, each page held where it is to be written and no earlier mapping holds it. -/
def State.imagePages (s : State) (write : Nat → Bool) : List (Nat × Nat × Nat) → List Nat → List ImgPage
  | [], _ => []
  | (ctx, va, e) :: t, seen =>
    match leafPage? va e with
    | none => { ctx := ctx, va := va, entry := e, page := 0, held := false, cells := [], marks := [] } :: s.imagePages write t seen
    | some page =>
      if seen.contains page || !write page then
        { ctx := ctx, va := va, entry := e, page := page, held := false, cells := [], marks := [] } :: s.imagePages write t seen
      else
        { ctx := ctx, va := va, entry := e, page := page, held := true, cells := cutCells s.mem (page * pageBytes) pageBytes,
          marks := pageUnits s page } :: s.imagePages write t (page :: seen)

/-- The mappings of the named contexts: context, virtual address, entry. -/
def State.mappings (s : State) (o : CkptOrder) : List (Nat × Nat × Nat) :=
  ((s.ctxs.filter (fun c => o.names c.id)).map (fun c => (s.leaves c.root).map (fun l => (c.id, l.1, l.2)))).flatten

/-- Owned words of some pages go home, so that the home holds current values. -/
def State.homePages (s : State) (pages : List Nat) : State :=
  s.recall none ((s.directory.filter (fun d => pages.contains (d.1 * 4 / pageBytes))).foldl (fun ls d => addSet (d.1 / 32) ls) [])

/-- The image of the named contexts as they stand. -/
def State.imageNow (s : State) (o : CkptOrder) (base slot : Nat) (write : Nat → Bool) : Image :=
  let pages := s.imagePages write (s.mappings o) []
  { seq := s.dev.nextCkpt, kind := o.kind, base := base, mask := o.mask, version := s.dev.rmap.version, slot := slot
    magic := imageMagic, complete := true, count := (pages.filter (fun p => p.held)).length, digest := sha512 (heldBytes pages)
    extent := (0, 0)
    ctxs := s.ctxs.filter (fun c => o.names c.id), launches := s.launches.filter (fun l => o.names l.ctx)
    gangs := s.gangs.filter (fun g => o.names g.ctx), waves := s.waves.filter (fun w => o.names w.ctx)
    ctxCores := s.ctxCores.filter (fun c => o.names c.ctx), scenes := s.scenes.filter (fun c => o.names c.ctx)
    oldScenes := s.oldScenes.filter (fun c => o.names c.ctx), pages := pages }

/-- Bytes of an image in the tier: its pages, and one page for what else it holds (the model's own count). -/
def Image.bytes (i : Image) : Nat := ((i.pages.filter (fun p => p.held)).length + 1) * pageBytes

/-- The image is valid: its completion goes out and the contexts resume. -/
def State.keepImage (s : State) (o : CkptOrder) (keep : List Image) (i : Image) : State :=
  ((s.updDev (fun (d : Device) => { d with images := keep ++ [i], nextCkpt := d.nextCkpt + 1 })).complete o.msgCtx o.tag 0 0 i.seq).endCkpt

/-- CKPT_WRITE_DONE. A full image frees the slots that chain to the older one. -/
def execCkptWriteDone (s : State) : Host.Outcome State Fault Refusal :=
  .next (match s.dev.ckpt with
    | none => s
    | some o =>
      if !s.quiesced o then s
      else
        let s := s.homePages ((s.mappings o).filterMap (fun m => leafPage? m.2.1 m.2.2))
        if o.kind = 0 then
          let slot := s.dev.fullSlot
          let i := s.imageNow o 0 slot (fun _ => true)
          let i := { i with extent := (if slot = 1 then 2 ^ 30 else 769 * 2 ^ 30, i.bytes) }
          s.keepImage o (s.dev.images.filter (fun x => x.kind == 0 && x.slot != slot)) i
        else match s.dev.baseFor o.mask, s.dev.deltaSlot with
          | some b, some slot =>
            let chain := match s.dev.chainOf b.seq with
              | .ok c => c
              | .error _ => []
            let i := s.imageNow o b.seq slot (fun p => s.dirtySince b.seq p || !heldIn chain p)
            (match s.deltaSpace i.bytes with
              | some off => s.keepImage o s.dev.images { i with extent := (off, i.bytes) }
              | none => (s.complete o.msgCtx o.tag 7 0 0).endCkpt)
          | _, _ => (s.complete o.msgCtx o.tag 7 0 0).endCkpt)

/-! ## RESTORE (R86) -/

/-- The contents a chain holds of a page: those of its newest image that has it. -/
def chainPage (c : List Image) (page : Nat) : Option ImgPage :=
  (c.reverse.filterMap (fun i => i.pages.find? (fun p => p.page == page && p.held))).head?

/-- The runs of local pages an image maps, largest first: first page and SIZE code. -/
def Image.runs (i : Image) : List (Nat × Nat) :=
  let of (size : Nat) : List (Nat × Nat) := (i.pages.filter (fun p => !pteR p.entry && pteSize p.entry == size)).map
    (fun p => (ptePpn p.entry, size))
  of 2 ++ of 1 ++ of 0

/-- New pages for runs of old ones, those already in a run apart: old page and new. -/
def State.relocate (s : State) : List (Nat × Nat) → List (Nat × Nat) → Option (List (Nat × Nat) × State)
  | [], moved => some (moved, s)
  | (page, size) :: t, moved =>
    if moved.any (fun m => m.1 == page) then s.relocate t moved
    else match s.takeSized size with
      | none => none
      | some (new, s) => State.relocate s t (moved ++ (List.range (sizePages size)).map (fun i => (page + i, new + i)))

/-- n pages of the free pool. -/
def State.takePages (s : State) : Nat → Option (List Nat × State)
  | 0 => some ([], s)
  | n + 1 => match s.takePage with
    | none => none
    | some (p, s) => (s.takePages n).map (fun x => (p :: x.1, x.2))

/-- Where an old page is now. -/
def movedPage (moved : List (Nat × Nat)) (page : Nat) : Nat := (lookupBy page moved).getD page

def movedPa (moved : List (Nat × Nat)) (pa : Nat) : Nat := movedPage moved (pa / pageBytes) * pageBytes + pa % pageBytes

def Loc.moved (m : List (Nat × Nat)) : Loc → Loc
  | .home pa => .home (movedPa m pa)
  | .remote pkg pa => .remote pkg pa
  | .sp g p o => .sp g p o

def Region.moved (m : List (Nat × Nat)) (r : Region) : Region :=
  { r with
    lines := r.lines.map (fun (l : WLine) =>
      { l with line := movedPa m (l.line * 128) / 128, words := l.words.map (fun (w : Nat × PWord) => (movedPa m w.1, w.2)) })
    deferred := r.deferred.map (fun (d : Deferred) => { d with body := match d.body with
      | .atom op w sg loc b c => .atom op w sg (loc.moved m) b c
      | .store loc bytes marks => .store (loc.moved m) bytes marks
      | .spawn r => .spawn r }) }

/-- An entry for the page's new place. -/
def movedEntry (m : List (Nat × Nat)) (e : Nat) : Nat :=
  if pteR e then e else field e 48 16 * 2 ^ 48 + movedPage m (ptePpn e) * 2 ^ 13 + e % 2 ^ 13

/-- Page tables of a rebuilt context, and its root. -/
def State.rebuildTables (s : State) (m : List (Nat × Nat)) (ps : List ImgPage) : Option (Nat × State) :=
  match s.takePage with
  | none => none
  | some (page, s) =>
    let root := page * pageBytes
    (ps.foldl (fun (s : Option State) p => s.bind (fun s => s.putPte root p.va (movedEntry m p.entry))) (some (s.zeroAt root pageBytes))).map
      (fun s => (root, s))

/-- The contexts with their tables. -/
def State.rebuildCtxs (s : State) (m : List (Nat × Nat)) (i : Image) : List Ctx → Option State
  | [] => some s
  | c :: t =>
    match s.rebuildTables m (i.pages.filter (fun p => p.ctx == c.id)) with
    | none => none
    | some (root, s) =>
      let c := { c with
        root := root, nextSeq := 0, owed := [], overdue := false, halted := false, restored := true, window := none
        requests := [], queuedRequests := [], posted := [], debugger := none, parked := c.parked.map (fun (p : ParkSet) => { p with ops := [] }) }
      State.rebuildCtxs { s with ctxs := s.ctxs ++ [c] } m i t

/-- The pages' contents. -/
def State.rebuildPages (s : State) (m : List (Nat × Nat)) (chain : List Image) : State :=
  m.foldl (fun (s : State) x =>
    match chainPage chain x.1 with
    | none => s
    | some p =>
      let s := { s with
        mem := layCells (clearBytes s.mem (x.2 * pageBytes) pageBytes) (x.2 * pageBytes) p.cells
        poison := p.marks.foldl (fun bad u => addSet (x.2 * (pageBytes / 64) + u) bad) s.poison }
      s.touchPage none x.2) s

/-- Launches, with pages for their deterministic buffers. -/
def State.rebuildLaunches (s : State) (m : List (Nat × Nat)) : List Launch → Option State
  | [] => some s
  | l :: t =>
    match s.takePages l.detPages.length with
    | none => none
    | some (ps, s) =>
      let l := { l with
        recordPage := movedPage m l.recordPage, detPages := ps
        detOps := l.detOps.map (fun (d : DetOp) => { d with loc := d.loc.moved m }) }
      State.rebuildLaunches { s with launches := s.launches ++ [l] } m t

/-- Gangs, with save space for their state. -/
def State.rebuildGangs (s : State) (m : List (Nat × Nat)) : List Gang → Option State
  | [] => some s
  | g :: t =>
    let need := g.savePages + g.spill.length
    let g := { g with
      savePages := 0, spill := [], tried := none, pendingAt := s.time, placedAt := s.time, idleSince := none, region := g.region.moved m }
    match { s with gangs := s.gangs ++ [g] }.savePagesFor g.id need with
    | none => none
    | some s => s.rebuildGangs m t

/-- A wave as it was; what had parked tries again. -/
def Wave.rebuilt (w : Wave) : Wave :=
  let again (es : List Entry) : List Entry := (wake (fun _ => true) es).map (fun (e : Entry) => { e with firstPark := [] })
  { w with frontier := again w.frontier, heldEntries := again w.heldEntries }

def Scene.rebuilt (now : Nat) (c : Scene) : Scene :=
  { c with residentAt := c.residentAt.map (fun x => (x.1, now)), requested := [], idleSince := c.idleSince.map (fun _ => now) }

/-- May the contexts of an image be rebuilt beside those that live: their numbers, salts and launch handles free? -/
def State.roomFor (s : State) (i : Image) : Bool :=
  !i.ctxs.any (fun c => (s.ctx? c.id).isSome || s.ctxs.any (fun d => d.tenant == c.tenant && d.salt != c.salt)) &&
  !i.launches.any (fun l => s.launches.any (fun k => k.id % 65536 == l.id % 65536))

def State.rebuild (s : State) (chain : List Image) (i : Image) : Option State :=
  match s.relocate i.runs [] with
  | none => none
  | some (m, s) =>
    match ((s.rebuildCtxs m i i.ctxs).bind (fun s => s.rebuildLaunches m i.launches)).bind (fun s => s.rebuildGangs m i.gangs) with
    | none => none
    | some s =>
      let s := s.rebuildPages m chain
      some { s with
        waves := s.waves ++ i.waves.map Wave.rebuilt
        ctxCores := s.ctxCores ++ i.ctxCores
        scenes := s.scenes ++ i.scenes.map (Scene.rebuilt s.time)
        oldScenes := s.oldScenes ++ i.oldScenes.map (Scene.rebuilt s.time) }

def execRestore (m : Msg) (s : State) : Host.Outcome State Fault Refusal :=
  s.command 0x0B true m (m.len == 8) (fun t =>
    let seq := numAt m.body 0 8
    match t.dev.chainOf seq with
    | .error bad => t.complete m.ctx m.tag 7 (bad % 2 ^ 16) 0
    | .ok chain =>
      match chain.getLast? with
      | none => t.complete m.ctx m.tag 7 (seq % 2 ^ 16) 0
      | some i =>
        if !t.roomFor i then t.complete m.ctx m.tag 7 (seq % 2 ^ 16) 0
        else match t.rebuild chain i with
          | none => t.answer m 5
          | some u => u.complete m.ctx m.tag 0 0 i.mask.toNat)

end Sys2Proof.Machine
end

