-- ==== Sys2Proof/Machine/Host.lean ====
section
/-! DEFINITION. Device commands: attestation, the map's snapshot, power limit, relays, peers and durable copy, and firmware
(R33, R35, R36, R43, R65, R66, R71, R87 to R89). -/

namespace Sys2Proof.Machine

/-! ## ATTEST (R66, R88) -/

/-- SHA-512 of the running image: computed when a slot booted, else that of the image the part came with (log 3). -/
def Firmware.digest (f : Firmware) : List Byte :=
  if f.hash.isEmpty then (List.range 64).map (fun i => Config.fusedByte 1 i) else f.hash

/-- The report's bytes before its signature. -/
def State.reportBytes (s : State) (nonce : List Byte) : List Byte :=
  slice 0 nonce 0 32 ++ (List.range 32).map (fun i => Config.fusedByte 0 i) ++ slice 0 s.dev.fw.digest 0 64 ++
    toBytes 4 s.dev.fw.secVer ++ toBytes 4 (s.dev.fw.running.getD 0) ++ toBytes 8 s.dev.rmap.version ++
    (ctxNumbers.map (fun c => toBytes 2 ((s.ctx? c).elim 0 (fun c => c.tenant)))).flatten

def execAttest (m : Msg) (s : State) : Host.Outcome State Fault Refusal :=
  s.command 0x0D true m (m.len == 32) (fun t =>
    let r := t.reportBytes m.body
    let sig := (List.range 64).map (fun i => Config.signatureByte (sha512 r) i)
    (t.emit (.host 0x85 0xFF 0 0 (r ++ sig))).answer m 0)

/-! ## Commands over the map (R33, R36, R66, R71) -/

/-- A command that needs a published map (R36). -/
def State.withMap (s : State) (m : Msg) (k : State → State) : State := if s.dev.rmap.published then k s else s.answer m 6

/-- MAP_SNAP: eleven parts of one version, then the completion. -/
def execMapSnap (m : Msg) (s : State) : Host.Outcome State Fault Refusal :=
  s.command 0x0E true m (m.len == 0) (fun t => t.withMap m (fun t =>
    let map := t.dev.rmap
    let t := (List.range 11).foldl (fun (t : State) k =>
      let n := if k = 10 then 480 else 4048
      t.emit (.host 0x86 0xFF 0 0 (toBytes 8 map.version ++ toBytes 4 (4048 * k) ++ toBytes 4 n ++ map.part (4048 * k) n))) t
    t.complete m.ctx m.tag 0 0 map.version))

/-- The completion of a command whose VALUE is the new version. -/
def State.answerVersion (s : State) (m : Msg) : State := s.complete m.ctx m.tag 0 0 s.dev.rmap.version

def execPowerLimit (m : Msg) (s : State) : Host.Outcome State Fault Refusal :=
  s.command 0x0F true m (m.len == 8) (fun t =>
    let watts := numAt m.body 0 2
    if !zeros m.body 2 6 then t.answer m 4
    else if decide (watts < 1200) || decide (watts > 3200) then t.answer m 5
    else t.withMap m (fun t => (t.publish 0x02 0 (fun (p : RMap) => { p with limit := watts })).answerVersion m))

/-- The four accelerator IDs of a relay-table entry (R43). -/
def relayIds (b : List Byte) : List Nat := [0, 1, 2, 3].map (fun i => numAt b (8 + 2 * i) 2)

/-- Ports UP0 to UP23. -/
def portNumbers : List Nat := List.range 24

/-- RELAY_SET: the table's entry first, then the ports' flags. -/
def execRelaySet (m : Msg) (s : State) : Host.Outcome State Fault Refusal :=
  s.command 0x10 true m (m.len == 24) (fun t =>
    let pod := numAt m.body 0 1
    let ports := numAt m.body 4 4
    let ids := relayIds m.body
    let flags := numAt m.body 0x10 4
    if !zeros m.body 1 3 || decide (ports ≥ 2 ^ 24) || flags == 0 || decide (flags ≥ 4) || !zeros m.body 0x14 4 then t.answer m 4
    else if decide (pod > 15) || ids.any (fun i => decide (i ≥ 1024) && i != 0xFFFF) then t.answer m 5
    else t.withMap m (fun t =>
      let t := if bitOf flags 0 then t.publish 0x12 pod (fun (p : RMap) => { p with relay := setBy pod ids p.relay }) else t
      let t := if bitOf flags 1 then
          let first := (portNumbers.find? (fun n => (t.dev.rmap.portEnt n).relay != bitOf ports n)).getD 0xFFFF
          t.publish 0x12 first (fun (p : RMap) => { p with
            ports := portNumbers.foldl (fun (l : List (Nat × PortEnt)) n =>
              setBy n { p.portEnt n with relay := bitOf ports n, replayFails := (lookupBy n t.dev.replays).getD 0 % 2 ^ 16 } l) p.ports })
        else t
      t.answerVersion m))

def execPeerClear (m : Msg) (s : State) : Host.Outcome State Fault Refusal :=
  s.command 0x11 true m (m.len == 8) (fun t =>
    let pkg := numAt m.body 0 2
    if !zeros m.body 2 6 then t.answer m 4
    else match t.dev.rmap.peers.find? (fun p => p.2 == pkg) with
      | none => t.answer m 5
      | some p => t.withMap m (fun t =>
          (t.publish 0x14 p.1 (fun (r : RMap) => { r with peers := r.peers.filter (fun q => q.1 != p.1) })).answerVersion m))

/-! ## The survey (R36, R38 to R44) -/

/-- A clock the part can run at: 1,500 to 2,700 MHz in steps of 100. -/
def clockOk (mhz : Nat) : Bool := mhz % 100 == 0 && decide (1500 ≤ mhz) && decide (mhz ≤ 2700)

/-- A core's entry: what the construction gives, and the durable retirements. -/
def coreMade (v : Survey) (d : Durable) (i : Nat) : CoreEnt :=
  let made := if v.absent.contains i then 0 else if v.spareQuad.getD (dieOf i) 17 = quadOf i then 2 else 1
  match lookupBy i d.cores with
  | some e => { e with st := if e.st = 4 then 4 else made }
  | none => { st := made, lanes := List.replicate 8 15, banksOut := 0, regsOut := 0 }

def stackMade (v : Survey) (d : Durable) (i : Nat) : StackEnt :=
  let e := (lookupBy i d.stackEnts).getD {}
  { e with st := if v.stacksLost.contains i then 4 else e.st, failed := e.st = 3 }

/-- The map of the construction with the durable retirements. -/
def surveyMap (v : Survey) (d : Durable) : RMap :=
  { RMap.reset with
    published := false, version := 0, mhz := if clockOk v.mhz then v.mhz else 2700, spareQuad := slice 17 v.spareQuad 0 4
    cores := (List.range 272).map (fun i => (i, coreMade v d i)), slices := d.slices
    stackEnts := (List.range 12).map (fun i => (i, stackMade v d i))
    ports := portNumbers.map (fun i => (i, { up := v.portsUp.contains i })), lanes := v.lanes % 4, remaps := d.remaps }

/-- What a fresh survey finds: the construction, with the ports, lanes and clock as they are now. -/
def surveyNow (v : Survey) (m : RMap) : Survey :=
  { v with
    portsUp := portNumbers.filter (fun n => (m.portEnt n).up), lanes := m.lanes, mhz := m.mhz
    stacksLost := (List.range 12).filter (fun i => ((lookupBy i m.stackEnts).getD {}).st == 4) }

/-! ## The Farrier's durable copy (R36) -/

/-- MAP_REBUILD: without a published map the construction is surveyed afresh, with nothing retired, and published at version 1;
a published map is made durable as it stands (log 36). -/
def execMapRebuild (m : Msg) (s : State) : Host.Outcome State Fault Refusal :=
  s.command 0x12 true m (m.len == 0) (fun t =>
    let t := t.updDev (fun (d : Device) =>
      if d.rmap.published then { d with durable := d.rmap.retirement }
      else
        let m := surveyMap (surveyNow d.survey d.rmap) { valid := true, cores := [], slices := [], stackEnts := [], remaps := [] }
        { d with durable := m.retirement, rmap := { m with published := true, version := 1, changedAt := s.stamp } })
    t.answerVersion m)

/-! ## Firmware (R87, R89) -/

/-- Where a slot begins, and its length. -/
def slotBytes : Nat := 2 ^ 28
def slotBase (slot : Nat) : Nat := tierBase + slotBytes + slot * slotBytes

/-- A slot as the boot ROM and FW_COMMIT read it. -/
structure FwHdr where
  magic : Nat
  secVer : Nat
  gen : Nat
  size : Nat
  sig : List Byte
  deriving DecidableEq, Repr

def State.fwHdr (s : State) (slot : Nat) : FwHdr :=
  let b := readBytes s.mem (slotBase slot) 128
  { magic := numAt b 0 4, secVer := numAt b 4 4, gen := numAt b 8 8, size := numAt b 0x10 4, sig := slice 0 b 0x40 64 }

def FwHdr.sizeOk (h : FwHdr) : Bool := h.size % 8 == 0 && decide (8 ≤ h.size) && decide (h.size ≤ slotBytes - pageBytes)

/-- The image. -/
def State.fwImage (s : State) (slot : Nat) : List Byte := readBytes s.mem (slotBase slot + pageBytes) (s.fwHdr slot).size

/-- Does a range of the tier hold a poisoned unit? -/
def State.anyBad (s : State) (pa n : Nat) : Bool :=
  s.poison.any (fun u => decide (pa ≤ u * 64 + 63) && decide (u * 64 < pa + n)) ||
    s.dev.partial_.any (fun p => decide (pa < (p.1 + 1) * pageBytes) && decide (p.1 * pageBytes < pa + n))

/-- What a slot fails on: 1 MAGIC or SIZE, 2 the signature, 3 the security version. -/
def State.fwFails (s : State) (slot : Nat) : Option Nat :=
  let h := s.fwHdr slot
  if s.anyBad (slotBase slot) 128 || h.magic != 0x53584657 || !h.sizeOk then some 1
  else if s.anyBad (slotBase slot + pageBytes) h.size || !Config.signatureHolds (s.fwImage slot) h.sig then some 2
  else if h.secVer < s.dev.fw.fuse then some 3
  else none

def State.setGen (s : State) (slot gen : Nat) : State :=
  s.layHome (putsOf (slotBase slot + 8) ((toBytes 8 gen).map (fun b => (b, false))))

def execFwWrite (m : Msg) (s : State) : Host.Outcome State Fault Refusal :=
  s.command 0x14 true m (decide (m.len ≥ 16) && m.len % 8 == 0) (fun t =>
    let slot := numAt m.body 0 1
    let off := numAt m.body 4 4
    let data := m.body.drop 16
    if !zeros m.body 1 3 || !zeros m.body 8 8 || off % 8 != 0 then t.answer m 4
    else if decide (slot > 1) || decide (off + data.length > slotBytes) then t.answer m 5
    else if t.dev.fw.running == some slot then t.answer m 6
    else
      let t := if t.dev.fw.dirtySlots.contains slot then t
        else (t.setGen slot 0).updDev (fun d => { d with fw := { d.fw with
          dirtySlots := addSet slot d.fw.dirtySlots, factory := if d.fw.factory = some slot then none else d.fw.factory } })
      let puts := (putsOf (slotBase slot + off) (data.map (fun b => (b, false)))).filter (fun p =>
        !(decide (slotBase slot + 8 ≤ p.pa) && decide (p.pa < slotBase slot + 16)))
      (if puts.isEmpty then t else t.layHome puts).answer m 0)

/-- The generation of a slot: 1 for the image the part came with. -/
def State.genOf (s : State) (slot : Nat) : Nat :=
  if s.dev.fw.factory = some slot ∧ (s.fwHdr slot).gen = 0 then 1 else (s.fwHdr slot).gen

def execFwCommit (m : Msg) (s : State) : Host.Outcome State Fault Refusal :=
  s.command 0x15 true m (m.len == 8) (fun t =>
    let slot := numAt m.body 0 1
    if !zeros m.body 1 7 then t.answer m 4
    else if slot > 1 then t.answer m 5
    else
      let fails := if t.dev.fw.factory = some slot then none else t.fwFails slot
      let t := t.updDev (fun d => { d with fw := { d.fw with dirtySlots := delSet slot d.fw.dirtySlots } })
      match fails with
      | some why => t.complete m.ctx m.tag 0x0B why 0
      | none =>
        let gen := (t.genOf (1 - slot) + 1) % 2 ^ 64
        (t.setGen slot gen).complete m.ctx m.tag 0 0 gen)

end Sys2Proof.Machine
end

