-- ==== Sys2Proof/Machine/Power.lean ====
section
/-! DEFINITION. Power, reset, clock, telemetry and the timestamp (R9 to R12, R14, R33, R34, R36, R66, R84, R87). -/

namespace Sys2Proof.Machine

/-! ## What a reset or a loss of power leaves (R12, R14, R34) -/

/-- A copy into a window is cut off after some of its words, how many is open (log 6): the pages before carry their marks and
hold the new data, and the page it was in reads as poisoned unless the cut falls between two pages (R14). -/
def State.cutCopy (s : State) (o : Op) : State :=
  match o.body, s.ctxFor o.gang o.ctx with
  | .copy src (.ck off) n done _ wrote, some cx =>
    if !s.canPerform o then s
    else
      let (w, s) := s.freeWord
      let (t, at_, _) := s.moveCopy o cx src (.ck off) n done (w.toNat % ((n - done) / 4 + 1)) wrote []
      let pa := cx.tierPa (off + at_)
      if at_ = 0 ∨ n ≤ at_ ∨ pa % pageBytes = 0 then t.s
      else t.s.updDev (fun (d : Device) => { d with
        partial_ := d.partial_.filter (fun p => p.1 != pa / pageBytes) ++ [(pa / pageBytes, [])] })
  | _, _ => s

/-- The copies into windows under way. -/
def State.cutWrites (s : State) : State := s.ops.foldl State.cutCopy s

/-- The first pages of an image hold another's, and its digest no longer matches but where they are alike. -/
def Image.overwritten (i : Image) (new : List ImgPage) (n : Nat) : Image := { i with pages := new.take n ++ i.pages.drop n }

/-- A full image under way has overwritten some pages of the older one of its area, how many is open (log 6). -/
def State.cutImage (s : State) : State :=
  match s.dev.ckpt with
  | none => s
  | some o =>
    if o.kind ≠ 0 ∨ !s.quiesced o then s
    else
      let (w, s) := s.freeWord
      let slot := s.dev.fullSlot
      let new := (s.imageNow o 0 slot (fun _ => true)).pages
      let n := w.toNat % (new.length + 1)
      s.updDev (fun (d : Device) => { d with
          images := d.images.map (fun (i : Image) => if i.slot = slot then i.overwritten new n else i) })

/-- The state with nothing but what does not depend on power: the tier, the fused counter, what the outside has been sent,
and the model's own counters. -/
def State.lostPower (s : State) : State :=
  let s := s.cutWrites.cutImage
  let tier (c : Host.Cell) : Bool := decide (tierBase ≤ c.1)
  let d := s.dev
  { State.reset with
    mem := s.mem.filter tier
    poison := s.poison.filter (fun u => decide (tierBase ≤ u * 64))
    nextId := s.nextId, free := s.free, turn := s.turn, agenda := s.agenda
    dev := { Device.reset with
      pkg := d.pkg, powered := false, durable := d.durable, out := d.out, nextCkpt := d.nextCkpt, images := d.images
      partial_ := d.partial_
      rmap := { RMap.reset with published := false }
      fw := { d.fw with running := none, secVer := 0, hash := [] } } }

/-- MAIN_INPUT_OUT_OF_RANGE. -/
def execMainInputOutOfRange (s : State) : Host.Outcome State Fault Refusal :=
  .next (if s.dev.powered then s.lostPower else s)

/-! ## The boot ROM (R87) -/

/-- The slots in the order they are tried. -/
def State.bootOrder (s : State) : List Nat :=
  (if s.genOf 0 < s.genOf 1 then [1, 0] else [0, 1]).filter (fun k => s.genOf k != 0)

/-- Does a slot boot? -/
def State.boots (s : State) (slot : Nat) : Bool := s.dev.fw.factory == some slot || (s.fwFails slot).isNone

/-- The firmware that runs after a reset. A higher security version advances the fused counter. -/
def State.boot (s : State) : State :=
  match s.bootOrder.find? s.boots with
  | none => s
  | some slot =>
    let made := s.dev.fw.factory == some slot
    let ver := if made then 0 else (s.fwHdr slot).secVer
    s.updDev (fun d => { d with fw := { d.fw with
      running := some slot, secVer := ver, hash := if made then [] else sha512 (s.fwImage slot), fuse := max d.fw.fuse ver } })

/-! ## Reset (R36) -/

/-- A durable copy that fails its checks is reported (R36): the spec gives the report no message, and the model sends that of a
map change with VERSION, CAUSE and DETAIL 0 (DESIGN CHOICE, log 104). -/
def State.reportDurable (s : State) : State :=
  if s.dev.durable.valid then s else s.emit (.host 0x81 0xFF 0 0 (toBytes 16 0))

/-- MODULE_RESET: everything volatile is lost, a slot boots, the survey and the durable retirements make the map, and it is
published at version 1 unless no firmware runs or the durable copy failed. -/
def execModuleReset (survey : Survey) (s : State) : Host.Outcome State Fault Refusal :=
  .next (State.reportDurable (
    let s := s.lostPower.boot
    let d := s.dev.durable
    let kept : Durable := if d.valid then d else { valid := false, cores := [], slices := [], stackEnts := [], remaps := [] }
    let m := surveyMap survey kept
    { s with
      pool := { s.pool with withheld := (kept.remaps.filter (fun r => r.kind == 2)).foldl (fun l r => addSet r.target l) [] }
      dev := { s.dev with
        powered := true, durable := kept, survey := survey
        rmap := if d.valid && s.dev.fw.running.isSome then { m with published := true, version := 1 } else m } }))

/-! ## The clock (R9, R33) -/

/-- The clock moves, as one change. -/
def State.setClock (s : State) (mhz : Nat) : State :=
  (s.updDev (fun d => { d with clockSince := s.time, clockTold := false })).publish 0x01 0 (fun (p : RMap) => { p with mhz := mhz })

def execClockLower (mhz : Nat) (s : State) : Host.Outcome State Fault Refusal :=
  .next (if s.dev.powered && clockOk mhz && decide (mhz < s.dev.rmap.mhz) then s.setClock mhz else s)

/-- CLOCK_RAISE: only after the clock has held its value for 10 ms. -/
def execClockRaise (mhz : Nat) (s : State) : Host.Outcome State Fault Refusal :=
  .next (if s.dev.powered && clockOk mhz && decide (s.dev.rmap.mhz < mhz) && decide (s.dev.clockSince + 10000000 ≤ s.time) then
    s.setClock mhz else s)

/-- TELEMETRY: every 100 ms, and after a clock change. -/
def execTelemetry (power : Nat) (temps : List Half) (s : State) : Host.Outcome State Fault Refusal :=
  .next (
    if !s.dev.powered || (s.dev.clockTold && decide (s.time < s.dev.lastTelemetry + 100000000)) then s
    else
      let body := toBytes 8 s.stamp ++ toBytes 2 s.dev.rmap.mhz ++ toBytes 2 power ++ toBytes 2 s.dev.rmap.limit ++ toBytes 2 0 ++
        ((slice 0 temps 0 17).map (fun (h : Half) => toBytes 2 h.toNat)).flatten ++ toBytes 6 0
      (s.updDev (fun d => { d with lastTelemetry := s.time, clockTold := true })).emit (.host 0x84 0xFF 0 0 body))

/-! ## The timestamp (R10, R11) -/

/-- Time passes: the difference to the pod goes at one count per microsecond (log 39). -/
def State.pass (s : State) (wait : Nat) : State :=
  let gone : Int := ((s.time + wait) / 1000 - s.time / 1000 : Nat)
  let d := s.dev.slew
  { s with time := s.time + wait, dev := { s.dev with slew := if d < 0 then (if d + gone < 0 then d + gone else 0) else (if 0 < d - gone then d - gone else 0) } }

def execTimestampSyncSend (s : State) : Host.Outcome State Fault Refusal :=
  .next (if s.dev.powered && decide (s.dev.lastSync + 1000000 ≤ s.time) then
    (s.updDev (fun d => { d with lastSync := s.time })).send (.sync s.stamp) else s)

/-- TIMESTAMP_SYNC: a package that joins adopts the count of the member with the lowest accelerator ID it has heard, never
stepping back, and gives nothing on a higher one; else the difference is to be slewed away. -/
def execTimestampSync (sync : SyncMsg) (s : State) : Host.Outcome State Fault Refusal :=
  .next (
    if !s.dev.powered then s
    else
      let slew (d : Device) : Device := { d with slew := (sync.count : Int) - s.stamp }
      if !sync.joining then s.updDev slew
      else if s.dev.joinedBy.any (fun id => decide (id < sync.from_)) then s
      else s.updDev (fun d =>
        if s.stamp ≤ sync.count then { d with ahead := sync.count - s.time, slew := 0, joinedBy := some sync.from_ }
        else { slew d with joinedBy := some sync.from_ }))

end Sys2Proof.Machine
end

