-- ==== Sys2Proof/Machine/Links.lean ====
section
/-! DEFINITION. The ports (R16 to R24, R31, R32, R45): UALink ports up and down, requests of peers, relays, and the frames and
lanes of the Utenaurn port. -/

namespace Sys2Proof.Machine

/-! ## UALink ports (R17, R18, R20) -/

/-- A port's entry changes; its count of replay failures shows what it has come to (log 38). -/
def State.setPort (s : State) (cause port : Nat) (up : Bool) : State :=
  let change (e : PortEnt) : PortEnt := { e with up := up, replayFails := (lookupBy port s.dev.replays).getD 0 % 2 ^ 16 }
  s.publish cause port (fun (m : RMap) => { m with ports := setBy port (change (m.portEnt port)) m.ports })

def State.portUp (s : State) (port : Nat) : Bool := s.dev.powered && decide (port < 24) && (s.dev.rmap.portEnt port).up

def State.portFails (s : State) (port : Nat) : State :=
  (s.updDev (fun d => { d with flits := d.flits.filter (fun f => f.1 != port) })).setPort 0x0F port false

def execPortDown (port : Nat) (s : State) : Host.Outcome State Fault Refusal :=
  .next (if s.portUp port then s.portFails port else s)

def execPortUp (port : Nat) (s : State) : Host.Outcome State Fault Refusal :=
  .next (if s.dev.powered && decide (port < 24) && !s.portUp port then s.setPort 0x10 port true else s)

/-- FLIT_CRC_FAIL: a replay is asked for; the eighth replay in a row to fail takes the port down. -/
def execFlitCrcFail (port flit : Nat) (s : State) : Host.Outcome State Fault Refusal :=
  .next (
    if !s.portUp port then s
    else
      let before := ((s.dev.flits.find? (fun f => f.1 == port && f.2.1 == flit)).map (fun f => f.2.2)).getD 0
      let s := s.updDev (fun (d : Device) => { d with
        flits := d.flits.filter (fun f => f.1 != port) ++ [(port, flit, before + 1)]
        replays := if before = 0 then d.replays else setBy port ((lookupBy port d.replays).getD 0 + 1) d.replays })
      if before = 8 then s.portFails port else s.send (.replay port flit))

def execUnsupportedRequest (port tag : Nat) (s : State) : Host.Outcome State Fault Refusal :=
  .next (if s.portUp port then s.send (.unsupported port tag) else s)

def execUnknownVendorMessage (port _tag : Nat) (s : State) : Host.Outcome State Fault Refusal :=
  .next (if s.portUp port then s.updDev (fun (d : Device) => { d with
    portErrors := setBy port ((lookupBy port d.portErrors).getD 0 + 1) d.portErrors }) else s)

/-! ## Requests of peers (R16, R20, R256, R258, R274) -/

/-- Is an access of some bytes one that a local address can have? -/
def peerOk (pa bytes : Nat) : Bool :=
  [1, 2, 4, 8, 16].contains bytes && pa % bytes == 0 && decide (pa + bytes ≤ hbmPages * pageBytes)

/-- Does an entry of a level-3 node show WATCH (R261, R522): is some page of its run in the watch table? The bit is what the
table says; the entry in memory holds 0 there (log 57). -/
def State.showsWatch (s : State) (at_ : Nat) : Bool :=
  let e := readNat s.mem at_ 8
  bitOf e 0 && !pteR e && s.watched.any (fun p => decide (ptePpn e ≤ p) && decide (p < ptePpn e + sizePages (pteSize e))) &&
    s.ctxs.any (fun c => (s.nodes3 c.root).any (fun n => decide (n.2 ≤ at_) && decide (at_ < n.2 + 65536)))

/-- Bytes at an address as a peer reads them: the second byte of a level-3 entry shows its WATCH. -/
def State.shownBytes (s : State) (pa n : Nat) : List (Byte × Bool) :=
  (indexed (s.currentBytes pa n)).map (fun b =>
    if (pa + b.1) % 8 = 1 ∧ s.showsWatch (pa + b.1 - 1) then (b.2.1 ||| 1, b.2.2) else b.2)

/-- The words that hold some bytes at an address, as they are now. -/
def State.peerWords (s : State) (pa bytes : Nat) : List WireWord :=
  (List.range (ceilDiv bytes 4)).map (fun i =>
    let bs := s.shownBytes (pa + 4 * i) (Nat.min 4 (bytes - 4 * i))
    { val := BitVec.ofNat 32 (ofBytes (bs.map (fun b => b.1))), mark := bs.any (fun b => b.2) })

def peerPuts (pa bytes : Nat) (data : List WireWord) : List Put :=
  (List.range bytes).map (fun i =>
    let w := data.getD (i / 4) { val := 0, mark := false }
    { pa := pa + i, byte := BitVec.ofNat 8 (w.val.toNat / 256 ^ (i % 4)), mark := w.mark })

/-- An atomic at its home: the former words, marked where the word was poisoned and stays. -/
def State.peerAtomic (s : State) (pa width : Nat) (f : Nat → Nat) : List WireWord × State :=
  match s.atomicHome none pa width f with
  | (some old, s) => ((List.range (width / 32)).map (fun i => { val := BitVec.ofNat 32 (old / 2 ^ (32 * i)), mark := false }), s)
  | (none, s) => ((List.range (width / 32)).map (fun _ => { val := 0, mark := true }), s)

/-- A response goes out, over a relay package to another pod (R23); where none leads there, it does not. -/
def State.respond (s : State) (dst tag : Nat) (ws : List WireWord) : State :=
  match s.dev.rmap.via s.dev.pkg dst with
  | some v => s.send (.response v dst tag ws)
  | none => s

/-- PEER_REQUEST: executed at the address's home, and answered; what the device does not support has no effect. -/
def execPeerRequest (req : PeerReq) (s : State) : Host.Outcome State Fault Refusal :=
  .next (
    if !s.dev.powered then s
    else
      let reject := s.send (.unsupported req.src req.tag)
      match req.kind with
      | .read n => if peerOk req.pa n then s.respond req.src req.tag (s.peerWords req.pa n) else reject
      | .write n data =>
        if peerOk req.pa n then (s.writeMem none (peerPuts req.pa n data)).respond req.src req.tag [] else reject
      | .atomic op width signed b c =>
        if (width == 32 || width == 64) && peerOk req.pa (width / 8) then
          let (ws, s) := s.peerAtomic req.pa width (fun old => atomNew op width signed old b.toNat c.toNat)
          s.respond req.src req.tag ws
        else reject)

/-! ## Relays (R22, R23) -/

/-- RELAY_FORWARD: out of a relay port that is up, to another pod or, on its way in, to this one. -/
def execRelayForward (msg : RelayMsg) (s : State) : Host.Outcome State Fault Refusal :=
  .next (if s.dev.powered && msg.dst != s.dev.pkg && msg.src / 1024 != msg.dst / 1024 &&
      portNumbers.any (fun p => s.portUp p && (s.dev.rmap.portEnt p).relay) then s.send (.relay msg) else s)

/-! ## The Utenaurn port (R31, R32) -/

/-- Is a frame whole: at most 4 KiB, and its CRC-32C that of its bytes (R31, log 97)? -/
def frameWhole (f : Frame) : Bool :=
  decide (f.msgs.flatten.length ≤ 4096) && f.crc == frameCrc f.seq (f.msgs.flatten ++ f.again.elim [] (toBytes 4))

/-- The device's frames from a number on go out again, as they were (R31). -/
def State.resendFrom (s : State) (n : Nat) : State :=
  let back := (s.dev.txSeq + 2 ^ 32 - n % 2 ^ 32) % 2 ^ 32
  let sent (k : Nat) : Option Sent := s.dev.out.reverse.find? (fun x => match x with
    | .frame seq _ _ => seq == k
    | _ => false)
  let again := (List.range (Nat.min back s.dev.out.length)).filterMap (fun i => sent ((n + i) % 2 ^ 32))
  { s with dev := { s.dev with out := s.dev.out ++ again } }

/-- UTENAURN_FRAME: a bad or misplaced frame is asked for again; one that is well sends again what it asks for, and delivers
its messages. -/
def execUtenaurnFrame (frame : Frame) (s : State) : Host.Outcome State Fault Refusal :=
  .next (
    if !s.dev.powered || s.dev.rmap.lanes = 0 then s
    else if !frameWhole frame || frame.seq != s.dev.rxSeq then s.emit (.resend s.dev.rxSeq)
    else
      let s := match frame.again with
        | some n => s.resendFrom n
        | none => s
      s.updDev (fun d => { d with rxSeq := (d.rxSeq + 1) % 2 ^ 32, inbox := d.inbox ++ frame.msgs }))

/-- UTENAURN_LANE_DOWN: a lane fails or returns; what was held goes out when a lane is live again. -/
def execUtenaurnLaneDown (lane : Nat) (up : Bool) (s : State) : Host.Outcome State Fault Refusal :=
  .next (
    if !s.dev.powered || decide (lane > 1) || bitOf s.dev.rmap.lanes lane == up then s
    else
      let s := if up then s.dev.heldOut.foldl State.sendFrame (s.updDev (fun (d : Device) => { d with heldOut := [] })) else s
      s.publish 0x11 lane (fun (m : RMap) => { m with lanes := if up then m.lanes + 2 ^ lane else m.lanes - 2 ^ lane }))

end Sys2Proof.Machine
end

