-- ==== Sys2Proof/Machine/Farrier.lean ====
section
/-! DEFINITION. The Farrier and the Groom (R51 to R56), the loss of stacks and dies (R8, R39, R307), and the deadlines of the
map's versions (R48, R49). -/

namespace Sys2Proof.Machine

/-! ## Counts (R51) -/

/-- 3,600 s. -/
def errorWindow : Nat := 3600000000000

/-- The errors of a unit in the window: corrected and uncorrectable. -/
def State.errorsOf (s : State) (u : HwUnit) : Nat × Nat :=
  let es := s.dev.errors.filter (fun e => e.1 == u && decide (s.time < e.2.2 + errorWindow))
  ((es.filter (fun e => !e.2.1)).length, (es.filter (fun e => e.2.1)).length)

def State.errorCount (s : State) (u : HwUnit) : Nat := (s.errorsOf u).1 + (s.errorsOf u).2

/-- The counts of a unit end with what is done about it. -/
def State.forgetErrors (s : State) (mine : HwUnit → Bool) : State :=
  s.updDev (fun (d : Device) => { d with errors := d.errors.filter (fun e => !mine e.1) })

/-- ERROR_WINDOW_EXPIRY. -/
def execErrorWindowExpiry (unit : HwUnit) (s : State) : Host.Outcome State Fault Refusal :=
  .next (s.updDev (fun (d : Device) => { d with
    errors := d.errors.filter (fun e => e.1 != unit || decide (s.time < e.2.2 + errorWindow)) }))

/-- The core of a unit. -/
def unitCore : HwUnit → Option Nat
  | .lane c _ _ => some c
  | .core c => some c
  | .bank c _ => some c
  | .quarter c _ _ => some c
  | .way _ _ _ => none
  | .engine c _ => some c

/-- Has a bank, quarter or way met its threshold? -/
def State.unitDue (s : State) (u : HwUnit) : Bool :=
  let (corrected, bad) := s.errorsOf u
  match u with
  | .quarter _ _ _ => decide (2 ≤ bad)
  | .bank _ _ | .way _ _ _ => decide (2 ≤ bad) || decide (16 ≤ corrected)
  | .lane _ _ _ | .core _ | .engine _ _ => false

/-- Set bits of a mask below a number of bits. -/
def countBits (n bits : Nat) : Nat := ((List.range bits).filter (bitOf n)).length

/-- Would its retirement take the core with it: a fifth bank, a second quarter of a partition? -/
def State.coreGoes (s : State) : HwUnit → Bool
  | .bank c b => let e := s.dev.rmap.coreEnt c; !e.banksOut.getLsbD b && decide (4 ≤ countBits e.banksOut.toNat 32)
  | .quarter c p q => let e := s.dev.rmap.coreEnt c
                      !e.regsOut.getLsbD (4 * p + q) && decide (1 ≤ countBits (field e.regsOut.toNat (4 * p) 4) 4)
  | .lane _ _ _ | .core _ | .way _ _ _ | .engine _ _ => false

/-- Does a lane's count ask for a swap, and is its group's spare free for it? -/
def State.laneDue (s : State) (core group lane : Nat) : Bool := decide (3 ≤ s.errorCount (.lane core group lane))

def State.spareFree (s : State) (core group lane : Nat) : Bool :=
  decide (group < 8) && decide (lane < 15) && (s.dev.rmap.coreEnt core).lanes.getD group 15 == 15

/-- Is the core to be retired? -/
def State.coreDue (s : State) (core : Nat) : Bool :=
  decide (8 ≤ s.errorCount (.core core)) ||
  s.dev.errors.any (fun e => unitCore e.1 == some core && (match e.1 with
    | .lane c g l => s.laneDue c g l && !s.spareFree c g l
    | u => s.unitDue u && s.coreGoes u))

/-- The gang that saw the error has been rolled back or killed. -/
def State.errorSettled (s : State) (core : Nat) : Bool :=
  !s.gangs.any (fun g => g.st.holds && g.doom.any (fun d => d.core == some core))

/-- Nothing of a context is left on a core. -/
def State.coreEmpty (s : State) (core : Nat) : Bool :=
  let c := s.coreAt core
  c.ctx.isNone && c.shadow == .empty && !s.gangs.any (fun g => g.heldCores.contains core)

/-! ## Lane swaps and retirements (R51 to R53) -/

/-- A core is held for what is to be done with it. -/
def State.holdCore (s : State) (core : Nat) (plan : Option (Nat × Nat)) : State :=
  (s.updDev (fun (d : Device) => { d with held := d.held ++ [(core, plan)] })).publishCore 0x04 core (fun e => { e with st := 3 })

def State.heldFor (s : State) (core : Nat) (plan : Option (Nat × Nat)) : Bool := s.dev.held.contains (core, plan)

def State.unhold (s : State) (core : Nat) : State :=
  s.updDev (fun (d : Device) => { d with held := d.held.filter (fun h => h.1 != core) })

/-- May the Farrier hold the core now? -/
def State.canHold (s : State) (core : Nat) : Bool :=
  (s.dev.rmap.coreEnt core).st == 1 && !s.dev.held.any (fun h => h.1 == core) && s.errorSettled core

/-- FARRIER_LANE_SWAP: the core is held; when it is empty, LANE_MAP is written and the core enabled again. -/
def execFarrierLaneSwap (core group lane : Nat) (s : State) : Host.Outcome State Fault Refusal :=
  .next (
    if s.heldFor core (some (group, lane)) then
      if !s.coreEmpty core then s
      else (((s.unhold core).forgetErrors (· == .lane core group lane)).publishCore 0x05 core
        (fun (e : CoreEnt) => { e with st := 1, lanes := putAt e.lanes group lane })).keepDurable
    else if s.laneDue core group lane && s.spareFree core group lane && s.canHold core then s.holdCore core (some (group, lane))
    else s)

/-- FARRIER_CORE_RETIRE: the core is held; when it is empty, it is retired. -/
def execFarrierCoreRetire (core : Nat) (s : State) : Host.Outcome State Fault Refusal :=
  .next (
    if s.heldFor core none then
      if !s.coreEmpty core then s
      else
        let s := (((s.unhold core).forgetErrors (fun u => unitCore u == some core)).writeBackL1 core).updCore core
          (fun c => { c with l1 := [], l1Marks := [] })
        (s.publishCore 0x06 core (fun e => { e with st := 4 })).keepDurable
    else if s.coreDue core && s.canHold core then s.holdCore core none
    else s)

/-- Is a bank of a core in use beyond its cache, or a partition's registers held by a wave? -/
def State.unitBusy (s : State) : HwUnit → Bool
  | .bank c b => decide (0 < (s.pinnedLines c).length) ||
      s.gangs.any (fun g => g.groups.any (fun r => !r.ended && r.places.any (fun p => p.core == c && (p.spBanks ++ p.fifoBanks).contains b)))
  | .quarter c p _ => s.waves.any (fun w => w.core == c && w.partition == p && w.resident)
  | .lane _ _ _ | .core _ | .way _ _ _ | .engine _ _ => false

/-- A way goes, or with it the slice's cache. -/
def SliceEnt.lose (e : SliceEnt) (way : Nat) : SliceEnt :=
  if countBits e.ways.toNat 12 ≥ 4 then { e with homeOnly := true } else { e with ways := e.ways ||| BitVec.ofNat 12 (2 ^ way) }

/-- FARRIER_UNIT_RETIRE: at a moment the unit is not in use. -/
def execFarrierUnitRetire (unit : HwUnit) (s : State) : Host.Outcome State Fault Refusal :=
  .next (
    if !s.unitDue unit || s.coreGoes unit || s.unitBusy unit || (unitCore unit).any (fun c => !s.errorSettled c) then s
    else
      let s := s.forgetErrors (· == unit)
      match unit with
      | .bank c b => if (s.dev.rmap.coreEnt c).banksOut.getLsbD b then s
        else (s.publishCore 0x07 c (fun (e : CoreEnt) => { e with banksOut := e.banksOut ||| BitVec.ofNat 32 (2 ^ b) })).keepDurable
      | .quarter c p q => if (s.dev.rmap.coreEnt c).regsOut.getLsbD (4 * p + q) then s
        else (s.publishCore 0x08 c (fun (e : CoreEnt) => { e with regsOut := e.regsOut ||| BitVec.ofNat 16 (2 ^ (4 * p + q)) })).keepDurable
      | .way d sl w =>
        let i := 64 * d + sl
        let e := s.dev.rmap.sliceEnt i
        if e.homeOnly || e.ways.getLsbD w then s
        else (s.publish (if (e.lose w).homeOnly then 0x0A else 0x09) i
          (fun (m : RMap) => { m with slices := setBy i (e.lose w) m.slices })).keepDurable
      | .lane _ _ _ | .core _ | .engine _ _ => s)

/-! ## The Groom (R54 to R56) -/

/-- ROW_SCORE_HALVE: every 24 h. -/
def execRowScoreHalve (s : State) : Host.Outcome State Fault Refusal :=
  .next (
    if s.time < s.dev.lastHalve + 86400000000000 then s
    else s.updDev (fun (d : Device) => { d with
      lastHalve := s.time
      rowScores := (d.rowScores.map (fun (r : Nat × Nat) => (r.1, r.2 / 2))).filter (fun r => r.2 != 0) }))

/-- Zeros go over a page. -/
def State.zeroPage (s : State) (page : Nat) : State :=
  let s := s.homePages [page]
  { s with
    mem := clearBytes s.mem (page * pageBytes) pageBytes
    poison := s.poison.filter (fun u => u * 64 / pageBytes != page) }.touchPage none page

/-- GROOM_CLEAR_PAGE: the next page of the queue. -/
def execGroomClearPage (readback : Readback) (s : State) : Host.Outcome State Fault Refusal :=
  .next (match s.pool.clearing with
    | [] => s
    | page :: rest =>
      let s := { s with pool := { s.pool with clearing := rest } }.zeroPage page
      match readback with
      | .clean => s
      | .cleanSecond => s.scoreRow page 16
      | .failing =>
        let s := s.scoreRow page 32
        if s.pool.withheld.contains page then s else s.retirePage page)

/-! ## Stacks and dies (R8, R39) -/

/-- STACK_LOST. -/
def execStackLost (stack : Nat) (s : State) : Host.Outcome State Fault Refusal :=
  .next (if s.dev.powered && decide (stack < 12) && (s.stackEnt stack).st != 4 then
    s.publishStack 0x0E stack (fun e => { e with st := 4 }) else s)

/-- Words whose only current copy lay in a die are lost with it. -/
def State.loseCopies (s : State) (die : Nat) : State :=
  let mine := s.directory.filter (fun d => decide (d.2 < bankBase) && dieOf d.2 == die)
  { s with
    directory := s.directory.filter (fun d => !(decide (d.2 < bankBase) && dieOf d.2 == die))
    poison := mine.foldl (fun bad d => addSet (d.1 * 4 / 64) bad) s.poison
    cores := s.cores.map (fun (c : Core) => if dieOf c.idx = die then { c with l1 := [], l1Marks := [] } else c) }

/-- DIE_LOST: its home slices and reuse entries go, and its gangs and task waves are killed without relaunch. -/
def execDieLost (die : Nat) (s : State) : Host.Outcome State Fault Refusal :=
  .next (
    if !s.dev.powered || decide (die > 3) || s.dev.rmap.diesLost.contains die then s
    else
      let s := s.publish 0x15 die (fun (m : RMap) => { m with diesLost := addSet die m.diesLost })
      let here (c : Nat) : Bool := decide (c < bankBase) && dieOf c == die
      let s := { s with
        gangs := s.gangs.map (fun (g : Gang) => if g.st.live && g.heldCores.any here then
          { g with doom := some { source := 0x0A, core := none, cause := 0, reason := 4, kill := true } } else g)
        reuse := s.reuse.filter (fun r => r.die != die) }
      let s := s.loseCopies die
      (s.waves.filter (fun w => w.gang.isNone && w.resident && !w.ended && here w.core)).foldl
        (fun (s : State) w => s.killTask w 0x0A 0 (2 ^ 8 + 0x0A)) s)

/-! ## Deadlines (R48, R49) -/

/-- Is a version owed whose deadline has passed? -/
def Ctx.late (c : Ctx) (now : Nat) : Bool := c.owed.any (fun o => decide (o.deadline ≤ now))

/-- The lowest version owed. -/
def Ctx.lowestOwed (c : Ctx) : Nat :=
  (c.owed.foldl (fun (m : Option Nat) o => some (match m with
    | some v => Nat.min v o.version
    | none => o.version)) none).getD 0

/-- MAP_ACK_DEADLINE: the context is overdue, and hears of it once. -/
def execMapAckDeadline (ctx : Nat) (s : State) : Host.Outcome State Fault Refusal :=
  .next (match s.ctx? ctx with
    | none => s
    | some c =>
      if c.overdue || !c.late s.time then s
      else (s.updCtx ctx (fun c => { c with overdue := true })).event ctx 1 0x0F noGang c.lowestOwed)

/-- MAP_STALE_FORCED_ROLLBACK: twice the grace period after the deadline, inside a replayable region. -/
def execMapStaleForcedRollback (gang : Nat) (s : State) : Host.Outcome State Fault Refusal :=
  .next (match s.gang? gang with
    | none => s
    | some g =>
      match s.ctx? g.ctx with
      | none => s
      | some c =>
        if c.overdue && g.st.holds && g.region.replayable &&
            c.owed.any (fun o => decide (o.deadline + 2 * o.grace * 1000000 ≤ s.time)) then
          s.updRegion gang (fun r => { r with forced := true })
        else s)

end Sys2Proof.Machine
end

