-- ==== Sys2Proof/Machine/TaskWaves.lean ====
section
/-! DEFINITION. The task dispatcher (R128, R131, R132, R134, R170), the reuse table at spawns (R135 to R142, R521), parks that
time out (R265), and forced waves and entries (R108, R192). -/

namespace Sys2Proof.Machine

/-! ## Packing records (R131) -/

/-- A key takes records of its launch, PC and depth, and of one scene, whose counts and scalars their wave gets (R170; log 115). -/
def OpenKey.takes (k : OpenKey) (r : Rec) : Bool :=
  k.launch == r.launch && k.pc == r.pc && k.depth == r.depth && k.recs.all (fun x => x.scene == r.scene)

/-- The core's records in order into its open keys, until one needs a ninth key or its key is full. -/
def Core.pack (now : Nat) : Nat → Core → Core
  | 0, c => c
  | n + 1, c =>
    match c.fifo with
    | [] => c
    | r :: rest =>
      if c.keys.any (fun k => k.takes r) then
        if c.keys.any (fun k => k.takes r && decide (k.recs.length < 32)) then
          Core.pack now n { c with
            fifo := rest
            keys := c.keys.map (fun (k : OpenKey) => if k.takes r then { k with recs := k.recs ++ [r] } else k) }
        else c
      else if c.keys.length < 8 then
        Core.pack now n { c with
          fifo := rest
          keys := c.keys ++ [{ launch := r.launch, pc := r.pc, depth := r.depth, recs := [r], since := now }] }
      else c

/-- The keys whose wave issues as soon as there is room: the full ones; the oldest when a record needs a ninth; those that
have waited 64 cycles. -/
def Core.dueKeys (c : Core) (now mhz : Nat) : List OpenKey :=
  let ninth := c.keys.length == 8 && (match c.fifo with | r :: _ => !c.keys.any (fun k => k.takes r) | [] => false)
  let full (k : OpenKey) : Bool := k.recs.length == 32
  c.keys.filter full ++ (if ninth then c.keys.take 1 else []).filter (fun k => !full k) ++
    (c.keys.drop (if ninth then 1 else 0)).filter (fun k => !full k && decide (k.since + ceilDiv 64000 mhz ≤ now))

/-! ## What a record's wave runs under (R128, R170) -/

/-- The header, header map, format slots, scalars s0 and s1, and launch of a wave of records. -/
structure TaskKernel where
  hdr : KHdr
  headers : List Nat
  slots : List Dword
  s0 : Nat
  s1 : Nat
  launch : Nat
  deriving DecidableEq, Repr

/-- The scene a record of LAUNCH 0xFFFF runs under (R170): the one it came from; for a record the device did not make, one of its
context whose code holds its PC. -/
def State.recScene (s : State) (ctx : Nat) (r : Rec) : Option Scene :=
  let all := (s.scenes ++ s.oldScenes).filter (fun c => c.ctx == ctx)
  match all.find? (fun c => c.addr == r.scene) with
  | some c => some c
  | none => all.find? (fun c => c.shadeHeaders.contains r.pc)

def State.taskKernel (s : State) (ctx : Nat) (r : Rec) : Option TaskKernel :=
  match s.launchOf r.launch with
  | some l => some { hdr := l.hdr, headers := l.headers, slots := l.record.slots, s0 := l.record.args.toNat, s1 := l.recordVa, launch := l.id }
  | none => (s.recScene ctx r).map (fun c =>
      { hdr := c.shade, headers := c.shadeHeaders, slots := List.replicate 8 0, s0 := c.args.toNat, s1 := c.addr, launch := 0xFFFF })

/-- A lane that a record starts (R126, R128). -/
def Rec.lane (r : Rec) (regs : Nat) : Lane :=
  let words := (List.range r.nreg).map (fun i => ({ val := r.regs.getD i 0, mark := r.poison.getLsbD i } : PWord))
  { v := putMany (List.replicate regs {}) r.dbase words
    o := List.replicate 8 {}
    rec_ := some r
    pure_ := if r.kind = 1 then some { args := r.args, res := r.res } else none
    tail := if r.kind ≥ 3 then r.tail else [] }

def emptyLane (regs : Nat) : Lane := { v := List.replicate regs {}, o := List.replicate 8 {} }

/-- Has a partition a slot and registers for a wave of a kernel (R131, R132)? Nothing reserved is taken (R104). -/
def State.taskFits (s : State) (ctx core partition : Nat) (h : KHdr) : Bool :=
  let room := s.room ctx 0 core
  room.open_ && decide (0 < room.waves.getD partition 0) && decide (h.effective h.regs ≤ room.regs.getD partition 0)

def taskWave (k : TaskKernel) (ctx core partition id seat age : Nat) (recs : List Rec) : Wave :=
  let first := recs.headD (recOf [])
  { id := id, ctx := ctx, launch := k.launch, gang := none, group := 0, index := 0, role := 0, task := true, core := core
    partition := partition, seat := seat, age := age
    lanes := laneList.map (fun l => match recs[l]? with
      | some r => r.lane k.hdr.regs
      | none => emptyLane k.hdr.regs)
    scalars := (List.range k.hdr.scalars).map (fun n =>
      if n = 0 then PPair.ofNat k.s0 else if n = 1 then PPair.ofNat k.s1 else {})
    nscalars := k.hdr.scalars, regs := k.hdr.regs, maxEntries := k.hdr.frontier, slots := k.slots
    frontier := [{ pc := first.pc, depth := first.depth, prio := 0, mask := maskBy (fun l => decide (l < recs.length)) }]
    headers := k.headers }

/-- A key's kernel, where its wave fits the partition. -/
def State.keyFits (s : State) (ctx core partition : Nat) (k : OpenKey) : Option (OpenKey × TaskKernel) :=
  (s.taskKernel ctx (k.recs.headD (recOf []))).bind (fun t =>
    if s.taskFits ctx core partition t.hdr then some (k, t) else none)

/-- TASK_WAVE_ISSUE: records are packed, and the first wave that is due and fits starts; its start is an acquire (R126, R273). -/
def execTaskWaveIssue (core partition : Nat) (s : State) : Host.Outcome State Fault Refusal :=
  .next (match (s.coreAt core).ctx.bind s.ctx? with
    | none => s
    | some cx =>
      let s := s.updCore core (fun c => c.pack s.time 256)
      match ((s.coreAt core).dueKeys s.time s.dev.rmap.mhz).findSome? (s.keyFits cx.id core partition) with
      | none => s
      | some (k, t) =>
        if 4 ≤ partition ∨ s.barred cx then s
        else
          let (id, s) := s.fresh
          let age := (s.waves.map (fun w => w.age)).foldl max 0 + 1
          let s := { s with waves := s.waves ++ [taskWave t cx.id core partition id (s.freeSeat core partition) age k.recs] }
          let s := s.updCore core (fun c => { c with keys := c.keys.filter (fun x => x != k) })
          let s := s.updCtx cx.id (fun c => { c with starved := none })
          let s := { s with gangs := s.gangs.map (fun (g : Gang) => if g.ctx = cx.id ∧ g.taskGang then { g with idleSince := none } else g) }
          s.acquire core)

/-! ## Task gangs (R132) -/

/-- A record of a context that waits: in a core, among those the ring had no room for, or the ring's oldest; none waits. -/
def State.waitingRec (s : State) (cx : Ctx) : Option Rec :=
  match ((s.cores.filter (fun c => c.ctx == some cx.id)).map (fun c => c.records)).flatten ++ cx.stranded with
  | r :: _ => some r
  | [] =>
    if cx.areaReady && s.ringCount cx != 0 then
      some (s.recAt cx (cx.ringVa (s.areaGet cx 0x08 8)))
    else match cx.released.head? with
      | some slot => some (s.recAt cx (cx.poolVa slot))
      | none =>
        ((s.waves.find? (fun w => w.ctx == cx.id && w.gang.isNone && !w.resident && !w.ended)).bind (fun w =>
          (w.lanes.filterMap (fun l => l.rec_)).head?))

/-- Has a core of the context room for the record's wave? -/
def State.contextFits (s : State) (cx : Ctx) (r : Rec) : Bool :=
  match s.taskKernel cx.id r with
  | none => true
  | some t => (s.cores.filter (fun c => c.ctx == some cx.id)).any (fun c =>
      [0, 1, 2, 3].any (fun p => s.taskFits cx.id c.idx p t.hdr))

/-- TASK_GANG_QUEUE: records have found no room for 10 µs. The dispatcher looks; the first look that finds none starts the
time. -/
def execTaskGangQueue (ctx : Nat) (s : State) : Host.Outcome State Fault Refusal :=
  .next (match s.ctx? ctx with
    | none => s
    | some cx =>
      match s.waitingRec cx with
      | none => s.updCtx ctx (fun c => { c with starved := none })
      | some r =>
        if s.contextFits cx r then s.updCtx ctx (fun c => { c with starved := none })
        else match cx.starved with
          | none => s.updCtx ctx (fun c => { c with starved := some s.time })
          | some t =>
            if s.time < t + 10000 ∨ s.gangs.any (fun g => g.ctx == ctx && g.taskGang && g.st == .pending) then s
            else
              let (id, s) := s.fresh
              let age := match s.launchOf r.launch with | some l => l.acceptedAt | none => s.time
              let g : Gang := { id := id, launch := 0, ctx := ctx, index := noGang, acceptedAt := age, first := 0, pendingAt := s.time
                                taskGang := true }
              { s with gangs := s.gangs ++ [g] }.updCtx ctx (fun c => { c with starved := none }))

/-- TASK_GANG_RELEASE: no record has waited for 100 µs; the first look that finds none starts the time. -/
def execTaskGangRelease (gang : Nat) (s : State) : Host.Outcome State Fault Refusal :=
  .next (match s.gang? gang with
    | none => s
    | some g =>
      match s.ctx? g.ctx with
      | none => s
      | some cx =>
        if !g.taskGang || g.st != .placed then s
        else if (s.waitingRec cx).isSome then s.updGang gang (fun g => { g with idleSince := none })
        else match g.idleSince with
          | none => s.updGang gang (fun g => { g with idleSince := some s.time })
          | some t =>
            if s.time < t + 100000 then s
            else { s with gangs := s.gangs.filter (fun x => x.id != gang) }.lapse g.ctx)

/-! ## Refill (R132, R134) -/

/-- Records from the ring while the FIFO holds fewer than 128. -/
def State.refill (s : State) (cx : Ctx) (core : Nat) : Nat → State
  | 0 => s
  | n + 1 =>
    if s.ringCount cx = 0 ∨ (s.coreAt core).fifo.length ≥ 128 then s
    else match s.ringPop cx with
      | (some r, s) => (s.fifoPush core r).refill cx core n
      | (none, s) => s.refill cx core n

/-- Stranded records enter the ring, oldest first. -/
def State.drainStranded (s : State) (cx : Ctx) : List Rec → State
  | [] => s.updCtx cx.id (fun c => { c with stranded := [] })
  | r :: t =>
    if s.ringFull cx then s.updCtx cx.id (fun c => { c with stranded := r :: t })
    else (s.ringPush cx r).drainStranded cx t

/-- TASK_REFILL: the core's FIFO takes from the ring, and what waited for the ring's room follows. Which comes first the spec
leaves open: released waiters enter before records a swap left stranded (DESIGN CHOICE, log 113). -/
def execTaskRefill (core : Nat) (s : State) : Host.Outcome State Fault Refusal :=
  .next (match (s.coreAt core).ctx.bind s.ctx? with
    | none => s
    | some cx =>
      if !cx.areaReady then s
      else
        let s := s.refill cx core cx.ringSlots
        (s.drainReleased cx cx.released).drainStranded cx cx.stranded)

/-! ## The reuse table at a spawn (R135 to R140, R521) -/

/-- A spawn's canonical message (R135). -/
def State.reuseMessage (s : State) (cx : Ctx) (l : Launch) (r : Rec) : List (Byte × Bool) :=
  let clean (bs : List Byte) : List (Byte × Bool) := bs.map (fun b => (b, false))
  let lens := (List.range 4).map (fun i => (tileOf r.tbase (r.tail.getD (2 + i) 0).toNat).2)
  clean (slice 0 cx.salt 0 32 ++ slice 0 l.codeHash 0 32 ++ toBytes 8 r.pc ++
    ((slice (0 : Dword) l.record.slots 0 8).map (fun d => toBytes 8 d.toNat)).flatten ++
    toBytes 1 r.nargs ++ toBytes 1 r.nreg ++ toBytes 1 r.dbase ++ toBytes 1 0 ++ toBytes 4 r.res.2 ++
    (lens.map (fun n => toBytes 4 n)).flatten) ++
  ((List.range r.nreg).map (fun i => (toBytes 4 (r.regs.getD i 0).toNat).map (fun b => (b, r.poison.getLsbD i)))).flatten ++
  (r.args.map (fun t => s.readVa cx t.1 t.2)).flatten

/-- Die and set of a digest (R137). -/
def digestDie (d : List Byte) : Nat := numAt d 0 1 % 4
def digestSet (d : List Byte) : Nat := numAt d 1 2 % 2048

/-- Ways a tenant holds on a die, and its quota (R140). -/
def State.reuseHeld (s : State) (die tenant : Nat) : Nat := (s.reuse.filter (fun r => r.die == die && r.tenant == tenant)).length
def State.reuseQuota (s : State) : Nat :=
  let tenants := s.ctxs.foldl (fun ts c => addSet c.tenant ts) []
  16384 / tenants.length / 8 * 8

/-- The oldest of some entries, on a tie the lowest way. -/
def oldestWay : List Reuse → Option Reuse
  | [] => none
  | r :: t => match oldestWay t with
    | none => some r
    | some x => if r.age > x.age ∨ (r.age = x.age ∧ r.way < x.way) then some r else some x

/-- The way a miss takes (R140), and the age it had. An invalid way is older than every valid one. -/
def State.chooseWay (s : State) (die set tenant : Nat) : Option (Nat × Nat) :=
  let mine := s.reuse.filter (fun r => r.die == die && r.set == set)
  let valid := mine.filter (fun r => r.st == 1)
  let pick (rs : List Reuse) : Option (Nat × Nat) := (oldestWay rs).map (fun r => (r.way, r.age))
  match (List.range 8).find? (fun w => !mine.any (fun r => r.way == w)) with
  | some w => some (w, 256)
  | none =>
    if s.reuseQuota ≤ s.reuseHeld die tenant then pick (valid.filter (fun r => r.tenant == tenant))
    else match pick (valid.filter (fun r => decide (s.reuseQuota < s.reuseHeld die r.tenant))) with
      | some x => some x
      | none => pick (valid.filter (fun r => r.tenant == tenant))

/-- A way is taken for a pending entry (R521). -/
def State.takeWay (s : State) (x : Spawn) (tenant : Nat) (d : List Byte) (way age : Nat) : State :=
  let die := digestDie d
  let set := digestSet d
  let here (r : Reuse) : Bool := r.die == die && r.set == set
  let lost := s.reuse.any (fun r => here r && r.way == way)
  let s := if lost then { s with spawns := s.spawns.map (fun (p : Spawn) => if p.hit = some (die, set, way) then { p with dropHit := true } else p) } else s
  { s with reuse := (s.reuse.filter (fun r => !(here r && r.way == way))).map (fun (r : Reuse) =>
      if here r && r.st == 1 && decide (r.age < age) then { r with age := r.age + 1 } else r) ++
    [{ die := die, set := set, way := way, digest := d, resPa := 0, resLen := x.rec_.res.2, tenant := tenant, st := 2, age := 0
       hits := 0, created := 0, ctx := x.ctx, watch := x.pages }] }

/-- PVALID and PEND of a record that takes a way (R122). -/
def Rec.pending (r : Rec) (die set way : Nat) : Rec :=
  { r with tail := putAt r.tail 7 (BitVec.ofNat 32 ((r.tail.getD 7 0).toNat % 256 + 2 ^ 8 + 2 ^ 16 * (2 ^ 14 * die + 8 * set + way))) }

/-- The lookup ends without a hit (R138): the record goes to dispatch, with a pending entry or without. -/
def State.missSpawn (s : State) (cx : Ctx) (x : Spawn) (d : List Byte) : State :=
  let s := s.countReuse cx.id (fun n => { n with miss := (n.miss + 1) % 2 ^ 64 })
  let done (s : State) (r : Rec) : State := { s with spawns := s.spawns.filter (fun y => y.id != x.id) }.dispatchRec cx x.core r
  if x.stale then done (s.countReuse cx.id (fun n => { n with drop := (n.drop + 1) % 2 ^ 64 })) x.rec_
  else
    let die := digestDie d
    let set := digestSet d
    let twin := s.reuse.any (fun r => r.die == die && r.set == set && r.digest == d && r.st == 2)
    match (if !x.ok || twin then none else s.chooseWay die set cx.tenant) with
    | none => done (s.countReuse cx.id (fun n => { n with noway := (n.noway + 1) % 2 ^ 64 })) x.rec_
    | some (way, age) => done (s.takeWay x cx.tenant d way age) (x.rec_.pending die set way)

/-- REUSE_LOOKUP (R136, R138): the digest is there. -/
def execReuseLookup (spawn : Nat) (s : State) : Host.Outcome State Fault Refusal :=
  .next (match s.spawns.find? (fun x => x.id == spawn) with
    | none => s
    | some x =>
      match s.ctx? x.ctx, s.launchOf x.launch with
      | some cx, some l =>
        if x.hit.isSome || !s.taskRoom cx x.core then s
        else
          let m := s.reuseMessage cx l x.rec_
          if m.any (fun b => b.2) then
            { s with spawns := s.spawns.filter (fun y => y.id != spawn) }.dispatchRec cx x.core x.rec_
          else
            let d := sha512t256 (m.map (fun b => b.1))
            let s := s.countReuse cx.id (fun n => { n with lookup := (n.lookup + 1) % 2 ^ 64 })
            let e := s.reuse.find? (fun r => r.die == digestDie d && r.set == digestSet d && r.digest == d && r.tenant == cx.tenant &&
              r.resLen == x.rec_.res.2 && r.st == 1)
            match (if x.ok && !x.stale && (s.localPa cx .store x.rec_.res.1).isSome then e else none) with
            | some e => { s with spawns := s.spawns.map (fun (y : Spawn) => if y.id = spawn then { y with hit := some (e.die, e.set, e.way) } else y) }
            | none => s.missSpawn cx x d
      | _, _ => s)

/-- REUSE_HIT_COPY_DONE (R138, R139): the stored result is in the result tile; the task retires, or, where its entry went
before the copy ended, runs after all. -/
def execReuseHitCopyDone (spawn : Nat) (s : State) : Host.Outcome State Fault Refusal :=
  .next (match s.spawns.find? (fun x => x.id == spawn) with
    | none => s
    | some x =>
      match s.ctx? x.ctx, s.launchOf x.launch, x.hit with
      | some cx, some l, some (die, set, way) =>
        let mine (r : Reuse) : Bool := r.die == die && r.set == set && r.way == way && r.st == 1
        match s.localPa cx .store x.rec_.res.1 with
        | none => if s.taskRoom cx x.core then s.missSpawn cx { x with ok := false } [] else s
        | some pa =>
          if !s.taskRoom cx x.core then s
          else
            let s := match (if x.dropHit then none else s.reuse.find? mine) with
              | some e => if e.resPa = pa then s else s.writeVa cx x.rec_.res.1 (s.currentBytes e.resPa e.resLen)
              | none => s
            match s.spawns.find? (fun y => y.id == spawn) with
            | none => s
            | some y =>
              if !y.dropHit && s.reuse.any mine then
                let s := { s with
                  reuse := s.reuse.map (fun (r : Reuse) => if mine r then { r with hits := (r.hits + 1) % 2 ^ 32 } else r)
                  spawns := s.spawns.filter (fun z => z.id != spawn) }
                let s := s.countReuse cx.id (fun n => { n with hit := (n.hit + 1) % 2 ^ 64 })
                (s.joinDec cx.id x.core x.rec_.launch x.rec_.gang x.rec_.join).unwait x.rec_
              else s.missSpawn cx y (sha512t256 ((s.reuseMessage cx l x.rec_).map (fun b => b.1)))
      | _, _, _ => s)

/-! ## Parks that time out (R265) -/

/-- PARK_TIMEOUT: 100 ms after an entry's lanes first parked. -/
def execParkTimeout (wave pc depth : Nat) (s : State) : Host.Outcome State Fault Refusal :=
  .next (match s.wave? wave with
    | none => s
    | some w =>
      match w.frontier.find? (fun e => e.pc == pc && e.depth == depth && e.block.isPark) with
      | some e => (match e.block with
        | .park since vas =>
          if s.time < since + 100000000 then s
          else (s.raiseBlocked w e cTranslation (sortBy (fun a b => decide (a.1 < b.1)) vas)).settleRequests w.ctx
        | _ => s)
      | none => s)

/-! ## Forced waves and entries (R108, R192) -/

/-- WAVE_FORCED: the wave has been ready and unissued for 256 cycles. -/
def execWaveForced (wave : Nat) (s : State) : Host.Outcome State Fault Refusal :=
  .next (match s.wave? wave with
    | some w => if (s.offer w).ready then
      s.updWave wave (fun w => { w with forced := some (w.forced.getD s.time) }) else s
    | none => s)

/-- ENTRY_FORCED: 512 issues have passed the entry over. -/
def execEntryForced (wave pc depth : Nat) (s : State) : Host.Outcome State Fault Refusal :=
  .next (s.updWave wave (fun w => { w with frontier := w.frontier.map (fun (e : Entry) =>
    if e.isAt pc depth ∧ 512 ≤ e.passed then { e with forced := true } else e) }))

end Sys2Proof.Machine
end

