-- ==== Sys2Proof/Machine/Dispatch.lean ====
section
/-! DEFINITION. The dispatch of a step to the meaning of its instruction: one arm per row of the opcode table. -/

namespace Sys2Proof.Machine

def exec (i : Instr) (s : State) : Host.Outcome State Fault Refusal :=
  match i with
  | .iaddI32 f => Sys2Proof.Machine.execIaddI32 f s
  | .isubI32 f => Sys2Proof.Machine.execIsubI32 f s
  | .imulI32 f => Sys2Proof.Machine.execImulI32 f s
  | .iminI32 f => Sys2Proof.Machine.execIminI32 f s
  | .imaxI32 f => Sys2Proof.Machine.execImaxI32 f s
  | .andB32 f => Sys2Proof.Machine.execAndB32 f s
  | .orB32 f => Sys2Proof.Machine.execOrB32 f s
  | .xorB32 f => Sys2Proof.Machine.execXorB32 f s
  | .andnB32 f => Sys2Proof.Machine.execAndnB32 f s
  | .shlB32 f => Sys2Proof.Machine.execShlB32 f s
  | .shrB32 f => Sys2Proof.Machine.execShrB32 f s
  | .sraB32 f => Sys2Proof.Machine.execSraB32 f s
  | .movB32 f => Sys2Proof.Machine.execMovB32 f s
  | .notB32 f => Sys2Proof.Machine.execNotB32 f s
  | .popcB32 f => Sys2Proof.Machine.execPopcB32 f s
  | .movi f => Sys2Proof.Machine.execMovi f s
  | .iadd f => Sys2Proof.Machine.execIadd f s
  | .isub f => Sys2Proof.Machine.execIsub f s
  | .imul f => Sys2Proof.Machine.execImul f s
  | .imulh f => Sys2Proof.Machine.execImulh f s
  | .imad f => Sys2Proof.Machine.execImad f s
  | .idiv f => Sys2Proof.Machine.execIdiv f s
  | .irem f => Sys2Proof.Machine.execIrem f s
  | .imin f => Sys2Proof.Machine.execImin f s
  | .imax f => Sys2Proof.Machine.execImax f s
  | .iabs f => Sys2Proof.Machine.execIabs f s
  | .ineg f => Sys2Proof.Machine.execIneg f s
  | .and f => Sys2Proof.Machine.execAnd f s
  | .or f => Sys2Proof.Machine.execOr f s
  | .xor f => Sys2Proof.Machine.execXor f s
  | .andn f => Sys2Proof.Machine.execAndn f s
  | .not f => Sys2Proof.Machine.execNot f s
  | .shl f => Sys2Proof.Machine.execShl f s
  | .shr f => Sys2Proof.Machine.execShr f s
  | .sra f => Sys2Proof.Machine.execSra f s
  | .rol f => Sys2Proof.Machine.execRol f s
  | .bfx f => Sys2Proof.Machine.execBfx f s
  | .bfi f => Sys2Proof.Machine.execBfi f s
  | .popc f => Sys2Proof.Machine.execPopc f s
  | .clz f => Sys2Proof.Machine.execClz f s
  | .ctz f => Sys2Proof.Machine.execCtz f s
  | .brev f => Sys2Proof.Machine.execBrev f s
  | .icmp f => Sys2Proof.Machine.execIcmp f s
  | .mov f => Sys2Proof.Machine.execMov f s
  | .sel f => Sys2Proof.Machine.execSel f s
  | .lea f => Sys2Proof.Machine.execLea f s
  | .xset f => Sys2Proof.Machine.execXset f s
  | .xadd f => Sys2Proof.Machine.execXadd f s
  | .moviImm32 f => Sys2Proof.Machine.execMoviImm32 f s
  | .iaddImm32 f => Sys2Proof.Machine.execIaddImm32 f s
  | .pand f => Sys2Proof.Machine.execPand f s
  | .por f => Sys2Proof.Machine.execPor f s
  | .pxor f => Sys2Proof.Machine.execPxor f s
  | .pnot f => Sys2Proof.Machine.execPnot f s
  | .vote f => Sys2Proof.Machine.execVote f s
  | .ballot f => Sys2Proof.Machine.execBallot f s
  | .shfl f => Sys2Proof.Machine.execShfl f s
  | .redux f => Sys2Proof.Machine.execRedux f s
  | .bra f => Sys2Proof.Machine.execBra f s
  | .brx f => Sys2Proof.Machine.execBrx f s
  | .call f => Sys2Proof.Machine.execCall f s
  | .callx f => Sys2Proof.Machine.execCallx f s
  | .ret f => Sys2Proof.Machine.execRet f s
  | .exit f => Sys2Proof.Machine.execExit f s
  | .rgive f => Sys2Proof.Machine.execRgive f s
  | .rclaim f => Sys2Proof.Machine.execRclaim f s
  | .repack f => Sys2Proof.Machine.execRepack f s
  | .krnLaunch f => Sys2Proof.Machine.execKrnLaunch f s
  | .fadd f => Sys2Proof.Machine.execFadd f s
  | .fsub f => Sys2Proof.Machine.execFsub f s
  | .fmul f => Sys2Proof.Machine.execFmul f s
  | .fma f => Sys2Proof.Machine.execFma f s
  | .fmin f => Sys2Proof.Machine.execFmin f s
  | .fmax f => Sys2Proof.Machine.execFmax f s
  | .fcmp f => Sys2Proof.Machine.execFcmp f s
  | .fclass f => Sys2Proof.Machine.execFclass f s
  | .frnd f => Sys2Proof.Machine.execFrnd f s
  | .fdiv f => Sys2Proof.Machine.execFdiv f s
  | .fsqrt f => Sys2Proof.Machine.execFsqrt f s
  | .frcp f => Sys2Proof.Machine.execFrcp f s
  | .frsq f => Sys2Proof.Machine.execFrsq f s
  | .fexp2 f => Sys2Proof.Machine.execFexp2 f s
  | .flog2 f => Sys2Proof.Machine.execFlog2 f s
  | .fsin f => Sys2Proof.Machine.execFsin f s
  | .fcos f => Sys2Proof.Machine.execFcos f s
  | .fscale f => Sys2Proof.Machine.execFscale f s
  | .fexpo f => Sys2Proof.Machine.execFexpo f s
  | .faddF64 f => Sys2Proof.Machine.execFaddF64 f s
  | .fsubF64 f => Sys2Proof.Machine.execFsubF64 f s
  | .fmulF64 f => Sys2Proof.Machine.execFmulF64 f s
  | .fmaF64 f => Sys2Proof.Machine.execFmaF64 f s
  | .fminF64 f => Sys2Proof.Machine.execFminF64 f s
  | .fmaxF64 f => Sys2Proof.Machine.execFmaxF64 f s
  | .fcmpF64 f => Sys2Proof.Machine.execFcmpF64 f s
  | .fclassF64 f => Sys2Proof.Machine.execFclassF64 f s
  | .frndF64 f => Sys2Proof.Machine.execFrndF64 f s
  | .fdivF64 f => Sys2Proof.Machine.execFdivF64 f s
  | .fsqrtF64 f => Sys2Proof.Machine.execFsqrtF64 f s
  | .frcpF64 f => Sys2Proof.Machine.execFrcpF64 f s
  | .frsqF64 f => Sys2Proof.Machine.execFrsqF64 f s
  | .fscaleF64 f => Sys2Proof.Machine.execFscaleF64 f s
  | .fexpoF64 f => Sys2Proof.Machine.execFexpoF64 f s
  | .cvt f => Sys2Proof.Machine.execCvt f s
  | .qnt f => Sys2Proof.Machine.execQnt f s
  | .dqnt f => Sys2Proof.Machine.execDqnt f s
  | .bmax f => Sys2Proof.Machine.execBmax f s
  | .pack f => Sys2Proof.Machine.execPack f s
  | .unpack f => Sys2Proof.Machine.execUnpack f s
  | .mma f => Sys2Proof.Machine.execMma f s
  | .mmas f => Sys2Proof.Machine.execMmas f s
  | .mzero f => Sys2Proof.Machine.execMzero f s
  | .mdrain f => Sys2Proof.Machine.execMdrain f s
  | .mdrainSp f => Sys2Proof.Machine.execMdrainSp f s
  | .mmeta f => Sys2Proof.Machine.execMmeta f s
  | .mstat f => Sys2Proof.Machine.execMstat f s
  | .ldG f => Sys2Proof.Machine.execLdG f s
  | .stG f => Sys2Proof.Machine.execStG f s
  | .ldSp f => Sys2Proof.Machine.execLdSp f s
  | .stSp f => Sys2Proof.Machine.execStSp f s
  | .ldRo f => Sys2Proof.Machine.execLdRo f s
  | .ldAcq f => Sys2Proof.Machine.execLdAcq f s
  | .stRel f => Sys2Proof.Machine.execStRel f s
  | .ldv f => Sys2Proof.Machine.execLdv f s
  | .stv f => Sys2Proof.Machine.execStv f s
  | .pref f => Sys2Proof.Machine.execPref f s
  | .invL1 f => Sys2Proof.Machine.execInvL1 f s
  | .wbL1 f => Sys2Proof.Machine.execWbL1 f s
  | .atomAdd f => Sys2Proof.Machine.execAtomAdd f s
  | .atomMin f => Sys2Proof.Machine.execAtomMin f s
  | .atomMax f => Sys2Proof.Machine.execAtomMax f s
  | .atomAnd f => Sys2Proof.Machine.execAtomAnd f s
  | .atomOr f => Sys2Proof.Machine.execAtomOr f s
  | .atomXor f => Sys2Proof.Machine.execAtomXor f s
  | .atomXch f => Sys2Proof.Machine.execAtomXch f s
  | .atomCas f => Sys2Proof.Machine.execAtomCas f s
  | .fatomAdd f => Sys2Proof.Machine.execFatomAdd f s
  | .redAdd f => Sys2Proof.Machine.execRedAdd f s
  | .redMin f => Sys2Proof.Machine.execRedMin f s
  | .redMax f => Sys2Proof.Machine.execRedMax f s
  | .redAnd f => Sys2Proof.Machine.execRedAnd f s
  | .redOr f => Sys2Proof.Machine.execRedOr f s
  | .redXor f => Sys2Proof.Machine.execRedXor f s
  | .hgat f => Sys2Proof.Machine.execHgat f s
  | .cpy f => Sys2Proof.Machine.execCpy f s
  | .cpyMx f => Sys2Proof.Machine.execCpyMx f s
  | .cpyCk f => Sys2Proof.Machine.execCpyCk f s
  | .wait f => Sys2Proof.Machine.execWait f s
  | .semInc f => Sys2Proof.Machine.execSemInc f s
  | .semWait f => Sys2Proof.Machine.execSemWait f s
  | .semSet f => Sys2Proof.Machine.execSemSet f s
  | .barArrive f => Sys2Proof.Machine.execBarArrive f s
  | .barWait f => Sys2Proof.Machine.execBarWait f s
  | .barSync f => Sys2Proof.Machine.execBarSync f s
  | .fenceAcq f => Sys2Proof.Machine.execFenceAcq f s
  | .fenceRel f => Sys2Proof.Machine.execFenceRel f s
  | .fenceAr f => Sys2Proof.Machine.execFenceAr f s
  | .sramMode f => Sys2Proof.Machine.execSramMode f s
  | .tskSpawn f => Sys2Proof.Machine.execTskSpawn f s
  | .tskSpawnp f => Sys2Proof.Machine.execTskSpawnp f s
  | .tskJoin f => Sys2Proof.Machine.execTskJoin f s
  | .tskPark f => Sys2Proof.Machine.execTskPark f s
  | .tskExit f => Sys2Proof.Machine.execTskExit f s
  | .reuInv f => Sys2Proof.Machine.execReuInv f s
  | .reuStat f => Sys2Proof.Machine.execReuStat f s
  | .rayCast f => Sys2Proof.Machine.execRayCast f s
  | .rayBeam f => Sys2Proof.Machine.execRayBeam f s
  | .rayAccept f => Sys2Proof.Machine.execRayAccept f s
  | .rayIgnore f => Sys2Proof.Machine.execRayIgnore f s
  | .rayTerm f => Sys2Proof.Machine.execRayTerm f s
  | .rayRd f => Sys2Proof.Machine.execRayRd f s
  | .rgnOpen f => Sys2Proof.Machine.execRgnOpen f s
  | .rgnCommit f => Sys2Proof.Machine.execRgnCommit f s
  | .rgnAbort f => Sys2Proof.Machine.execRgnAbort f s
  | .rgnStat f => Sys2Proof.Machine.execRgnStat f s
  | .colStart f => Sys2Proof.Machine.execColStart f s
  | .colReform f => Sys2Proof.Machine.execColReform f s
  | .colStat f => Sys2Proof.Machine.execColStat f s
  | .mapRd f => Sys2Proof.Machine.execMapRd f s
  | .mapAckInstr f => Sys2Proof.Machine.execMapAckInstr f s
  | .srGet f => Sys2Proof.Machine.execSrGet f s
  | .srSet f => Sys2Proof.Machine.execSrSet f s
  | .trap f => Sys2Proof.Machine.execTrap f s
  | .tret f => Sys2Proof.Machine.execTret f s
  | .brk f => Sys2Proof.Machine.execBrk f s
  | .nop f => Sys2Proof.Machine.execNop f s
  | .halt f => Sys2Proof.Machine.execHalt f s
  | .profRd f => Sys2Proof.Machine.execProfRd f s
  | .ctxCreate m => Sys2Proof.Machine.execCtxCreate m s
  | .ctxDestroy m => Sys2Proof.Machine.execCtxDestroy m s
  | .ctxPolicy m => Sys2Proof.Machine.execCtxPolicy m s
  | .memMap m => Sys2Proof.Machine.execMemMap m s
  | .memUnmap m => Sys2Proof.Machine.execMemUnmap m s
  | .launch m => Sys2Proof.Machine.execLaunch m s
  | .ctxHalt m => Sys2Proof.Machine.execCtxHalt m s
  | .ctxResume m => Sys2Proof.Machine.execCtxResume m s
  | .mapAck m => Sys2Proof.Machine.execMapAck m s
  | .ckpt m => Sys2Proof.Machine.execCkpt m s
  | .restore m => Sys2Proof.Machine.execRestore m s
  | .ckWindow m => Sys2Proof.Machine.execCkWindow m s
  | .attest m => Sys2Proof.Machine.execAttest m s
  | .mapSnap m => Sys2Proof.Machine.execMapSnap m s
  | .powerLimit m => Sys2Proof.Machine.execPowerLimit m s
  | .relaySet m => Sys2Proof.Machine.execRelaySet m s
  | .peerClear m => Sys2Proof.Machine.execPeerClear m s
  | .mapRebuild m => Sys2Proof.Machine.execMapRebuild m s
  | .geomIn m => Sys2Proof.Machine.execGeomIn m s
  | .fwWrite m => Sys2Proof.Machine.execFwWrite m s
  | .fwCommit m => Sys2Proof.Machine.execFwCommit m s
  | .loadDataLands op fresh => Sys2Proof.Machine.execLoadDataLands op fresh s
  | .storePerformed op => Sys2Proof.Machine.execStorePerformed op s
  | .atomicAtHome op => Sys2Proof.Machine.execAtomicAtHome op s
  | .copyComplete op => Sys2Proof.Machine.execCopyComplete op s
  | .cpyMxFollowOn op => Sys2Proof.Machine.execCpyMxFollowOn op s
  | .matrixCmdStart core engine => Sys2Proof.Machine.execMatrixCmdStart core engine s
  | .matrixCmdComplete core engine => Sys2Proof.Machine.execMatrixCmdComplete core engine s
  | .queueDeliveryPush op => Sys2Proof.Machine.execQueueDeliveryPush op s
  | .barrierRelease gang bar => Sys2Proof.Machine.execBarrierRelease gang bar s
  | .semWaitPass ctx core sem => Sys2Proof.Machine.execSemWaitPass ctx core sem s
  | .rclaimGrant gang group core partition => Sys2Proof.Machine.execRclaimGrant gang group core partition s
  | .repackMove wave => Sys2Proof.Machine.execRepackMove wave s
  | .regionOpenRelease gang => Sys2Proof.Machine.execRegionOpenRelease gang s
  | .regionSnapshotDone gang => Sys2Proof.Machine.execRegionSnapshotDone gang s
  | .commitPoint gang => Sys2Proof.Machine.execCommitPoint gang s
  | .commitDrainDone gang => Sys2Proof.Machine.execCommitDrainDone gang s
  | .commitTokenReturn gang core => Sys2Proof.Machine.execCommitTokenReturn gang core s
  | .rollback gang => Sys2Proof.Machine.execRollback gang s
  | .remountReplayStart gang => Sys2Proof.Machine.execRemountReplayStart gang s
  | .gangKill gang => Sys2Proof.Machine.execGangKill gang s
  | .gangRelaunch gang => Sys2Proof.Machine.execGangRelaunch gang s
  | .launchComplete launch => Sys2Proof.Machine.execLaunchComplete launch s
  | .trapEntry wave => Sys2Proof.Machine.execTrapEntry wave s
  | .siblingStop wave => Sys2Proof.Machine.execSiblingStop wave s
  | .poisonContainment wave => Sys2Proof.Machine.execPoisonContainment wave s
  | .dispatcherStep => Sys2Proof.Machine.execDispatcherStep s
  | .taskWaveIssue core partition => Sys2Proof.Machine.execTaskWaveIssue core partition s
  | .reuseLookup spawn => Sys2Proof.Machine.execReuseLookup spawn s
  | .reuseHitCopyDone spawn => Sys2Proof.Machine.execReuseHitCopyDone spawn s
  | .passStart ctx => Sys2Proof.Machine.execPassStart ctx s
  | .treeletLoaded pass => Sys2Proof.Machine.execTreeletLoaded pass s
  | .segmentCommit pass segment => Sys2Proof.Machine.execSegmentCommit pass segment s
  | .passClose pass => Sys2Proof.Machine.execPassClose pass s
  | .rayAppendComplete op => Sys2Proof.Machine.execRayAppendComplete op s
  | .anyHitCandidate pass segment ray => Sys2Proof.Machine.execAnyHitCandidate pass segment ray s
  | .collectiveComplete op => Sys2Proof.Machine.execCollectiveComplete op s
  | .moduleReset survey => Sys2Proof.Machine.execModuleReset survey s
  | .mainInputOutOfRange => Sys2Proof.Machine.execMainInputOutOfRange s
  | .clockLower mhz => Sys2Proof.Machine.execClockLower mhz s
  | .clockRaise mhz => Sys2Proof.Machine.execClockRaise mhz s
  | .telemetry power temps => Sys2Proof.Machine.execTelemetry power temps s
  | .timestampSyncSend => Sys2Proof.Machine.execTimestampSyncSend s
  | .timestampSync sync => Sys2Proof.Machine.execTimestampSync sync s
  | .portDown port => Sys2Proof.Machine.execPortDown port s
  | .portUp port => Sys2Proof.Machine.execPortUp port s
  | .flitCrcFail port flit => Sys2Proof.Machine.execFlitCrcFail port flit s
  | .remoteResponse op words => Sys2Proof.Machine.execRemoteResponse op words s
  | .remoteTimeout op => Sys2Proof.Machine.execRemoteTimeout op s
  | .peerRequest req => Sys2Proof.Machine.execPeerRequest req s
  | .unsupportedRequest port tag => Sys2Proof.Machine.execUnsupportedRequest port tag s
  | .unknownVendorMessage port tag => Sys2Proof.Machine.execUnknownVendorMessage port tag s
  | .relayForward msg => Sys2Proof.Machine.execRelayForward msg s
  | .utenaurnFrame frame => Sys2Proof.Machine.execUtenaurnFrame frame s
  | .utenaurnLaneDown lane up => Sys2Proof.Machine.execUtenaurnLaneDown lane up s
  | .stackLost stack => Sys2Proof.Machine.execStackLost stack s
  | .dieLost die => Sys2Proof.Machine.execDieLost die s
  | .ckptQuiesceTimeout => Sys2Proof.Machine.execCkptQuiesceTimeout s
  | .ckptWriteDone => Sys2Proof.Machine.execCkptWriteDone s
  | .mapAckDeadline ctx => Sys2Proof.Machine.execMapAckDeadline ctx s
  | .mapStaleForcedRollback gang => Sys2Proof.Machine.execMapStaleForcedRollback gang s
  | .farrierLaneSwap core group lane => Sys2Proof.Machine.execFarrierLaneSwap core group lane s
  | .farrierCoreRetire core => Sys2Proof.Machine.execFarrierCoreRetire core s
  | .farrierUnitRetire unit => Sys2Proof.Machine.execFarrierUnitRetire unit s
  | .errorWindowExpiry unit => Sys2Proof.Machine.execErrorWindowExpiry unit s
  | .rowScoreHalve => Sys2Proof.Machine.execRowScoreHalve s
  | .groomClearPage readback => Sys2Proof.Machine.execGroomClearPage readback s
  | .preemption gang => Sys2Proof.Machine.execPreemption gang s
  | .shadowBankSwap core => Sys2Proof.Machine.execShadowBankSwap core s
  | .spillComplete core => Sys2Proof.Machine.execSpillComplete core s
  | .saveSpaceExhausted core => Sys2Proof.Machine.execSaveSpaceExhausted core s
  | .restorePlacement gang => Sys2Proof.Machine.execRestorePlacement gang s
  | .waveForced wave => Sys2Proof.Machine.execWaveForced wave s
  | .entryForced wave pc depth => Sys2Proof.Machine.execEntryForced wave pc depth s
  | .taskGangQueue ctx => Sys2Proof.Machine.execTaskGangQueue ctx s
  | .taskGangRelease gang => Sys2Proof.Machine.execTaskGangRelease gang s
  | .taskRefill core => Sys2Proof.Machine.execTaskRefill core s
  | .sceneRelease ctx scene => Sys2Proof.Machine.execSceneRelease ctx scene s
  | .passStreamStop pass => Sys2Proof.Machine.execPassStreamStop pass s
  | .geomPageRequest ctx scene treelet => Sys2Proof.Machine.execGeomPageRequest ctx scene treelet s
  | .parkTimeout wave pc depth => Sys2Proof.Machine.execParkTimeout wave pc depth s
  | .enginePageTimeout op => Sys2Proof.Machine.execEnginePageTimeout op s
  | .freezeTimeout core partition => Sys2Proof.Machine.execFreezeTimeout core partition s
  | .monitorSample => Sys2Proof.Machine.execMonitorSample s
  | .colMsgStart m => Sys2Proof.Machine.execColMsgStart m s
  | .colMsgData m => Sys2Proof.Machine.execColMsgData m s
  | .colMsgResult m => Sys2Proof.Machine.execColMsgResult m s
  | .colMsgAck m => Sys2Proof.Machine.execColMsgAck m s
  | .colMsgAbort m => Sys2Proof.Machine.execColMsgAbort m s
  | .colMsgReform m => Sys2Proof.Machine.execColMsgReform m s
  | .colAckTimeout msg => Sys2Proof.Machine.execColAckTimeout msg s
  | .colStartTimeout op => Sys2Proof.Machine.execColStartTimeout op s
  | .abortRecordExpiry tenant setId seq => Sys2Proof.Machine.execAbortRecordExpiry tenant setId seq s
  | .debugAttach wave => Sys2Proof.Machine.execDebugAttach wave s
  | .debugDetach wave => Sys2Proof.Machine.execDebugDetach wave s
  | .debugFreeze wave => Sys2Proof.Machine.execDebugFreeze wave s
  | .debugThaw wave => Sys2Proof.Machine.execDebugThaw wave s
  | .debugResume wave => Sys2Proof.Machine.execDebugResume wave s
  | .debugStep wave => Sys2Proof.Machine.execDebugStep wave s
  | .debugHaltGroup wave => Sys2Proof.Machine.execDebugHaltGroup wave s
  | .monitorConfigure wave value => Sys2Proof.Machine.execMonitorConfigure wave value s
  | .monitorClear wave value => Sys2Proof.Machine.execMonitorClear wave value s
  | .sramModeChangeDone op => Sys2Proof.Machine.execSramModeChangeDone op s

end Sys2Proof.Machine
end

