-- ==== Sys2Proof/Machine/Place.lean ====
section
/-! DEFINITION. A wave placed by hand to run one instruction (`State.withFetchWord`): a launch of one wave on core 0, with
its page table, its clause header and its words in memory (log 20). -/

namespace Sys2Proof.Machine

/-- The code's virtual page, and where the clause header and the instruction stand in it. -/
def probeVa : Nat := pageBytes
def probePc : Nat := probeVa + 4

/-- Physical pages of the probe: root, level 2, level 3 and code, all on stack 0 to 3. -/
def probeRoot : Nat := 0
def probePages : List (Nat × Nat) :=
  -- (address, 8-byte value): level 1 entry 0, level 2 entry 0, level 3 entry 1 (V, X, tenant 1, PPN 3)
  [(0, 2 ^ 16 * (pageBytes / 65536) + 1), (pageBytes, 2 ^ 16 * (2 * pageBytes / 65536) + 1),
   (2 * pageBytes + 8, 2 ^ 48 + 2 ^ 13 * 3 + 2 ^ 7 + 1)]

/-- The probe's memory: the page table, a mixed-class header of one instruction without waits, and its three words. -/
def probeMem (m : List Host.Cell) (w : Nat) : List Host.Cell :=
  let m := probePages.foldl (fun m e => writeBytes m e.1 (toBytes 8 e.2)) m
  writeBytes m (3 * pageBytes) (toBytes 4 0xF1C3FFFF ++ toBytes 12 w)

def probeRecord : LaunchRec :=
  { khdr := 0, args := 0, gx := 1, gy := 1, gz := 1, flags := 0, relaunch := 0, logBase := 0, exitRec := 0, done := 0,
    slots := List.replicate 8 0, bytes := [] }

def probeHdr : KHdr :=
  { flags := 0, entry := probeVa, codeSize := 16, group := 32, gang := 1, frontier := 8, regs := 64, scalars := 64,
    preload := 0, barriers := 8, spBanks := 0, fifoBanks := 0, roles := [(1, 64)], regionLog := 0 }

def probeCtx : Ctx :=
  { id := 0, cls := 1, tenant := 1, salt := [], taskArea := 0, taskPages := 1, root := probeRoot }

def probeLaunch (id : Nat) : Launch :=
  { id := id, ctx := 0, tag := 0, device := false, record := probeRecord, hdr := probeHdr
    headers := [probeVa, probePc + 4, probePc + 8, probePc + 12], codeHash := [], recordVa := 0, recordPage := 0
    acceptedAt := 0, gangs := 1, nextGang := 1 }

def probeGroup : Group :=
  { linear := 0, places := [{ core := 0, spBanks := [0], sp := [] }], bars := List.replicate 8 {} }

def probeGang (id launch : Nat) : Gang :=
  { id := id, launch := launch, ctx := 0, index := 0, acceptedAt := 0, first := 0, st := .placed,
    groups := [probeGroup] }

def probeWave (id launch gang : Nat) : Wave :=
  { id := id, ctx := 0, launch := launch, gang := some gang, group := 0, index := 0, role := 0, task := false, core := 0,
    partition := 0, age := 0
    lanes := List.replicate 32 { v := List.replicate 64 {}, o := List.replicate 8 {} }
    scalars := List.replicate 64 {}, nscalars := 64, regs := 64, maxEntries := 8, slots := List.replicate 8 0
    frontier := [{ pc := probeVa, depth := 0, prio := 0, mask := Mask.all }] }

/-- The probe's units beside those of other contexts. -/
def State.withProbe (s : State) (nbits w : Nat) : State :=
  let n := s.nextId
  { s with
    mem := probeMem s.mem (w % 2 ^ nbits)
    pool := { s.pool with used := [0, 1, 2, 3].foldl (fun u p => addSet p u) s.pool.used }
    ctxs := s.ctxs.filter (fun c => c.id != 0) ++ [probeCtx]
    launches := s.launches ++ [probeLaunch n]
    gangs := s.gangs ++ [probeGang (n + 1) n]
    waves := s.waves.filter (fun w => !(w.core == 0 && w.partition == 0)) ++ [probeWave (n + 2) n (n + 1)]
    cores := { (s.coreAt 0) with ctx := some 0, frozen := [] } :: s.cores.filter (fun c => c.idx != 0)
    nextId := n + 3
    agenda := Move.issue 0 0 0 0 [] :: s.agenda }

end Sys2Proof.Machine
end

