-- ==== Sys2Proof/Machine/Step.lean ====
section
/-! DEFINITION. One step of the machine: the next move of the agenda, or the default one. -/

namespace Sys2Proof.Machine

/-- The wave a partition's policy chooses issues its instruction (R107, R108, R190). -/
def State.issueFrom (s : State) (core partition : Nat) (residue : Mask) (late : List Nat) :
    Host.Outcome State Fault Refusal :=
  let s := s.unforced core partition
  match s.pickWave core partition late with
  | none => .next s
  | some w =>
    match s.offer w with
    | .idle => .next s
    | .park e va => .next (s.parkFetch w e va)
    | .raise old e is c => .next (s.raiseFetch w old e is c)
    | .run old e is i =>
      let F := i.form
      let s1 := ((s.standing w.id old e { is with residue := residue }).chosen core partition w (s.yields w e is)).throughLatch
        w.id (guardMask w e.mask F.pidx F.pneg) F
      match exec i s1 with
      | .next t => .next { t.afterIssue ((s1.wave? w.id).getD w) F with issue := none }
      | .fault f => .fault f
      | .refused r => .refused r

/-- Events whose reports reach the map controller in one cycle, in the order in which it applies them (R45): by the cause of
the change each makes, 0 for none. -/
def State.sameCycle (s : State) (is : List Instr) : List Instr :=
  let cause (i : Instr) : Nat := match exec i s with
    | .next t => if t.dev.rmap.version = s.dev.rmap.version then 0 else t.dev.rmap.cause
    | _ => 0
  sortBy (fun a b => decide (cause a < cause b)) is

/-- The next move of the agenda; without one, the first message received, else the next partition with a ready wave, else
a count of time (log 1). -/
def State.move (s : State) : Host.Outcome State Fault Refusal :=
  match s.agenda with
  | .event wait i :: rest =>
    let s := { s.pass wait with agenda := rest }
    if i.isEvent then exec i s else .next s
  | .issue wait core partition residue late :: rest =>
    State.issueFrom { s.pass wait with agenda := rest } core partition residue late
  | .command wait n :: rest =>
    let s := { s.pass wait with agenda := rest }
    match s.takeMessage n with
    | .error t => .next t
    | .ok (i, t) => exec i t
  | .together wait is :: rest => .next { s.pass wait with agenda := (State.sameCycle { s.pass wait with agenda := rest } is).map (fun i => .event 0 i) ++ rest }
  | .upset wait u :: rest => .next (State.upset { s.pass wait with agenda := rest } u)
  | [] =>
    match s.dev.inbox with
    | _ :: _ =>
      match s.takeMessage 0 with
      | .error t => .next t
      | .ok (i, t) => exec i t
    | [] =>
      match s.turnTo with
      | some (core, partition) => State.issueFrom { s with turn := 4 * core + partition } core partition 0 []
      | none => .next (s.pass 1)

/-- ONE STEP: a move, and what its end of a wave lets arrive (R187). -/
def step (s : State) : Host.Outcome State Fault Refusal :=
  match s.move with
  | .next t => .next t.lateRanks
  | .fault f => .fault f
  | .refused r => .refused r

/-- The state with one instruction, numbered as the opcode table numbers it, where the next step fetches (log 20). -/
def State.withFetchWord (s : State) (nbits w : Nat) : State := s.withProbe nbits w

end Sys2Proof.Machine
end

