-- ==== Sys2Proof/Safety.lean ====
section
/-! DEFINITION. The terms of the statements: what a state keeps, when an instruction completes, what completing leaves
as it was. -/

namespace Sys2Proof.Machine

/-! ## What a state keeps -/

/-- The memory's canonical form: addresses strictly rising, no listed zero (an unlisted byte reads 0, log 4). -/
abbrev State.memWf (s : State) : Prop := cellsWf s.mem = true

/-! ## When an instruction of Glezu completes -/

/-- The wave stands where its instruction has its own effect: the encoding is legal here (R347) and no region forbids it
(R287), some lane is active (R340), no pure task runs what purity forbids (R144), no hardware error strikes the issue
(R243), and the wave has its 32 lanes and its frontier the entries it may have (R195). -/
def Form.issues (F : Form) (env : Env) : Bool :=
  F.legal env && !F.regionBad env && env.act != 0 && !(F.notPure && !env.pureLanes.isEmpty) && env.is.residue == 0 &&
    env.w.lanes.length == 32 && decide (env.w.frontier.length + env.w.heldEntries.length ≤ env.w.maxEntries)

/-- The next instruction lies in the clause or at a header: lanes may fall through (R338, R374). -/
def Env.nextOk (env : Env) : Bool := !env.is.last || env.headers.contains env.is.next

/-- It has its own effect and all its lanes can go on behind it. -/
def Form.completes (F : Form) (env : Env) : Bool := F.issues env && env.nextOk

/-- Lane l of the wave stands at an instruction, unblocked, in an entry of at least that priority. -/
def Wave.laneAt (w : Wave) (l pc depth prio : Nat) : Bool :=
  w.frontier.any (fun e =>
    e.pc == pc && e.depth == depth && e.block == .none && hasLane e.mask l && decide (prio ≤ e.prio))

/-- Every lane of the issuing entry stands at the next instruction. -/
def Env.movedOn (env : Env) (w : Wave) : Prop :=
  ∀ l ∈ lanesOf env.e.mask, w.laneAt l env.is.next env.e.depth env.e.prio = true

/-! ## What stays as it was -/

/-- Everything of the wave but its lanes, its frontier and what the issue slot keeps count of (R108, R192, R222, R314,
R324, R341, R417): scalars, slots, counters, trap registers, the collective record, its place, its mode. -/
def Wave.kept (w t : Wave) : Prop :=
  t = { w with
    lanes := t.lanes, frontier := t.frontier, issued := t.issued, forced := t.forced,
    windows := t.windows, skid := t.skid, hold := t.hold, latch := t.latch, abufs := t.abufs }

/-- The group's count of instructions takes this one (R330). -/
def State.counted (s : State) (env : Env) : State :=
  match env.w.gang with
  | some g => s.updGroup g env.w.group (fun r => { r with issued := r.issued + 1 })
  | none => s

/-- Of the whole machine only the issuing wave and its group's count of instructions may differ: memory, every other
wave, cores, contexts, operations in flight and the device are as they were. -/
def State.onlyWave (s : State) (env : Env) (t : State) : Prop :=
  t = { s with waves := t.waves, gangs := (s.counted env).gangs } ∧ ∀ j, j ≠ env.w.id → t.wave? j = s.wave? j

/-- An instruction of registers alone completed: it moved on, its lanes hold what `lanes` says, the rest is as it was. -/
def State.wrote (s : State) (env : Env) (lanes : Nat → Lane) (o : Host.Outcome State Fault Refusal) : Prop :=
  ∃ t w, o = .next t ∧ s.onlyWave env t ∧ t.wave? env.w.id = some w ∧ env.w.kept w ∧ env.movedOn w ∧
    ∀ l ∈ laneList, w.lane l = lanes l

/-- Lanes of the issuing entry moved to where `dest` sends them; the rest is as after `wrote`. -/
def State.jumped (s : State) (env : Env) (lanes : Nat → Lane) (dest : Nat → Go) (o : Host.Outcome State Fault Refusal) :
    Prop :=
  ∃ t w, o = .next t ∧ s.onlyWave env t ∧ t.wave? env.w.id = some w ∧ env.w.kept w ∧
    (∀ l ∈ lanesOf env.e.mask, w.laneAt l (dest l).pc (dest l).depth (dest l).prio = true) ∧
    ∀ l ∈ laneList, w.lane l = lanes l

/-- A lane after its instruction: queue registers popped (R224), the words in D, every other register as it was. -/
def Lane.took (lane : Lane) (F : Form) (slot : Slot) (ws : List PWord) : Lane := (lane.pop F.pops).put slot ws

/-- The last-result latch holds the words as well (R218). -/
def Lane.latched (lane : Lane) (ws : List PWord) : Lane := { lane with lt := { lo := wordAt ws 0, hi := wordAt ws 1 } }

/-- The lanes after a form that writes `ws l` to slot `sl l` of each active lane, and to lt. -/
def Env.results (env : Env) (F : Form) (sl : Nat → Slot) (ws : Nat → List PWord) (l : Nat) : Lane :=
  if hasLane env.act l then ((env.w.lane l).took F (sl l) (ws l)).latched (ws l) else env.w.lane l

/-- The same for a form that leaves lt alone. -/
def Env.plainResults (env : Env) (F : Form) (sl : Nat → Slot) (ws : Nat → List PWord) (l : Nat) : Lane :=
  if hasLane env.act l then (env.w.lane l).took F (sl l) (ws l) else env.w.lane l

/-- The lanes after a form that writes predicate k of each active lane. -/
def Env.predicates (env : Env) (F : Form) (k : Nat) (b : Nat → Bool) (l : Nat) : Lane :=
  if hasLane env.act l then ((env.w.lane l).pop F.pops).setPred k (b l) else env.w.lane l

/-- The operands of every active lane can be read (unmarked, inside their windows), and D names a register. -/
def Env.readable (env : Env) (F : Form) (x : Nat → Args) (sl : Nat → Slot) : Prop :=
  ∀ l ∈ env.lanes, F.args env.w (env.w.lane l) = .ok (x l) ∧ F.d.slot env.w.regs (env.w.lane l) = .ok (sl l)

/-- An instruction writes words to D in every active lane: `ok env l ws` says which words lane l gets, `lt` whether the
latch gets them too. It completes whenever each active lane has such words and D names a register. -/
def Writes (i : Instr) (lt : Bool) (ok : Env → Nat → List PWord → Prop) : Prop :=
  ∀ (s : State) (env : Env) (sl : Nat → Slot) (ws : Nat → List PWord),
    s.env? i.form.pidx i.form.pneg = some env → i.form.completes env = true →
    (∀ l ∈ env.lanes, i.form.d.slot env.w.regs (env.w.lane l) = .ok (sl l) ∧ ok env l (ws l)) →
    s.wrote env (if lt then env.results i.form sl ws else env.plainResults i.form sl ws) (exec i s)

/-- An instruction writes to D a function of its operands, as every active lane reads them, and to lt where the form does
so. -/
def Computes (i : Instr) (lt : Bool) (v : Env → (Nat → Args) → Nat → List PWord) : Prop :=
  ∀ (s : State) (env : Env) (x : Nat → Args) (sl : Nat → Slot),
    s.env? i.form.pidx i.form.pneg = some env → i.form.completes env = true → env.readable i.form x sl →
    s.wrote env (if lt then env.results i.form sl (v env x) else env.plainResults i.form sl (v env x)) (exec i s)

/-- An instruction writes predicate k, by its operands as every active lane reads them. -/
def Decides (i : Instr) (k : Nat) (b : Env → (Nat → Args) → Nat → Bool) : Prop :=
  ∀ (s : State) (env : Env) (x : Nat → Args),
    s.env? i.form.pidx i.form.pneg = some env → i.form.completes env = true →
    (∀ l ∈ env.lanes, i.form.args env.w (env.w.lane l) = .ok (x l)) →
    s.wrote env (env.predicates i.form k (b env x)) (exec i s)

/-- A branch form sends each active lane where `ok` says, writes its return word where it has one, and sends the other
lanes of the entry to the next instruction with priority pf. It completes when the targets are headers, the others can
fall through, and the wave has room for the entries that form. -/
def Jumps (i : Instr) (pf : Nat) (ok : Env → Nat → Jump → Prop) : Prop :=
  ∀ (s : State) (env : Env) (j : Nat → Jump),
    s.env? i.form.pidx i.form.pneg = some env → i.form.issues env = true →
    (∀ l ∈ env.lanes, ok env l (j l) ∧ env.headers.contains (j l).pc = true) →
    (env.act = env.e.mask ∨ env.nextOk = true) →
    (((lanesOf env.e.mask).map (fun l => if hasLane env.act l then ((j l).pc, (j l).depth)
      else (env.is.next, env.e.depth))).dedup).length + env.w.frontier.length + env.w.heldEntries.length ≤ env.w.maxEntries + 1 →
    s.jumped env (fun l => if hasLane env.act l
        then (env.w.lane l).took i.form (j l).slot (wordsOf 2 (env.is.next + 2 ^ 56 * pf)) else env.w.lane l)
      (fun l => if hasLane env.act l then ⟨l, (j l).pc, (j l).depth, (j l).prio⟩
        else ⟨l, env.is.next, env.e.depth, pf⟩) (exec i s)

/-- An encoding that a rule does not accept raises illegal instruction and has no effect of its own (R311, R347). -/
def Refuses (i : Instr) (bad : Prop) : Prop :=
  ∀ (s : State) (env : Env), s.env? i.form.pidx i.form.pneg = some env → bad →
    exec i s = .next (s.takeTrap env { masks := [(0x01, env.scope)] })

/-- Lane l of the wave is held at the issuing instruction, blocked in a wait that `p` describes. -/
def Env.laneWaits (env : Env) (w : Wave) (l : Nat) (p : Block → Prop) : Prop :=
  ∃ e ∈ w.frontier, e.pc = env.is.pc ∧ e.depth = env.is.depth ∧ hasLane e.mask l = true ∧ p e.block

/-- The lanes after a form that writes none of their registers. -/
def Env.popped (env : Env) (F : Form) (l : Nat) : Lane :=
  if hasLane env.act l then (env.w.lane l).pop F.pops else env.w.lane l

/-- An instruction completed with an effect outside its wave: but for the waves and the count of its group the machine is
`base`, no other wave differs from base's, its own is `w0` but for what an issue changes, and it moved on. -/
def State.did (base : State) (env : Env) (w0 : Wave) (lanes : Nat → Lane) (o : Host.Outcome State Fault Refusal) : Prop :=
  ∃ t w, o = .next t ∧ t = { base with waves := t.waves, gangs := (base.counted env).gangs } ∧
    (∀ j, j ≠ env.w.id → t.wave? j = base.wave? j) ∧ t.wave? env.w.id = some w ∧ w0.kept w ∧ env.movedOn w ∧
    ∀ l ∈ laneList, w.lane l = lanes l

/-- The same of an instruction that waits: its lanes stay, blocked in a wait that `p` describes. -/
def State.held (base : State) (env : Env) (w0 : Wave) (lanes : Nat → Lane) (p : Block → Prop)
    (o : Host.Outcome State Fault Refusal) : Prop :=
  ∃ t w, o = .next t ∧ t = { base with waves := t.waves, gangs := (base.counted env).gangs } ∧
    (∀ j, j ≠ env.w.id → t.wave? j = base.wave? j) ∧ t.wave? env.w.id = some w ∧ w0.kept w ∧
    (∀ l ∈ lanesOf env.e.mask, env.laneWaits w l p) ∧ ∀ l ∈ laneList, w.lane l = lanes l

/-! ## Commands -/

/-- A command passes the checks of R61, R62 and R71: its sequence number, its scope, its context, its length. -/
def State.accepts (s : State) (type : Nat) (device : Bool) (m : Msg) (lenOk : Bool) : Bool :=
  s.serves type && s.seqOk type m &&
    (if type = 0x01 then decide (m.ctx < 64) else if device then m.ctx == 0xFF else decide (m.ctx < 64)) &&
    (device || (s.ctx? m.ctx).isSome) && lenOk && decide (m.len ≤ 4064) && m.body.length == m.len

/-- The checks of R61, R62, R68 and R71 before a command takes effect, in their order: the sequence, the scope, the context,
the length. `lenOk` is R71's length; no body has more than 4,064 bytes. -/
def CommandChecked (type : Nat) (device : Bool) (lenOk : Nat → Bool) (i : Msg → Instr) : Prop :=
  ∀ (m : Msg) (s : State),
    let t := s.advanceSeq type m.ctx
    let scope : Bool := if type = 0x01 then decide (m.ctx < 64) else if device then m.ctx == 0xFF else decide (m.ctx < 64)
    (s.serves type = false → exec (i m) s = .next (s.answer m 6)) ∧
    (s.serves type = true → s.seqOk type m = false → exec (i m) s = .next (s.answer m 3)) ∧
    (s.serves type = true → s.seqOk type m = true →
      (scope = false → exec (i m) s = .next (t.answer m 4)) ∧
      (scope = true → device = false → s.ctx? m.ctx = none → exec (i m) s = .next (t.answer m 2)) ∧
      (scope = true → device = true ∨ (s.ctx? m.ctx).isSome = true → lenOk m.len = false ∨ 4064 < m.len ∨ m.body.length ≠ m.len →
        exec (i m) s = .next (t.answer m 4)))

/-! ## Operations in flight -/

/-- The operation an instruction starts (R214). -/
def Env.starts (env : Env) (s : State) (lanes : Mask) (ctr : Option Ctr) (body : OpBody) : Op :=
  { id := s.nextId, wave := env.w.id, gang := env.w.gang, ctx := env.w.ctx, core := env.w.core, lanes := lanes, ctr := ctr,
    body := body, at_ := s.time, pc := env.is.pc, home := env.w.core }

/-- The machine with the operation in flight, its requests to other packages on their way (R258). -/
def State.inFlight (s : State) (o : Op) : State :=
  let t := { s with ops := s.ops ++ [o], nextId := s.nextId + 1 }
  if o.body.isRemote then t.sendOp o.id else t

/-- The wave with one more operation outstanding (R214). -/
def Env.ticked (env : Env) (k : Ctr) : Wave := { env.w with ctrs := env.w.ctrs.add k 1 }

/-- An operation started: its counter rose and the wave moved on. -/
def State.started (base : State) (env : Env) (lanes : Nat → Lane) (mask : Mask) (ctr : Ctr) (body : OpBody)
    (o : Host.Outcome State Fault Refusal) : Prop :=
  (base.inFlight (env.starts base mask (some ctr) body)).did env (env.ticked ctr) lanes o

/-! ## Values -/

/-- One unmarked word. -/
def word1 (v : Word) : List PWord := [{ val := v }]

/-- A number as a 32-bit word, and as a value of an integer type's width. -/
def w32 (n : Nat) : Word := BitVec.ofNat 32 n
def bv (ty n : Nat) : BitVec (tyWidth ty) := BitVec.ofNat _ n

/-- An exact integer as D receives it (R353, R355), and a bit pattern of a type's width. -/
def typed (ty : Nat) (sat : Bool) (r : Int) : List PWord := wordsOf (tyWords ty) (tyResult ty sat r)
def rawBits (ty : Nat) (v : BitVec (tyWidth ty)) : List PWord := wordsOf (tyWords ty) (tyExtend ty v.toNat)

end Sys2Proof.Machine

namespace Sys2Proof
open Machine

/-- A memory form's address (R430): 64 bits of base, signed offset and scaled index; 32 bits in scratchpad. -/
def F3.address (f : F3) (sp indexed : Bool) (base index : Nat) : Nat :=
  let off := f.imm.signExtend 64
  let idx := if f.w.six then (w32 index).signExtend 64 else (w32 index).setWidth 64
  let a := (BitVec.ofNat 64 base + off + if indexed then idx <<< f.w.scale else 0).toNat
  if sp then a % 2 ^ 32 else a

/-- Every active lane forms its address and may make its access now (R259 to R263, R248, R311). -/
def F3.reaches (f : F3) (F : Form) (s : State) (env : Env) (sp indexed : Bool) (asks : Asks) (a : Nat → Acc) : Prop :=
  ∀ l ∈ env.lanes, (a l).lane = l ∧
    (∃ b i, F.a.val env.w (env.w.lane l) = .ok b ∧ (indexed = true → F.b.val env.w (env.w.lane l) = .ok i) ∧
      (a l).va = f.address sp indexed b i) ∧
    (if sp then checkSp env (env.w.lane l) asks (a l).va else s.checkVa env (env.w.lane l) asks (a l).va) =
      .go (a l).loc (a l).pt

/-- Hints are for local memory (R434). -/
def F3.hinted (f : F3) (env : Env) (a : Nat → Acc) : Prop :=
  f.w.hint = 0 ∨ ∀ l ∈ env.lanes, (a l).loc.isRemote = false

/-- A load issues: the accesses of its active lanes are in flight, and a pure task that reads a retained launch record
makes no entry (R143, R433, R436). -/
def Loads (i : Instr) (f : F3) (k : LoadKind) (n : Nat) : Prop :=
  ∀ (s : State) (env : Env) (a : Nat → Acc) (sl : Nat → Slot),
    let asks : Asks := { kind := if k.ro then .ro else .load, bytes := n, write := false, cause := 1, noPark := f.w.queued,
                         atomic := k.atomic }
    s.env? i.form.pidx i.form.pneg = some env → i.form.completes env = true →
    f.reaches i.form s env k.sp k.indexed asks a → f.hinted env a →
    (∀ l ∈ env.lanes, i.form.d.slot env.w.regs (env.w.lane l) = .ok (sl l)) →
    s.started env
      (fun l => if hasLane env.act l && s.meetsRecord (a l) then (env.popped i.form l).dropsEntry else env.popped i.form l)
      env.act .ld
      (.load { lanes := env.lanes.map (fun l => (l, sl l)), words := ceilDiv n 4 } n (f.w.sx && !k.indexed)
        (k.bypass || k.acq) k.acq (f.w.hint == 2) k.ro (env.lanes.map a)) (exec i s)

/-- A store issues that no region holds back (R432, R436): each active lane's words, marks and all. -/
def Stores (i : Instr) (f : F3) (sp rel indexed : Bool) (data : Pos) : Prop :=
  ∀ (s : State) (env : Env) (a : Nat → Acc) (ws : Nat → List PWord),
    s.env? i.form.pidx i.form.pneg = some env → i.form.completes env = true →
    f.reaches i.form s env sp indexed { kind := .store, bytes := memBytes f.w.tyN, write := true, cause := 2 } a →
    f.hinted env a → (∀ l ∈ env.lanes, data.read env.w (env.w.lane l) = .ok (ws l)) →
    (sp = true ∨ env.buffering = false) →
    s.started env (env.popped i.form) env.act .st
      (.store (memBytes f.w.tyN) (f.w.hint == 2) rel (env.lanes.map (fun l => (a l, ws l)))) (exec i s)

/-- A floating result (R228, R230, R233, R385): g of the elements as they are read, saturated, both elements in .h16. -/
def F2.floats (f : F2) (wide : Bool) (env : Env) (x : Args) (g : Fmt → Nat → Nat → Nat → Nat) : List PWord :=
  let fm := f.fmt wide
  let at_ (e v : Nat) : Nat := fm.flush env.flush (element fm e v)
  wordsOf (floatWords wide) (elementwise fm (fun e => fm.sat f.fsat (g fm (at_ e x.a) (at_ e x.b) (at_ e x.c))))

/-- A code of each element in one word (R390, R395), in 16 bits for .h16 and else in 32. -/
def F2.codes (f : F2) (wide : Bool) (env : Env) (x : Args) (g : Fmt → Nat → Nat → Nat) : List PWord :=
  let fm := f.fmt wide
  wordsOf 1 (elementwise fm (fun e => g fm (if fm = h16 then 16 else 32) (fm.flush env.flush (element fm e x.a))))

/-- An atomic or a reduction issues (R443 to R446): an operation per active lane, or of `red` one per distinct word; with a
result it counts on ld, without on st, where a region holds it back (R286) and a deterministic launch buffers a floating
one (R305). -/
def Atomics (i : Instr) (f : F3) (op : AtomOp) (w : Nat) (sg red : Bool) : Prop :=
  ∀ (s : State) (env : Env) (a : Nat → Acc) (b c : Nat → Nat),
    let asks : Asks := { kind := .store, bytes := w / 8, write := true, cause := 4, atomic := true }
    let each : List AtomItem :=
      env.lanes.map (fun l => { acc := a l, b := BitVec.ofNat 64 (b l), c := BitVec.ofNat 64 (c l) })
    let items := if red then combine op w sg each else each
    let ret := !red && f.w.dN != 0xC9
    let det := op == .fadd && s.detLaunch env.w.launch
    s.env? i.form.pidx i.form.pneg = some env → i.form.completes env = true →
    f.reaches i.form s env false false asks a → f.hinted env a →
    (∀ l ∈ env.lanes, i.form.b.val env.w (env.w.lane l) = .ok (b l) ∧ i.form.c.val env.w (env.w.lane l) = .ok (c l)) →
    (ret = true → det = false → ∀ sl : Nat → Slot,
      (∀ l ∈ env.lanes, i.form.d.slot env.w.regs (env.w.lane l) = .ok (sl l)) →
      (s.dropCopies env.w.core items (w / 8)).started env (env.popped i.form) env.act .ld
        (.atom op w sg (some { lanes := env.lanes.map (fun l => (l, sl l)), words := w / 32 }) items []) (exec i s)) ∧
    (ret = false → env.buffering = false → det = false →
      (s.dropCopies env.w.core items (w / 8)).started env (env.popped i.form) env.act .st (.atom op w sg none items []) (exec i s)) ∧
    (ret = false → env.buffering = false → det = true →
      ((s.dropCopies env.w.core items (w / 8)).bufferAtoms env w items).started env (env.popped i.form) env.act .st .buffered (exec i s)) ∧
    (∀ g, ret = false → env.buffering = true → env.gang = some g →
      (((s.gangs.map (fun x => x.region.deferred)).flatten.filter (fun x => x.core == env.w.core)).length + items.length ≤ 256) →
      let deferred : List Deferred := items.map (fun x =>
        { key := env.key x.acc.lane, core := env.w.core, va := x.acc.va, w0 := env.is.w0, w1 := env.is.w1,
          body := .atom op w sg x.acc.loc x.b x.c })
      ((s.dropCopies env.w.core items (w / 8)).updRegion g.id (fun r => { r with deferred := r.deferred ++ deferred })).started env (env.popped i.form) env.act .st
        .buffered (exec i s))

end Sys2Proof
end

