-- ==== Sys2Proof/WellFormed.lean ====
section
/-! DEFINITION. Well-formed instructions: every field fits the place its encoding or its unit gives it. The fields of
Glezu's instructions are bit vectors and always fit. -/

namespace Sys2Proof

/-- A message's header fields fit (R61): CTX 8 bits, SEQ 32, TAG 64; LEN is the body's length, a multiple of 8, at most 4,064. -/
def Msg.wf (m : Msg) : Bool :=
  decide (m.ctx < 2 ^ 8) && decide (m.len ≤ 4064) && m.len % 8 == 0 && decide (m.seq < 2 ^ 32) && decide (m.tag < 2 ^ 64) &&
    m.body.length == m.len

/-- A collective message's header fields fit (R481). -/
def ColMsg.wf (m : ColMsg) : Bool :=
  decide (m.pkg < 2 ^ 14) && decide (m.flags < 2 ^ 8) && decide (m.tenant < 2 ^ 16) && decide (m.from_ < 2 ^ 16) &&
    decide (m.setId < 2 ^ 64) && decide (m.seq < 2 ^ 64) && decide (m.offset < 2 ^ 32) && decide (m.dest < 2 ^ 16) &&
    decide (m.nelem ≤ 1024)

/-- The units of a package (R37, R42): cores by map index, dies, stacks, ports, Utenaurn lanes. -/
def coreOk (n : Nat) : Bool := decide (n < 272)
def dieOk (n : Nat) : Bool := decide (n < 4)
def stackOk (n : Nat) : Bool := decide (n < 12)
def portOk (n : Nat) : Bool := decide (n < 24)

def HwUnit.wf : HwUnit → Bool
  | .lane c g l => coreOk c && decide (g < 8) && decide (l < 16)
  | .core c => coreOk c
  | .bank c b => coreOk c && decide (b < 32)
  | .quarter c p q => coreOk c && decide (p < 4) && decide (q < 4)
  | .way d sl w => dieOk d && decide (sl < 64) && decide (w < 12)
  | .engine c e => coreOk c && decide (e < 2)

/-- Is the instruction well formed? -/
def WellFormed : Instr → Bool
  | .ctxCreate m => m.wf
  | .ctxDestroy m => m.wf
  | .ctxPolicy m => m.wf
  | .memMap m => m.wf
  | .memUnmap m => m.wf
  | .launch m => m.wf
  | .ctxHalt m => m.wf
  | .ctxResume m => m.wf
  | .mapAck m => m.wf
  | .ckpt m => m.wf
  | .restore m => m.wf
  | .ckWindow m => m.wf
  | .attest m => m.wf
  | .mapSnap m => m.wf
  | .powerLimit m => m.wf
  | .relaySet m => m.wf
  | .peerClear m => m.wf
  | .mapRebuild m => m.wf
  | .geomIn m => m.wf
  | .fwWrite m => m.wf
  | .fwCommit m => m.wf
  | .matrixCmdStart core engine => coreOk core && decide (engine < 2)
  | .matrixCmdComplete core engine => coreOk core && decide (engine < 2)
  | .semWaitPass ctx core sem => decide (ctx < 64) && coreOk core && decide (sem < 32)
  | .rclaimGrant _ _ core partition => coreOk core && decide (partition < 4)
  | .commitTokenReturn _ core => coreOk core
  | .taskWaveIssue core partition => coreOk core && decide (partition < 4)
  | .passStart ctx => decide (ctx < 64)
  | .portDown port => portOk port
  | .portUp port => portOk port
  | .flitCrcFail port _ => portOk port
  | .unsupportedRequest port _ => portOk port
  | .unknownVendorMessage port _ => portOk port
  | .utenaurnLaneDown lane _ => decide (lane < 2)
  | .stackLost stack => stackOk stack
  | .dieLost die => dieOk die
  | .mapAckDeadline ctx => decide (ctx < 64)
  | .farrierLaneSwap core group lane => coreOk core && decide (group < 8) && decide (lane < 16)
  | .farrierCoreRetire core => coreOk core
  | .farrierUnitRetire unit => unit.wf
  | .errorWindowExpiry unit => unit.wf
  | .shadowBankSwap core => coreOk core
  | .spillComplete core => coreOk core
  | .saveSpaceExhausted core => coreOk core
  | .entryForced _ pc depth => decide (pc < 2 ^ 56) && decide (depth < 256)
  | .taskGangQueue ctx => decide (ctx < 64)
  | .taskRefill core => coreOk core
  | .sceneRelease ctx _ => decide (ctx < 64)
  | .geomPageRequest ctx _ _ => decide (ctx < 64)
  | .parkTimeout _ pc depth => decide (pc < 2 ^ 56) && decide (depth < 256)
  | .freezeTimeout core partition => coreOk core && decide (partition < 4)
  | .colMsgStart m => m.wf
  | .colMsgData m => m.wf
  | .colMsgResult m => m.wf
  | .colMsgAck m => m.wf
  | .colMsgAbort m => m.wf
  | .colMsgReform m => m.wf
  | .iaddI32 _
  | .isubI32 _
  | .imulI32 _
  | .iminI32 _
  | .imaxI32 _
  | .andB32 _
  | .orB32 _
  | .xorB32 _
  | .andnB32 _
  | .shlB32 _
  | .shrB32 _
  | .sraB32 _
  | .movB32 _
  | .notB32 _
  | .popcB32 _
  | .movi _
  | .iadd _
  | .isub _
  | .imul _
  | .imulh _
  | .imad _
  | .idiv _
  | .irem _
  | .imin _
  | .imax _
  | .iabs _
  | .ineg _
  | .and _
  | .or _
  | .xor _
  | .andn _
  | .not _
  | .shl _
  | .shr _
  | .sra _
  | .rol _
  | .bfx _
  | .bfi _
  | .popc _
  | .clz _
  | .ctz _
  | .brev _
  | .icmp _
  | .mov _
  | .sel _
  | .lea _
  | .xset _
  | .xadd _
  | .moviImm32 _
  | .iaddImm32 _
  | .pand _
  | .por _
  | .pxor _
  | .pnot _
  | .vote _
  | .ballot _
  | .shfl _
  | .redux _
  | .bra _
  | .brx _
  | .call _
  | .callx _
  | .ret _
  | .exit _
  | .rgive _
  | .rclaim _
  | .repack _
  | .krnLaunch _
  | .fadd _
  | .fsub _
  | .fmul _
  | .fma _
  | .fmin _
  | .fmax _
  | .fcmp _
  | .fclass _
  | .frnd _
  | .fdiv _
  | .fsqrt _
  | .frcp _
  | .frsq _
  | .fexp2 _
  | .flog2 _
  | .fsin _
  | .fcos _
  | .fscale _
  | .fexpo _
  | .faddF64 _
  | .fsubF64 _
  | .fmulF64 _
  | .fmaF64 _
  | .fminF64 _
  | .fmaxF64 _
  | .fcmpF64 _
  | .fclassF64 _
  | .frndF64 _
  | .fdivF64 _
  | .fsqrtF64 _
  | .frcpF64 _
  | .frsqF64 _
  | .fscaleF64 _
  | .fexpoF64 _
  | .cvt _
  | .qnt _
  | .dqnt _
  | .bmax _
  | .pack _
  | .unpack _
  | .mma _
  | .mmas _
  | .mzero _
  | .mdrain _
  | .mdrainSp _
  | .mmeta _
  | .mstat _
  | .ldG _
  | .stG _
  | .ldSp _
  | .stSp _
  | .ldRo _
  | .ldAcq _
  | .stRel _
  | .ldv _
  | .stv _
  | .pref _
  | .invL1 _
  | .wbL1 _
  | .atomAdd _
  | .atomMin _
  | .atomMax _
  | .atomAnd _
  | .atomOr _
  | .atomXor _
  | .atomXch _
  | .atomCas _
  | .fatomAdd _
  | .redAdd _
  | .redMin _
  | .redMax _
  | .redAnd _
  | .redOr _
  | .redXor _
  | .hgat _
  | .cpy _
  | .cpyMx _
  | .cpyCk _
  | .wait _
  | .semInc _
  | .semWait _
  | .semSet _
  | .barArrive _
  | .barWait _
  | .barSync _
  | .fenceAcq _
  | .fenceRel _
  | .fenceAr _
  | .sramMode _
  | .tskSpawn _
  | .tskSpawnp _
  | .tskJoin _
  | .tskPark _
  | .tskExit _
  | .reuInv _
  | .reuStat _
  | .rayCast _
  | .rayBeam _
  | .rayAccept _
  | .rayIgnore _
  | .rayTerm _
  | .rayRd _
  | .rgnOpen _
  | .rgnCommit _
  | .rgnAbort _
  | .rgnStat _
  | .colStart _
  | .colReform _
  | .colStat _
  | .mapRd _
  | .mapAckInstr _
  | .srGet _
  | .srSet _
  | .trap _
  | .tret _
  | .brk _
  | .nop _
  | .halt _
  | .profRd _
  | .loadDataLands _ _
  | .storePerformed _
  | .atomicAtHome _
  | .copyComplete _
  | .cpyMxFollowOn _
  | .queueDeliveryPush _
  | .barrierRelease _ _
  | .repackMove _
  | .regionOpenRelease _
  | .regionSnapshotDone _
  | .commitPoint _
  | .commitDrainDone _
  | .rollback _
  | .remountReplayStart _
  | .gangKill _
  | .gangRelaunch _
  | .launchComplete _
  | .trapEntry _
  | .siblingStop _
  | .poisonContainment _
  | .dispatcherStep
  | .reuseLookup _
  | .reuseHitCopyDone _
  | .treeletLoaded _
  | .segmentCommit _ _
  | .passClose _
  | .rayAppendComplete _
  | .anyHitCandidate _ _ _
  | .collectiveComplete _
  | .moduleReset _
  | .mainInputOutOfRange
  | .clockLower _
  | .clockRaise _
  | .telemetry _ _
  | .timestampSyncSend
  | .timestampSync _
  | .remoteResponse _ _
  | .remoteTimeout _
  | .peerRequest _
  | .relayForward _
  | .utenaurnFrame _
  | .ckptQuiesceTimeout
  | .ckptWriteDone
  | .mapStaleForcedRollback _
  | .rowScoreHalve
  | .groomClearPage _
  | .preemption _
  | .restorePlacement _
  | .waveForced _
  | .taskGangRelease _
  | .passStreamStop _
  | .enginePageTimeout _
  | .monitorSample
  | .colAckTimeout _
  | .colStartTimeout _
  | .abortRecordExpiry _ _ _
  | .debugAttach _
  | .debugDetach _
  | .debugFreeze _
  | .debugThaw _
  | .debugResume _
  | .debugStep _
  | .debugHaltGroup _
  | .monitorConfigure _ _
  | .monitorClear _ _
  | .sramModeChangeDone _ => true

end Sys2Proof
end

