-- ==== Sys2Proof/Certificates/Slice0/Obligations.lean ====
section
/-! DEFINITION. The statements for the provers. -/

open Sys2Proof Sys2Proof.Machine

/-! ## Integer, logic, predicate and wave instructions -/

/-- What the integer types mean (R353, R355): a source is read in the type's range and agrees with its low w bits; a
result is clamped with saturation, else reduced modulo 2^w; below 32 bits D holds it extended by its sign. -/
def Obligations.IntegerTypes : Prop :=
  ∀ ty, ty < 8 →
    (∀ n : Nat, tyMin ty ≤ tyVal ty n ∧ tyVal ty n ≤ tyMax ty ∧ ((2 ^ tyWidth ty : Nat) : Int) ∣ tyVal ty n - n) ∧
    (∀ r : Int, tyVal ty (tyResult ty true r) = min (max r (tyMin ty)) (tyMax ty)) ∧
    (∀ r : Int, ((2 ^ tyWidth ty : Nat) : Int) ∣ tyVal ty (tyResult ty false r) - r) ∧
    (∀ (sat : Bool) (r : Int), (tyResult ty sat r : Int) =
      tyVal ty (tyResult ty sat r) % (2 ^ (32 * tyWords ty) : Nat))

/-- The one-word integer instructions (R357), on 32-bit words. -/
def Obligations.OneWordIntegerResults : Prop :=
  ∀ f : F1,
    Computes (.iaddI32 f) true (fun _ x l => word1 (w32 (x l).a + w32 (x l).b)) ∧
    Computes (.isubI32 f) true (fun _ x l => word1 (w32 (x l).a - w32 (x l).b)) ∧
    Computes (.imulI32 f) true (fun _ x l => word1 (w32 (x l).a * w32 (x l).b)) ∧
    Computes (.iminI32 f) true (fun _ x l =>
      word1 (if (w32 (x l).a).slt (w32 (x l).b) then w32 (x l).a else w32 (x l).b)) ∧
    Computes (.imaxI32 f) true (fun _ x l =>
      word1 (if (w32 (x l).a).slt (w32 (x l).b) then w32 (x l).b else w32 (x l).a)) ∧
    Computes (.andB32 f) true (fun _ x l => word1 (w32 (x l).a &&& w32 (x l).b)) ∧
    Computes (.orB32 f) true (fun _ x l => word1 (w32 (x l).a ||| w32 (x l).b)) ∧
    Computes (.xorB32 f) true (fun _ x l => word1 (w32 (x l).a ^^^ w32 (x l).b)) ∧
    Computes (.andnB32 f) true (fun _ x l => word1 (w32 (x l).a &&& ~~~ w32 (x l).b)) ∧
    Computes (.shlB32 f) true (fun _ x l => word1 (w32 (x l).a <<< (w32 (x l).b).toNat)) ∧
    Computes (.shrB32 f) true (fun _ x l => word1 (w32 (x l).a >>> (w32 (x l).b).toNat)) ∧
    Computes (.sraB32 f) true (fun _ x l => word1 ((w32 (x l).a).sshiftRight (w32 (x l).b).toNat)) ∧
    Computes (.notB32 f) true (fun _ x l => word1 (~~~ w32 (x l).a)) ∧
    Computes (.popcB32 f) true (fun _ x l => word1 (w32 (x l).a).cpop) ∧
    Computes (.movi f) true (fun _ _ _ => word1 ((f.a ++ f.b : BitVec 16).signExtend 32))

/-- The exact results of R358 to R360 and R366, read and written by the type. -/
def Obligations.IntegerArithmeticResults : Prop :=
  ∀ (f : F2) (g : F3),
    Computes (.iadd f) true (fun _ x l => typed f.tyN f.sat (tyVal f.tyN (x l).a + tyVal f.tyN (x l).b)) ∧
    Computes (.isub f) true (fun _ x l => typed f.tyN f.sat (tyVal f.tyN (x l).a - tyVal f.tyN (x l).b)) ∧
    Computes (.imul f) true (fun _ x l => typed f.tyN f.sat (tyVal f.tyN (x l).a * tyVal f.tyN (x l).b)) ∧
    Computes (.imulh f) true (fun _ x l =>
      typed f.tyN false (tyVal f.tyN (x l).a * tyVal f.tyN (x l).b / (2 ^ tyWidth f.tyN : Nat))) ∧
    Computes (.imad f) true (fun _ x l =>
      typed f.tyN f.sat (tyVal f.tyN (x l).a * tyVal f.tyN (x l).b + tyVal f.tyN (x l).c)) ∧
    Computes (.idiv f) true (fun _ x l =>
      typed f.tyN false (if tyVal f.tyN (x l).b = 0 then -1 else (tyVal f.tyN (x l).a).tdiv (tyVal f.tyN (x l).b))) ∧
    Computes (.irem f) true (fun _ x l =>
      typed f.tyN false (if tyVal f.tyN (x l).b = 0 then tyVal f.tyN (x l).a
        else (tyVal f.tyN (x l).a).tmod (tyVal f.tyN (x l).b))) ∧
    Computes (.imin f) true (fun _ x l => typed f.tyN false (min (tyVal f.tyN (x l).a) (tyVal f.tyN (x l).b))) ∧
    Computes (.imax f) true (fun _ x l => typed f.tyN false (max (tyVal f.tyN (x l).a) (tyVal f.tyN (x l).b))) ∧
    Computes (.iabs f) true (fun _ x l => typed f.tyN f.sat ((tyVal f.tyN (x l).a).natAbs : Int)) ∧
    Computes (.ineg f) true (fun _ x l => typed f.tyN f.sat (-tyVal f.tyN (x l).a)) ∧
    Computes (.moviImm32 g) true (fun _ _ _ => typed g.w.tyN false
      (if g.w.tyN = 3 then g.imm.toInt else (g.imm.toNat : Int))) ∧
    Computes (.iaddImm32 g) true (fun _ x l => typed g.w.tyN g.w.sat (tyVal g.w.tyN (x l).a +
      (if g.w.tyN = 3 then g.imm.toInt else tyVal g.w.tyN g.imm.toNat))) ∧
    Computes (.lea f) true (fun _ x l => wordsOf 2
      (BitVec.ofNat 64 (x l).a + BitVec.ofInt 64 (tyVal f.tyN (x l).b) <<< f.modAt 8 4).toNat) ∧
    Refuses (.iabs f) (4 ≤ f.tyN ∨ f.bN ≠ 0) ∧ Refuses (.ineg f) (f.bN ≠ 0) ∧ Refuses (.imulh f) (f.sat = true) ∧
    Refuses (.idiv f) (f.sat = true) ∧ Refuses (.irem f) (f.sat = true) ∧
    Refuses (.moviImm32 g) (g.w.aN ≠ 0 ∨ g.w.bN ≠ 0 ∨ g.w.cN ≠ 0) ∧
    Refuses (.iaddImm32 g) (g.w.bN ≠ 0 ∨ g.w.cN ≠ 0 ∨ g.w.isImm = true) ∧
    Refuses (.lea f) ((f.tyN ≠ 2 ∧ f.tyN ≠ 6) ∨ (f.dN < 0xC0 ∧ f.dN % 2 = 1))

/-- Logic, shifts, bit fields and counts (R361 to R363), on bit vectors of the type's width. -/
def Obligations.LogicResults : Prop :=
  ∀ f : F2,
    Computes (.and f) true (fun _ x l => rawBits f.tyN (bv f.tyN (x l).a &&& bv f.tyN (x l).b)) ∧
    Computes (.or f) true (fun _ x l => rawBits f.tyN (bv f.tyN (x l).a ||| bv f.tyN (x l).b)) ∧
    Computes (.xor f) true (fun _ x l => rawBits f.tyN (bv f.tyN (x l).a ^^^ bv f.tyN (x l).b)) ∧
    Computes (.andn f) true (fun _ x l => rawBits f.tyN (bv f.tyN (x l).a &&& ~~~ bv f.tyN (x l).b)) ∧
    Computes (.not f) true (fun _ x l => rawBits f.tyN (~~~ bv f.tyN (x l).a)) ∧
    Computes (.shl f) true (fun _ x l => rawBits f.tyN (bv f.tyN (x l).a <<< (w32 (x l).b).toNat)) ∧
    Computes (.shr f) true (fun _ x l => rawBits f.tyN (bv f.tyN (x l).a >>> (w32 (x l).b).toNat)) ∧
    Computes (.sra f) true (fun _ x l => rawBits f.tyN ((bv f.tyN (x l).a).sshiftRight (w32 (x l).b).toNat)) ∧
    Computes (.rol f) true (fun _ x l => rawBits f.tyN ((bv f.tyN (x l).a).rotateLeft (w32 (x l).b).toNat)) ∧
    Computes (.bfx f) true (fun _ x l =>
      let len := min (field (x l).b 8 8) (tyWidth f.tyN)
      let v := ((bv f.tyN (x l).a >>> field (x l).b 0 8).truncate len : BitVec len)
      typed f.tyN false (if tySigned f.tyN then v.toInt else (v.toNat : Int))) ∧
    Computes (.bfi f) true (fun _ x l =>
      let len := min (field (x l).c 8 8) (tyWidth f.tyN)
      let m := bv f.tyN (2 ^ len - 1) <<< field (x l).c 0 8
      rawBits f.tyN (bv f.tyN (x l).a &&& ~~~ m ||| bv f.tyN (x l).b <<< field (x l).c 0 8 &&& m)) ∧
    Computes (.popc f) true (fun _ x l => wordsOf 1 (bv f.tyN (x l).a).cpop.toNat) ∧
    Computes (.clz f) true (fun _ x l => wordsOf 1 (bv f.tyN (x l).a).clz.toNat) ∧
    Computes (.ctz f) true (fun _ x l => wordsOf 1 (bv f.tyN (x l).a).ctz.toNat) ∧
    Computes (.brev f) true (fun _ x l => rawBits f.tyN (bv f.tyN (x l).a).reverse) ∧
    (∀ i : Instr, i ∈ [Instr.and f, .or f, .xor f, .andn f, .not f, .shl f, .shr f, .sra f, .rol f, .bfi f, .popc f, .clz f,
      .ctz f] → Refuses i (f.tyN < 4)) ∧
    Refuses (.bfi f) (f.isImm = true)

/-- mov copies A with its poison marks, sel the operand its predicate chooses and reads that one alone (R225, R365).
xset and xadd write fields of an index register, and its new value to lt (R211, R367). -/
def Obligations.MoveResults : Prop :=
  (∀ (f : F2) (g : F1),
     Writes (.movB32 g) true (fun env l ws => (Instr.movB32 g).form.a.read env.w (env.w.lane l) = .ok ws) ∧
     Writes (.mov f) true (fun env l ws => ∃ vs, (Instr.mov f).form.a.read env.w (env.w.lane l) = .ok vs ∧
       ws = vs.map (fun v => if tyWidth f.tyN < 32
         then { v with val := BitVec.ofNat 32 (v.val.toNat % 2 ^ tyWidth f.tyN) } else v)) ∧
     Writes (.sel f) true (fun env l ws => ∃ v, (if (env.w.lane l).pred f.cN then (Instr.sel f).form.a
       else (Instr.sel f).form.b).val env.w (env.w.lane l) = .ok v ∧ ws = rawBits f.tyN (bv f.tyN v)) ∧
     Refuses (.mov f) (f.tyN < 4) ∧ Refuses (.sel f) (f.tyN < 4 ∨ 8 ≤ f.cN ∨ f.isImm = true)) ∧
  (∀ (f : F2) (xadd : Bool) (s : State) (env : Env) (a : Nat → Nat),
     let i : Instr := if xadd then .xadd f else .xset f
     s.env? i.form.pidx i.form.pneg = some env → i.form.completes env = true →
     (∀ l ∈ env.lanes, i.form.a.val env.w (env.w.lane l) = .ok (a l)) →
     s.wrote env (fun l =>
       let lane := (env.w.lane l).pop i.form.pops
       let old := ((env.w.lane l).x.getD f.dN 0).toNat
       let low (n : Nat) : Nat := n % 2 ^ 8
       let new := if xadd then old / 2 ^ 8 % 2 ^ 16 * 2 ^ 8 + low (old + a l)
         else if f.modAt 8 4 = 0 then a l % 2 ^ 24
         else if f.modAt 8 4 = 1 then old / 2 ^ 8 % 2 ^ 16 * 2 ^ 8 + low (a l)
         else if f.modAt 8 4 = 2 then old / 2 ^ 16 % 2 ^ 8 * 2 ^ 16 + low (a l) * 2 ^ 8 + low old
         else low (a l) * 2 ^ 16 + old % 2 ^ 16
       if hasLane env.act l then
         { lane with x := putAt lane.x f.dN (w32 new), lt := { lo := { val := w32 new } } } else env.w.lane l) (exec i s))

/-- Compares and predicate logic write one predicate and never lt (R354, R364, R368, R389). -/
def Obligations.PredicateResults : Prop :=
  ∀ f : F2,
    let inv (env : Env) (l mod reg : Nat) : Bool := (env.w.lane l).pred reg != (f.modAt mod 1 == 1)
    Decides (.icmp f) f.dN (fun _ x l => intCond (f.modAt 8 4) (tyVal f.tyN (x l).a) (tyVal f.tyN (x l).b)) ∧
    Decides (.pand f) f.dN (fun env _ l => inv env l 8 f.aN && inv env l 9 f.bN) ∧
    Decides (.por f) f.dN (fun env _ l => inv env l 8 f.aN || inv env l 9 f.bN) ∧
    Decides (.pxor f) f.dN (fun env _ l => inv env l 8 f.aN ^^ inv env l 9 f.bN) ∧
    Decides (.pnot f) f.dN (fun env _ l => !inv env l 8 f.aN) ∧
    (∀ wide : Bool, Decides (if wide then .fcmpF64 f else .fcmp f) f.dN (fun env x l =>
      let fm := f.fmt wide
      fm.cond (f.modAt 8 3) (fm.flush env.flush (element fm (f.modAt 11 1) (x l).a))
        (fm.flush env.flush (element fm (f.modAt 11 1) (x l).b)))) ∧
    Refuses (.icmp f) (5 < f.modAt 8 4 ∨ 8 ≤ f.dN) ∧
    (∀ i : Instr, i ∈ [Instr.pand f, .por f, .pxor f, .pnot f] →
      Refuses i (8 ≤ f.dN ∨ 8 ≤ f.aN ∨ 8 ≤ f.bN ∨ f.modAt 16 1 = 1 ∨ f.tyN ≠ 2)) ∧
    Refuses (.pnot f) (f.bN ≠ 0)

/-- vote, ballot, shfl and redux take the active lanes as the whole wave (R369 to R372). -/
def Obligations.WaveResults : Prop :=
  ∀ f : F2,
    Decides (.vote f) f.dN (fun env _ _ =>
      if f.modAt 8 4 = 0 then env.lanes.any (fun l => (env.w.lane l).pred f.aN)
      else if f.modAt 8 4 = 1 then env.lanes.all (fun l => (env.w.lane l).pred f.aN)
      else env.lanes.all (fun l => (env.w.lane l).pred f.aN) || env.lanes.all (fun l => !(env.w.lane l).pred f.aN)) ∧
    Computes (.ballot f) false (fun env _ _ => word1 (maskBy (fun l => hasLane env.act l && (env.w.lane l).pred f.aN))) ∧
    Computes (.shfl f) false (fun env x l =>
      let n : Int := (x l).b
      let src : Int := if f.modAt 8 4 = 0 then n else if f.modAt 8 4 = 1 then l - n
        else if f.modAt 8 4 = 2 then l + n else ((l ^^^ (x l).b : Nat) : Int)
      wordsOf (tyWords f.tyN) (if 0 ≤ src ∧ src ≤ 31 ∧ hasLane env.act src.toNat = true then (x src.toNat).a else (x l).a)) ∧
    Computes (.redux f) false (fun env x _ =>
      let vs := env.lanes.map (fun l => tyVal f.tyN (x l).a)
      let bs := env.lanes.map (fun l => bv f.tyN (x l).a)
      if f.modAt 8 4 = 0 then typed f.tyN f.sat vs.sum
      else if f.modAt 8 4 = 1 then typed f.tyN false (vs.tail.foldl min (vs.headD 0))
      else if f.modAt 8 4 = 2 then typed f.tyN false (vs.tail.foldl max (vs.headD 0))
      else if f.modAt 8 4 = 3 then rawBits f.tyN (bs.foldl (· &&& ·) (BitVec.allOnes _))
      else if f.modAt 8 4 = 4 then rawBits f.tyN (bs.foldl (· ||| ·) 0)
      else rawBits f.tyN (bs.foldl (· ^^^ ·) 0)) ∧
    Refuses (.vote f) (f.tyN ≠ 2 ∨ 2 < f.modAt 8 4) ∧ Refuses (.ballot f) (f.tyN ≠ 2) ∧
    Refuses (.shfl f) (f.tyN < 6 ∨ 3 < f.modAt 8 4) ∧
    Refuses (.redux f) ((f.tyN ≠ 2 ∧ f.tyN ≠ 3 ∧ f.tyN < 6) ∨ 5 < f.modAt 8 4)

/-! ## Floating point -/

/-- The arithmetic of .f32, .bf16, .h16 and .f64 (R385, R387, R388, R392, R394): each is its operation of R227 to R233
on the elements. -/
def Obligations.FloatArithmeticResults : Prop :=
  ∀ (f : F2) (wide : Bool),
    Computes (if wide then .faddF64 f else .fadd f) true (fun env x l =>
      f.floats wide env (x l) (fun F a b _ => F.add f.rnd a b)) ∧
    Computes (if wide then .fsubF64 f else .fsub f) true (fun env x l =>
      f.floats wide env (x l) (fun F a b _ => F.sub f.rnd a b)) ∧
    Computes (if wide then .fmulF64 f else .fmul f) true (fun env x l =>
      f.floats wide env (x l) (fun F a b _ => F.mul f.rnd a b)) ∧
    Computes (if wide then .fmaF64 f else .fma f) true (fun env x l =>
      f.floats wide env (x l) (fun F a b c => F.fma f.rnd a b c)) ∧
    Computes (if wide then .fminF64 f else .fmin f) true (fun env x l =>
      f.floats wide env (x l) (fun F a b _ => F.minmax false a b)) ∧
    Computes (if wide then .fmaxF64 f else .fmax f) true (fun env x l =>
      f.floats wide env (x l) (fun F a b _ => F.minmax true a b)) ∧
    Computes (if wide then .fdivF64 f else .fdiv f) true (fun env x l =>
      f.floats wide env (x l) (fun F a b _ => F.div f.rnd a b)) ∧
    Computes (if wide then .fscaleF64 f else .fscale f) true (fun env x l =>
      let fm := f.fmt wide
      wordsOf (floatWords wide) (elementwise fm (fun e => fm.sat f.fsat (fm.scale f.rnd
        (fm.flush env.flush (element fm e (x l).a))
        (if fm = h16 then toSigned 16 (element fm e (x l).b) else toSigned 32 (x l).b)))))

/-- The floating functions of one operand (R390 to R395). -/
def Obligations.FloatFunctionResults : Prop :=
  ∀ (f : F2) (wide : Bool),
    Computes (if wide then .fsqrtF64 f else .fsqrt f) true (fun env x l =>
      f.floats wide env (x l) (fun F a _ _ => F.sqrt f.rnd a)) ∧
    Computes (if wide then .frcpF64 f else .frcp f) true (fun env x l =>
      f.floats wide env (x l) (fun F a _ _ => F.rcp f.rnd a)) ∧
    Computes (if wide then .frsqF64 f else .frsq f) true (fun env x l =>
      f.floats wide env (x l) (fun F a _ _ => F.rsq f.rnd a)) ∧
    Computes (if wide then .frndF64 f else .frnd f) true (fun env x l =>
      f.floats wide env (x l) (fun F a _ _ => F.rint f.rnd a)) ∧
    Computes (if wide then .fclassF64 f else .fclass f) true (fun env x l =>
      f.codes wide env (x l) (fun F _ a => 2 ^ F.classBit a)) ∧
    Computes (if wide then .fexpoF64 f else .fexpo f) true (fun env x l =>
      f.codes wide env (x l) (fun F w a => F.expo w a)) ∧
    Computes (.fexp2 f) true (fun env x l => f.floats false env (x l) (fun F a _ _ => F.exp2 f.rnd a)) ∧
    Computes (.flog2 f) true (fun env x l => f.floats false env (x l) (fun F a _ _ => F.log2 f.rnd a)) ∧
    Computes (.fsin f) true (fun env x l => f.floats false env (x l) (fun F a _ _ => F.sinPi f.rnd a)) ∧
    Computes (.fcos f) true (fun env x l => f.floats false env (x l) (fun F a _ _ => F.cosPi f.rnd a)) ∧
    Computes (.cvt f) true (fun env x l =>
      let at_ (n : Nat) : Nat := if f.cvtSrc = 11 then element h16 (f.modAt 11 1) n else n
      let conv (n : Nat) : Nat := cvtVal f.cvtDst f.cvtSrc f.rnd f.fsat env.flush (at_ n)
      wordsOf (cvtWords f.cvtDst) (conv (x l).a + (if f.cvtPair then 2 ^ 16 * conv (x l).b else 0)))

/-! ## Control -/

/-- bra, brx, call, callx and ret (R374 to R377): where each active lane goes, at what depth and priority, and what
the calls write. The model's choices in it stand in log entry 55. -/
def Obligations.BranchResults : Prop :=
  ∀ (f : F2) (g : F3),
    Jumps (.bra g) g.w.pf (fun env _ j => j =
      { pc := (BitVec.ofNat 64 env.is.pc + g.imm.signExtend 64).toNat, depth := env.e.depth, prio := g.w.pt }) ∧
    Jumps (.brx f) f.pf (fun env l j => ∃ a, (Instr.brx f).form.a.val env.w (env.w.lane l) = .ok a ∧ a < 2 ^ 56 ∧
      j = { pc := a, depth := env.e.depth, prio := f.pt }) ∧
    Jumps (.call g) g.w.pf (fun env l j => ∃ sl,
      (Instr.call g).form.d.slot env.w.regs (env.w.lane l) = .ok sl ∧ env.e.depth < 255 ∧
      j = { pc := (BitVec.ofNat 64 env.is.pc + g.imm.signExtend 64).toNat, depth := env.e.depth + 1, prio := g.w.pt,
            slot := sl }) ∧
    Jumps (.callx f) f.pf (fun env l j => ∃ a sl, (Instr.callx f).form.a.val env.w (env.w.lane l) = .ok a ∧
      (Instr.callx f).form.d.slot env.w.regs (env.w.lane l) = .ok sl ∧ a < 2 ^ 56 ∧ env.e.depth < 255 ∧
      j = { pc := a, depth := env.e.depth + 1, prio := f.pt, slot := sl }) ∧
    Jumps (.ret f) f.pf (fun env l j => ∃ a, (Instr.ret f).form.a.val env.w (env.w.lane l) = .ok a ∧
      0 < env.e.depth ∧ j = { pc := a % 2 ^ 56, depth := env.e.depth - 1, prio := a / 2 ^ 56 })

/-- rgive moves the wave's highest registers to its pool, rclaim takes registers from it, and a claim the pool cannot
meet waits in line (R203 to R205). An entry that issues repack arrives with every thread's key, the inactive ones with
the highest (R197). The model's choices in it stand in log entries 23, 78. -/
def Obligations.RegisterPools : Prop :=
  (∀ (f : F2) (s : State) (env : Env) (give : Bool),
     let i : Instr := if give then .rgive f else .rclaim f
     let n := f.cN
     let pool := s.poolOf env.w
     s.env? i.form.pidx i.form.pneg = some env → i.form.completes env = true →
     (∀ g, env.w.gang = some g → ((s.gang? g).bind (fun g => g.group? env.w.group)).isSome = true) →
     (if give then n + 8 ≤ env.w.regs else env.w.regs + n + 2 * (env.w.maxEntries - 8) ≤ 192) →
     ∃ t w, exec i s = .next t ∧ t = { s with waves := t.waves, gangs := t.gangs } ∧
       (∀ j, j ≠ env.w.id → t.wave? j = s.wave? j) ∧ t.wave? env.w.id = some w ∧
       (if give then
         w.regs = env.w.regs - n ∧ env.movedOn w ∧ (t.poolOf w).free = pool.free + n ∧
           ∀ l ∈ laneList, w.lane l = { env.w.lane l with v := (env.w.lane l).v.take (env.w.regs - n) }
       else if pool.claims = [] ∧ n ≤ pool.free then
         w.regs = env.w.regs + n ∧ env.movedOn w ∧ (t.poolOf w).free = pool.free - n ∧
           ∀ l ∈ laneList, w.lane l = { env.w.lane l with v := (env.w.lane l).v ++ List.replicate n {} }
       else env.w.gang.isSome = true →
         w.regs = env.w.regs ∧ (∀ l ∈ lanesOf env.e.mask, env.laneWaits w l (fun b => b = .rclaim n)) ∧
           { wave := env.w.id, pc := env.is.pc, depth := env.is.depth, n := n } ∈ (t.poolOf w).claims ∧
           (t.poolOf w).free = pool.free ∧ ∀ l ∈ laneList, w.lane l = env.w.lane l)) ∧
  (∀ (f : F2) (s : State) (env : Env) (key : Nat → Nat),
     let F := (Instr.repack f).form
     s.env? F.pidx F.pneg = some env → F.issues env = true → env.headers.contains env.is.next = true →
     env.w.queuesEmpty = true → (∀ l ∈ env.lanes, F.a.val env.w (env.w.lane l) = .ok (key l)) →
     ∃ t w, exec (.repack f) s = .next t ∧ s.onlyWave env t ∧ t.wave? env.w.id = some w ∧ env.w.kept w ∧
       (∀ l ∈ lanesOf env.e.mask, env.laneWaits w l (fun b => ∃ ks, b = .repack ks ∧
         (l, if hasLane env.act l then key l else 0xFFFFFFFF) ∈ ks)) ∧
       ∀ l ∈ laneList, w.lane l = if hasLane env.act l then (env.w.lane l).pop F.pops else env.w.lane l)

/-- exit ends the threads of the active lanes and no other (R379): with lanes of the entry left over, those fall
through, no entry holds an ended lane, and its pending writes are discarded. Of the last lanes of a wave of a group it
ends the wave (R187): no entry is left, and it leaves its slot unless operations of it are in flight. -/
def Obligations.ExitEndsThreads : Prop :=
  (∀ (f : F2) (s : State) (env : Env),
    let F := (Instr.exit f).form
    s.env? F.pidx F.pneg = some env → F.completes env = true → env.act ≠ env.e.mask →
    (∀ l ∈ env.lanes, (env.w.lane l).rec_ = none) →
    (∀ e ∈ env.w.frontier, e.isAt env.is.pc env.is.depth = true ∨ e.mask &&& env.e.mask = 0) →
    ∃ t w, exec (.exit f) s = .next t ∧ t.wave? env.w.id = some w ∧ env.w.kept w ∧ t.mem = s.mem ∧
      (∀ j, j ≠ env.w.id → t.wave? j = s.wave? j) ∧ (∀ l ∈ laneList, w.lane l = env.w.lane l) ∧
      (∀ l ∈ lanesOf env.e.mask, if hasLane env.act l then ∀ e ∈ w.frontier, hasLane e.mask l = false
        else w.laneAt l env.is.next env.e.depth env.e.prio = true) ∧
      ∀ o ∈ t.ops, o.wave = env.w.id → ∀ d, o.body.dst? = some d → ∀ x ∈ d.lanes, hasLane env.act x.1 = true →
        x.2 = .discard) ∧
  ∀ (f : F2) (s : State) (env : Env) (g : Nat),
    let F := (Instr.exit f).form
    s.env? F.pidx F.pneg = some env → F.issues env = true → env.act = env.e.mask → env.w.frontier = [env.e] →
    env.w.heldEntries = [] → env.w.gang = some g → env.w.trapMode = false → env.w.resident = true →
    (∀ l ∈ env.lanes, (env.w.lane l).rec_ = none) →
    ∃ t w, exec (.exit f) s = .next t ∧ t.wave? env.w.id = some w ∧ w.ended = true ∧ w.frontier = [] ∧
      (w.resident = s.busy env.w.id) ∧ ∀ j, j ≠ env.w.id → t.wave? j = s.wave? j

/-! ## Memory -/

/-- The loads (R436, R440, R447): each puts the accesses of its active lanes in flight, with the width of its type.
The model's choices in it stand in log entry 53. -/
def Obligations.LoadsStart : Prop :=
  ∀ f : F3,
    Loads (.ldG f) f {} (memBytes f.w.tyN) ∧
    Loads (.ldRo f) f { ro := true } (memBytes f.w.tyN) ∧
    Loads (.ldAcq f) f { acq := true } (memBytes f.w.tyN) ∧
    Loads (.ldv f) f { indexed := true } (memBytes f.w.tyN) ∧
    (f.w.fifo = false → Loads (.ldSp f) f { sp := true } (memBytes f.w.tyN)) ∧
    Loads (.hgat f) f { bypass := true, indexed := true, atomic := true } (if f.w.tyN % 4 = 3 then 8 else 4)

/-- The stores that no region holds back (R436, R440). A store inside a region starts as one that its core will hold back
(R283); once it has been performed, and while the region goes on, the core sees the words stored, aligned, that no later
lane of it stores over. The model's choices in it stand in log entry 58. -/
def Obligations.StoresStart : Prop :=
  (∀ f : F3,
     Stores (.stG f) f false false false (.sel f.w.bN (memWords f.w.tyN)) ∧
     Stores (.stRel f) f false true false (.sel f.w.bN (memWords f.w.tyN)) ∧
     Stores (.stv f) f false false true (.sel f.w.cN (memWords f.w.tyN)) ∧
     (f.w.fifo = false → Stores (.stSp f) f true false false (.sel f.w.bN (memWords f.w.tyN)))) ∧
  (∀ (f : F3) (i : Instr) (s : State) (env : Env) (g : Gang) (a : Nat → Acc) (ws : Nat → List PWord),
     i = .stG f ∨ i = .stv f →
     let indexed := i == .stv f
     let asks : Asks := { kind := .store, bytes := memBytes f.w.tyN, write := true, cause := 2 }
     s.env? i.form.pidx i.form.pneg = some env → i.form.completes env = true → env.gang = some g → env.buffering = true →
     f.reaches i.form s env false indexed asks a → f.hinted env a →
     (∀ l ∈ env.lanes, (if indexed then i.form.c else i.form.b).read env.w (env.w.lane l) = .ok (ws l)) →
     s.started env (env.popped i.form) env.act .st
       (.pin (memBytes f.w.tyN) (env.key 0) env.is.w0 env.is.w1 (env.lanes.map (fun l => (a l, ws l)))) (exec i s)) ∧
  ∀ (s : State) (o : Op) (g n : Nat) (items : List (Acc × List PWord)) (i : Nat) (x : Acc × List PWord) (pa : Nat),
    items[i]? = some x → x.1.loc = .home pa → pa % 4 = 0 → n % 4 = 0 → 4 * x.2.length = n →
    (∀ j y, items[j]? = some y → i < j → x.1.loc.meets n y.1.loc n = false) →
    let t := s.pinStores o g n items
    (t.gang? g).any (fun h => h.region.attempting) = true →
    ∀ j < x.2.length, t.pinnedWord (some g) o.core (pa + 4 * j) =
      some { val := (wordAt x.2 j).val, mark := (wordAt x.2 j).mark }

/-- FIFO forms (R439): a pop of one entry, or two for a pair, and a push of each lane's words, zero where it is
inactive. The model's choices in it stand in log entry 64. -/
def Obligations.FifoForms : Prop :=
  ∀ (f : F3) (s : State) (env : Env) (g p k : Nat), f.w.fifo = true →
    let reaches (F : Form) : Prop := ∀ l ∈ env.lanes, (env.w.lane l).pure_ = none ∧
      ∃ b, F.a.val env.w (env.w.lane l) = .ok b ∧ env.fifoTry (f.address true false b 0) = .ok (g, p, k)
    (∀ sl : Nat → Slot,
      let F := (Instr.ldSp f).form
      s.env? F.pidx F.pneg = some env → F.completes env = true → reaches F →
      (∀ l ∈ env.lanes, F.d.slot env.w.regs (env.w.lane l) = .ok (sl l)) →
      s.started env (env.popped F) env.act .ld
        (.fifoPop { lanes := env.lanes.map (fun l => (l, sl l)), words := memWords f.w.tyN } g p k (f.w.tyN == 3))
        (exec (.ldSp f) s)) ∧
    (∀ ws : Nat → List PWord,
      let F := (Instr.stSp f).form
      s.env? F.pidx F.pneg = some env → F.completes env = true → reaches F →
      (∀ l ∈ env.lanes, F.b.read env.w (env.w.lane l) = .ok (ws l)) →
      s.started env (env.popped F) env.act .st
        (.fifoPush g p k ((List.range (memWords f.w.tyN)).map (fun i => laneList.map (fun l =>
          if hasLane env.act l then wordAt (ws l) i else {})))) (exec (.stSp f) s))

/-- The atomics and reductions (R443, R445, R446) with their operation, width and sign. The model's choices in it
stand in log entry 65. -/
def Obligations.AtomicsStart : Prop :=
  ∀ f : F3,
    let w := if f.w.tyN % 4 = 3 then 64 else 32
    let float := f.w.modAt 12 1 == 1
    let signed := decide (f.w.tyN < 4)
    Atomics (.atomAdd f) f .add w signed false ∧
    Atomics (.atomMin f) f .min w signed false ∧
    Atomics (.atomMax f) f .max w signed false ∧
    Atomics (.atomAnd f) f .and w signed false ∧
    Atomics (.atomOr f) f .or w signed false ∧
    Atomics (.atomXor f) f .xor w signed false ∧
    Atomics (.atomXch f) f .xch w signed false ∧
    Atomics (.atomCas f) f .cas w signed false ∧
    Atomics (.fatomAdd f) f .fadd (if f.w.tyN = 3 then 64 else 32) false false ∧
    Atomics (.redAdd f) f (if float then .fadd else .add) (if float then (if f.w.tyN = 3 then 64 else 32) else w)
      (!float && signed) true ∧
    (float = false →
      Atomics (.redMin f) f .min w signed true ∧ Atomics (.redMax f) f .max w signed true ∧
      Atomics (.redAnd f) f .and w signed true ∧ Atomics (.redOr f) f .or w signed true ∧
      Atomics (.redXor f) f .xor w signed true)

/-- What an atomic writes (R443, R445), on bit vectors; and at its home (R256) it gives the old value and writes the
new, and touches no other byte; a poisoned word stays as it is. No core may own words of its line. -/
def Obligations.AtomicsAtHome : Prop :=
  (∀ (w : Nat) (signed : Bool) (old b c : BitVec w), w = 32 ∨ w = 64 →
    let new (op : AtomOp) : BitVec w := BitVec.ofNat w (atomNew op w signed old.toNat b.toNat c.toNat)
    let less (x y : BitVec w) : Bool := if signed then x.slt y else x.ult y
    new .add = old + b ∧ new .min = (if less old b then old else b) ∧ new .max = (if less old b then b else old) ∧
    new .and = old &&& b ∧ new .or = old ||| b ∧ new .xor = old ^^^ b ∧ new .xch = b ∧
    new .cas = (if old = b then c else old) ∧
    new .fadd = BitVec.ofNat w ((if w = 64 then f64 else f32).add 0 old.toNat b.toNat)) ∧
  ∀ (s : State) (by_ : Option Nat) (pa w : Nat) (f : Nat → Nat), w = 32 ∨ w = 64 → pa % (w / 8) = 0 →
    s.memWf → (∀ d ∈ s.directory, d.1 / 32 ≠ pa / 128) →
    (s.unitBad pa = true → s.atomicHome by_ pa w f = (none, s)) ∧
    (s.unitBad pa = false →
      let t := (s.atomicHome by_ pa w f).2
      let old := readNat s.mem pa (w / 8)
      (s.atomicHome by_ pa w f).1 = some old ∧ readNat t.mem pa (w / 8) = f old % 2 ^ w ∧
        ∀ b, b < pa ∨ pa + w / 8 ≤ b → readByte t.mem b = readByte s.mem b)

/-- pref, inv.l1 and wb.l1 (R441, R442). -/
def Obligations.CacheForms : Prop :=
  ∀ (f : F3) (g : F2) (s : State) (env : Env),
    (let F := (Instr.invL1 g).form;
      s.env? F.pidx F.pneg = some env → F.completes env = true →
      (s.invalidateL1 env.w.core).did env env.w (env.popped F) (exec (.invL1 g) s)) ∧
    (let F := (Instr.wbL1 g).form;
      s.env? F.pidx F.pneg = some env → F.completes env = true →
      s.started env (env.popped F) env.act .st (.writeBack env.w.core) (exec (.wbL1 g) s)) ∧
    (let F := (Instr.pref f).form;
      s.env? F.pidx F.pneg = some env → F.completes env = true →
      ∃ t w, exec (.pref f) s = .next t ∧ t = { s with waves := t.waves, gangs := t.gangs, cores := t.cores } ∧
        (∀ j, j ≠ env.w.id → t.wave? j = s.wave? j) ∧ t.wave? env.w.id = some w ∧ env.w.kept w ∧ env.movedOn w ∧
        (∀ l ∈ laneList, w.lane l = env.popped F l) ∧
        ∀ c, c ≠ env.w.core → t.core? c = s.core? c)

/-- Lanes whose page is invalid park (R193, R265): they wait at their instruction, the page is asked for, and nothing
else happens to them. -/
def Obligations.LanesPark : Prop :=
  ∀ (f : F3) (store : Bool) (s : State) (env : Env) (va : Nat → Nat),
    let i : Instr := if store then .stG f else .ldG f
    let asks : Asks := { kind := if store then .store else .load, bytes := memBytes f.w.tyN, write := store,
                         cause := if store then 2 else 1, noPark := !store && f.w.queued }
    s.env? i.form.pidx i.form.pneg = some env → i.form.completes env = true → env.act = env.e.mask →
    (∀ l ∈ env.lanes, (∃ b, i.form.a.val env.w (env.w.lane l) = .ok b ∧ va l = f.address false false b 0) ∧
      s.checkVa env (env.w.lane l) asks (va l) = .park ∧
      if store then ∃ ws, i.form.b.read env.w (env.w.lane l) = .ok ws else ∃ sl, i.form.d.slot env.w.regs (env.w.lane l) = .ok sl) →
    ∃ t w, exec i s = .next t ∧ t = { s with waves := t.waves, gangs := t.gangs, ctxs := t.ctxs, dev := t.dev } ∧
      (∀ j, j ≠ env.w.id → t.wave? j = s.wave? j) ∧ t.wave? env.w.id = some w ∧ env.w.kept w ∧
      (∀ l ∈ lanesOf env.e.mask, env.laneWaits w l (fun b => ∃ since vas, b = .park since vas ∧ (l, va l) ∈ vas)) ∧
      (∀ l ∈ laneList, w.lane l = env.popped i.form l) ∧
      ∀ l ∈ env.lanes, (t.ctx? env.w.ctx).all (fun c => c.requests.contains (va l / pageBytes) ||
        c.queuedRequests.any (fun q => q.2.2 == va l / pageBytes)) = true

/-- Accesses of this package complete when what orders them lets them (R433): a load's values land, a store is
performed, a FIFO gives and takes its entries, an atomic is applied at its home; each operation then ends. The model's
choices in it stand in log entries 53, 64. -/
def Obligations.AccessesComplete : Prop :=
  ∀ (s : State) (o : Op),
    s.op? o.id = some o → o.body.isRemote = false → s.canPerform o = true →
    (∀ (fresh : Bool) (d : Dst) (n : Nat) (sx bypass acq noAlloc ro : Bool) (accs : List Acc),
      o.body = .load d n sx bypass acq noAlloc ro accs → s.queueRoom o d = true →
      let r := s.gather o n sx { bypass := bypass, alloc := !noAlloc && !bypass, ro := ro, fresh := fresh } accs []
      exec (.loadDataLands o.id fresh) s = .next (((if acq then r.2.acquire o.core else r.2).landAll o d r.1).endOp o)) ∧
    (∀ (d : Dst) (vals : List (Nat × List PWord)), o.body = .deliver d vals →
      exec (.loadDataLands o.id false) s = .next ((s.landAll o d vals).endOp o)) ∧
    (∀ (d : Dst) (g p k : Nat) (wide : Bool), o.body = .fifoPop d g p k wide → s.queueRoom o d = true →
      let es := s.fifoOf g p k
      let need := if wide then 2 else 1
      need ≤ es.length → exec (.loadDataLands o.id false) s = .next (((s.setFifo g p k (es.drop need)).landAll o d
        (d.lanes.map (fun x => (x.1, (List.range need).map (fun i => wordAt (es.getD i []) x.1))))).endOp o)) ∧
    (∀ (d : Dst) (n : Nat) (sx acq noAlloc ro : Bool) (accs : List Acc) (l q : Nat) (rest : List (Nat × Slot)),
      o.body = .load d n sx false acq noAlloc ro accs → d.lanes = (l, .q q) :: rest → s.queueRoom o d = true →
      let r := s.gather o n sx { bypass := false, alloc := !noAlloc, ro := ro, fresh := false } accs []
      exec (.queueDeliveryPush o.id) s = .next (((if acq then r.2.acquire o.core else r.2).landAll o d r.1).endOp o)) ∧
    (∀ (n : Nat) (noCopy rel : Bool) (items : List (Acc × List PWord)), o.body = .store n noCopy rel items →
      exec (.storePerformed o.id) s = .next ((s.doStore o n noCopy items).endOp o)) ∧
    (o.body = .buffered → exec (.storePerformed o.id) s = .next (s.endOp o)) ∧
    (∀ (g n key : Nat) (w0 w1 : Word) (items : List (Acc × List PWord)), o.body = .pin n key w0 w1 items → o.gang = some g →
      exec (.storePerformed o.id) s = .next (((s.pinStores o g n items).deferStores o g n key w0 w1 items).endOp o)) ∧
    (∀ core, o.body = .writeBack core → exec (.storePerformed o.id) s = .next ((s.writeBackL1 core).endOp o)) ∧
    (∀ (g p k : Nat) (entries : List (List PWord)), o.body = .fifoPush g p k entries →
      (s.fifoOf g p k).length + entries.length ≤ 512 →
      exec (.storePerformed o.id) s = .next ((s.setFifo g p k (s.fifoOf g p k ++ entries.map unitMarks)).endOp o)) ∧
    (∀ (op : AtomOp) (w : Nat) (sg : Bool) (dst : Option Dst) (items : List AtomItem), o.body = .atom op w sg dst items [] →
      let r := (s.dropCopies o.core items (w / 8)).doAtoms o op w sg items []
      exec (.atomicAtHome o.id) s =
        .next ((match dst with | some d => r.2.landAll o d r.1 | none => r.2).endOp o))

/-- The end of an operation (R214): its counter falls by one and its window closes; its wave's registers and threads
stay as they are, and so does memory where no park of the context waits for it and its wave has a thread that is not
blocked. Values that land (R216, R223, R433) reach the destination of each lane and no other register, marked where the
issue's residue check failed (R243). -/
def Obligations.OperationEnds : Prop :=
  (∀ (s : State) (o : Op) (w : Wave), s.wave? o.wave = some w → w.frontier ≠ [] →
     ∃ v, (s.endOp o).wave? o.wave = some v ∧ v.lanes = w.lanes ∧ v.frontier = w.frontier ∧
       (∀ k, v.ctrs.get k = w.ctrs.get k - if o.ctr = some k then 1 else 0) ∧
       v.windows = w.windows.filter (fun n => n.op != o.id) ∧
       ((s.ctx? o.ctx).all (fun c => c.parked.isEmpty) = true → w.frontier.any (fun e => e.block == .none) = true →
         (s.endOp o).mem = s.mem)) ∧
  (∀ (s : State) (o : Op) (d : Dst) (vals : List (Nat × List PWord)) (w : Wave),
     s.wave? o.wave = some w → w.lanes.length = 32 → (d.lanes.map (fun x => x.1)).Nodup → (∀ x ∈ d.lanes, x.1 < 32) →
     ∃ v, (s.landAll o d vals).wave? o.wave = some v ∧ w.kept v ∧ v.frontier = w.frontier ∧
       (∀ x ∈ d.lanes, ∀ ws, lookupBy x.1 vals = some ws → v.lane x.1 =
         (w.lane x.1).put x.2 (stain (hasLane o.marked x.1) (ws.take d.words))) ∧
       ∀ l, (∀ x ∈ d.lanes, x.1 ≠ l) → v.lane l = w.lane l)

/-- Registers of a lane (R209 to R212, R217, R223): a write is read back, and beside it nothing of the lane changes; p0
reads true always, and an index register holds 24 bits. -/
def Obligations.RegisterReadBack : Prop :=
  ∀ (lane : Lane) (n : Nat) (ws : List PWord),
    (n + ws.length ≤ lane.v.length →
      let t := lane.put (.v n) ws
      t.main n ws.length = ws.map PWord.seen ∧ t = { lane with v := t.v } ∧ t.v.length = lane.v.length ∧
        ∀ k, k < n ∨ n + ws.length ≤ k → wordAt t.v k = wordAt lane.v k) ∧
    (n + ws.length ≤ lane.o.length →
      let t := lane.put (.o n) ws
      (List.range ws.length).map (fun i => wordAt t.o (n + i)) = ws ∧ t = { lane with o := t.o }) ∧
    (n < lane.q.length →
      let t := lane.put (.q n) ws
      t.q.getD n [] = lane.q.getD n [] ++ ws ∧ t = { lane with q := t.q } ∧ ∀ k, k ≠ n → t.q.getD k [] = lane.q.getD k []) ∧
    lane.put .discard ws = lane ∧
    (∀ k b, k < 8 → (lane.setPred k b).pred k = (k == 0 || b) ∧ (lane.setPred k b).pred 0 = true ∧
      ∀ j, j < 8 → j ≠ k → (lane.setPred k b).pred j = lane.pred j) ∧
    (∀ k v, k < lane.x.length → ((lane.setIndex k v).x.getD k 0).toNat = v % 2 ^ 24)

/-- A load reads the word's current value (R268, R270): of an L1 that owns it, else of its home, little-endian and
marked where the home's 64-byte unit is bad; a narrow value is extended (R431). A store that registers (R269), where the
directory has room (R255) and no other core owns words of the lines: its core owns the words with the values stored, no
other word's value changes, and home memory waits for the recall. The words an instruction's stores make (R432): each byte is that of the highest
lane that stores it, the others are the word's current bytes. -/
def Obligations.WordsMoved : Prop :=
  (∀ (s : State) (core wave id pa : Nat) (gang : Option Nat) (m : Reads),
     (s.ownerOf pa = none → s.current pa = { val := w32 (ofBytes ((List.range 4).map (fun i => readByte s.mem (pa + i)))),
                                              mark := s.unitBad pa }) ∧
     (∀ c x, s.ownerOf pa = some c → (s.coreAt c).l1? pa = some x → (s.current pa).val = x.val) ∧
     (s.pinnedWord gang core pa = none →
       (m.bypass = true → s.seeWord core wave id gang m pa = (s.current pa, s)) ∧
       (m.bypass = false → s.ops.all (fun o => o.core != core) = true → (s.coreAt core).l1? pa = none →
         (s.seeWord core wave id gang m pa).1 = s.current pa ∧ (s.seeWord core wave id gang m pa).2.mem = s.mem) ∧
       (∀ x, m.bypass = false → s.ops.all (fun o => o.core != core) = true → (s.coreAt core).l1? pa = some x →
         x.owned = true → (s.seeWord core wave id gang m pa).1.val = x.val)) ∧
     (∀ (n off : Nat) (sx : Bool) (w : PWord), n = 1 ∨ n = 2 → off + n ≤ 4 →
       let v : BitVec (8 * n) := (w.val >>> (8 * off)).setWidth (8 * n)
       narrow n off sx w = { w with val := if sx then v.signExtend 32 else v.setWidth 32 })) ∧
  ((∀ (s : State) (core ctx : Nat) (ws : List (Nat × PWord)),
     core < bankBase → s.directory.length < directoryLines → (ws.map (fun x => x.1)).Nodup → (∀ x ∈ ws, x.1 % 4 = 0) →
     (∀ d ∈ s.directory, d.2 ≠ core → ∀ x ∈ ws, d.1 / 32 ≠ x.1 / 128) →
     let t := s.register core ctx true ws
     t.mem = s.mem ∧ (∀ x ∈ ws, (t.current x.1).val = x.2.val ∧ t.ownerOf x.1 = some core ∧
         (x.2.mark = true → (t.current x.1).mark = true)) ∧
       ∀ a, a % 4 = 0 → (∀ x ∈ ws, x.1 ≠ a) → (t.current a).val = (s.current a).val) ∧
   ∀ (s : State) (n : Nat) (items : List (Acc × List PWord)), n = 1 ∨ n = 2 ∨ n = 4 ∨ n = 8 ∨ n = 16 →
     (∀ x ∈ items, ceilDiv n 4 ≤ x.2.length) →
     let meets (a : Nat) (x : Acc × List PWord) : Bool := match x.1.loc with
       | .home pa => decide (pa ≤ a) && decide (a < pa + n)
       | _ => false
     let byte (w : Word) (i : Nat) : Byte := (w >>> (8 * i)).setWidth 8
     (∀ x ∈ items, ∀ pa, x.1.loc = .home pa → ∀ j < n, ∃ w ∈ s.mergeStores n items, w.1 = (pa + j) / 4 * 4) ∧
     ∀ w ∈ s.mergeStores n items, w.1 % 4 = 0 ∧ ∀ i < 4,
       byte w.2.val i = match (items.filter (meets (w.1 + i))).getLast? with
         | some (⟨_, _, .home pa, _⟩, ws) => byte (wordAt ws ((w.1 + i - pa) / 4)).val ((w.1 + i - pa) % 4)
         | _ => byte (s.current w.1).val i)

/-- Every operation that writes home memory keeps its canonical form. -/
def Obligations.MemoryStaysCanonical : Prop :=
  ∀ s : State, s.memWf →
    (∀ ps, (s.layHome ps).memWf) ∧ (∀ by_ ps, (s.writeMem by_ ps).memWf) ∧
    (∀ core ctx keep ws, (s.register core ctx keep ws).memWf) ∧ (∀ core lines, (s.recallFrom core lines).memWf) ∧
    (∀ core, (s.writeBackL1 core).memWf) ∧ (∀ by_ pa w f, (s.atomicHome by_ pa w f).2.memWf) ∧
    (∀ cx va bs, (s.writeVa cx va bs).memWf) ∧ (∀ pa n, (s.zeroAt pa n).memWf) ∧
    (∀ (p : Place) off bs, cellsWf p.sp = true → cellsWf (p.write off bs).sp = true) ∧
    (∀ o n noCopy items, (s.doStore o n noCopy items).memWf) ∧ ∀ o cx e at_ w, ∀ x, s.copyWrite o cx e at_ w = some x → x.2.memWf

/-! ## Block formats and the matrix engines -/

/-- qnt, bmax, dqnt, pack and unpack of a block slot (R400 to R405): the whole wave is one block, inactive lanes 0. A
block of finite values is quantised at the least scale that holds its largest magnitude, or at the greatest, each code
rounded there and clamped; one of zeros has scale 0 and codes 0; a NaN poisons the block, scale and codes 0; an infinity
takes the greatest scale and the code of its sign, poisoned unless the slot saturates (R237). -/
def Obligations.BlockResults : Prop :=
  (∀ f : F2,
    let G := blockFmt (f.modAt 8 2)
    let args (i : Instr) (env : Env) (x : Nat → Nat) : Prop :=
      (env.w.slot f.tyN).isBlock = true ∧ (∀ l ∈ env.lanes, i.form.a.val env.w (env.w.lane l) = .ok (x l)) ∧
        ∀ l, hasLane env.act l = false → x l = 0
    let float (env : Env) (x : Nat → Nat) (l : Nat) : Nat :=
      if hasLane env.act l then convert G f32 0 (G.flush env.flush (element G (f.modAt 11 1) (x l))) else 0
    let block (env : Env) (x : Nat → Nat) : Quant := quantize (env.w.slot f.tyN) (laneList.map (float env x))
    Writes (.qnt f) true (fun env l ws => ∃ x, args (.qnt f) env x ∧ ws =
      [{ val := w32 (2 ^ 8 * (block env x).scale + wrap 8 ((block env x).codes.getD l 0)), mark := (block env x).poisoned }]) ∧
    Writes (.bmax f) true (fun env _ ws => ∃ x, args (.bmax f) env x ∧ ws =
      if f.modAt 10 1 = 1 then [{ val := w32 (block env x).scale, mark := (block env x).poisoned }]
      else word1 (w32 (if laneList.any (fun l => f32.isNan (float env x l)) then f32.nan
        else (laneList.map (fun l => f32.mag (float env x l))).foldl max 0))) ∧
    Writes (.dqnt f) true (fun env l ws => ∃ x, args (.dqnt f) env x ∧
      let z := env.w.slot f.tyN
      let k := if f.modAt 8 2 = 3 then 2 else 1
      let sc := field (x l) 8 8
      ws = if z.kind = 6 ∧ sc = 0xFF then List.replicate k { val := 0, mark := true }
        else wordsOf k (decodeBlock z G sc (x l % 2 ^ z.mbits))) ∧
    Writes (.pack f) true (fun env l ws => ∃ x, args (.pack f) env x ∧
      let z := env.w.slot f.tyN
      let image := packCodes z.mbits (laneList.map x)
      ws = word1 (if l = 0 then w32 (field (x env.first) 8 8)
        else if l ≤ z.mbits then w32 (image / 2 ^ (32 * (l - 1))) else 0)) ∧
    Writes (.unpack f) true (fun env l ws => ∃ x : Nat → Nat,
      let z := env.w.slot f.tyN
      z.isBlock = true ∧ (∀ k ∈ env.lanes, if k ≤ z.mbits then (Instr.unpack f).form.a.val env.w (env.w.lane k) = .ok (x k)
        else ∃ vs, (Instr.unpack f).form.a.read env.w (env.w.lane k) = .ok vs) ∧
      (∀ k, hasLane env.act k = false → x k = 0) ∧
      let image := ((List.range z.mbits).map (fun i => x (i + 1) * 2 ^ (32 * i))).sum
      ws = word1 (w32 (2 ^ 8 * (x 0 % 2 ^ 8) + wrap 8 (toSigned z.mbits (image / 2 ^ (z.mbits * l))))))) ∧
  ∀ (z : FSlot) (xs : List Nat),
    let q := quantize z xs
    let Q : Int := qmaxOf z.mbits
    let nan := xs.any f32.isNan
    let inf := xs.any f32.isInf
    let rounded (k : Nat) (s : Bool) (m : Nat) (e : Int) : Prop :=
      q.codes[k]? = some (min (max (quantAt z q.scale s m e) (-Q)) Q)
    (nan = true → q.poisoned = true ∧ q.scale = 0 ∧ q.codes = List.replicate xs.length 0) ∧
    (nan = false → inf = true → q.poisoned = !z.sat ∧ q.scale = z.smax ∧ q.codes.length = xs.length ∧
      ∀ k x, xs[k]? = some x → (∀ s, f32.val x = .inf s → q.codes[k]? = some (if s then -Q else Q)) ∧
        ∀ s m e, f32.val x = .fin s m e → rounded k s m e) ∧
    (nan = false → inf = false → ∀ (sg : Bool) (m : Nat) (e : Int), f32.val (maxMag xs) = .fin sg m e →
      q.poisoned = false ∧ q.codes.length = xs.length ∧
      (m = 0 → q.scale = 0 ∧ q.codes = List.replicate xs.length 0) ∧
      (m ≠ 0 → q.scale ≤ z.smax ∧ (∀ k < q.scale, Q < quantAt z k false m e) ∧
        (q.scale < z.smax → quantAt z q.scale false m e ≤ Q) ∧
        ∀ k x s m' e', xs[k]? = some x → f32.val x = .fin s m' e' → rounded k s m' e'))

/-- The matrix forms enter their engine's queue with what they read at issue, counted by mx (R407, R415 to R421);
mzero sets the tile's tag then. mstat reads the tile's status word (R422). The model's choices in it stand in log
entry 26. -/
def Obligations.MatrixStarts : Prop :=
  ∀ (f : F2) (s : State) (env : Env),
    let core := env.w.core
    let z := env.w.slot f.tyN
    let za := env.w.slots.getD f.tyN 0
    let ready (i : Instr) : Prop := s.env? i.form.pidx i.form.pneg = some env ∧ i.form.completes env = true
    let span (i : Instr) (n g p off : Nat) : Prop := ∃ v, i.form.b.val env.w {} = .ok v ∧ v % 64 = 0 ∧
      spTry env.gang env.w (v % 2 ^ 32) n = .ok (.sp g p off) ∧ ∀ l ∈ env.lanes, (env.w.lane l).pure_ = none
    (∀ (sparse : Bool) (g p off : Nat),
      let i : Instr := if sparse then .mmas f else .mma f
      let pattern := if sparse then some (f.modAt 9 2) else none
      let k := shapeK z.kind f.shape
      let zb := env.w.slot f.cN
      let s1 := s.noteTile env.w.gang core f.dN
      let s2 := if f.mod.getLsbD 8 then s1.fillABuf env.w
          { engine := f.dN / 4, reg := f.aN, len := rowBlocks f.shape * (rowWords z k pattern + metaWords k pattern),
            slot := f.tyN, shape := f.shape, pattern := if sparse then f.modAt 9 2 + 1 else 0 } else s1
      ready i → mmaOk z zb (s.tileAt env.w.ctx core f.dN) f.shape (f.modAt 8 1 == 1) f.aN = true →
      span i (bBytes zb k (shapeN f.shape)) g p off →
      (s2.enqueue core (f.dN / 4) (.mma s.nextId env.w.id f.dN za (env.w.slots.getD f.cN 0) f.shape (f.modAt 8 1 == 1)
        pattern env.cx.policy.flush (aRows env.w env.act z f.aN f.shape pattern) g p off (stampOf env.gang))).started
          env (env.popped i.form) env.act .mx .matrix (exec i s)) ∧
    (ready (.mzero f) → z.kind ≠ 0 →
      let tagged := s.updTile env.w.ctx core f.dN (fun t =>
        { t with kind := if z.kind = 1 then 2 else 1, m := field f.shape 3 2, n := field f.shape 1 2 })
      ((tagged.noteTile env.w.gang core f.dN).enqueue core (f.dN / 4) (.zero s.nextId env.w.id f.dN)).started
        env (env.popped (Instr.mzero f).form) env.act .mx .matrix (exec (.mzero f) s)) ∧
    (let t := s.tileAt env.w.ctx core f.aN
      let hi := f.modAt 9 1 == 1
      let clr := f.modAt 8 1 == 1
      let s1 := if clr then s.noteTile env.w.gang core f.aN else s
      ready (.mdrain f) → 1 ≤ z.kind → z.kind ≤ 4 → t.kind ≠ 0 → (z.kind = 1 → f.dN % 2 = 0) → (hi = true → 2 ≤ t.m) →
      f.cN < codeSize t.n / 16 →
      let lanes := env.lanes.filter (fun l => decide (l + (if hi then 32 else 0) < codeSize t.m))
      (s1.enqueue core (f.aN / 4) (.drain s.nextId env.w.id f.aN t.kind t.m t.n za hi clr f.cN
        { lanes := lanes.map (fun l => (l, .v f.dN)), words := drainWords z.kind })).started
          env (env.popped (Instr.mdrain f).form) env.act .mx .matrix (exec (.mdrain f) s)) ∧
    (∀ g p off, let t := s.tileAt env.w.ctx core f.aN
      let clr := f.modAt 8 1 == 1
      let s1 := if clr then s.noteTile env.w.gang core f.aN else s
      ready (.mdrainSp f) → 1 ≤ z.kind → z.kind ≤ 4 → t.kind ≠ 0 →
      span (.mdrainSp f) (codeSize t.m * codeSize t.n * elemBytes z.kind) g p off →
      (s1.enqueue core (f.aN / 4) (.drainSp s.nextId env.w.id f.aN t.kind t.m t.n za clr g p off)).started
        env (env.popped (Instr.mdrainSp f).form) env.act .mx .matrix (exec (.mdrainSp f) s)) ∧
    (let p := f.modAt 9 2
      let k := shapeK z.kind f.shape
      let h := rowBlocks f.shape
      let e := env.w.partition % 2
      let lanes := env.lanes.filter (fun l => decide (l < shapeM f.shape))
      let rows := aRows env.w env.act z f.aN f.shape none
      let pruned (l : Nat) : List (List PWord × List PWord) :=
        (List.range h).map (fun i => pruneRow z k (keptOf p) p env.cx.policy.flush (rows.getD (l + 32 * i) []))
      let s1 := if f.mod.getLsbD 8 then s.fillABuf env.w
          { engine := e, reg := f.aN, len := h * rowWords z k none, slot := f.tyN, shape := f.shape, pattern := 0 } else s
      ready (.mmeta f) → z.kind ≠ 0 → (z.kind = 1 → f.aN % 2 = 0 ∧ f.dN % 2 = 0) →
      (s1.enqueue core e (.prune s.nextId env.w.id
        { lanes := lanes.map (fun l => (l, .v f.dN)), words := h * (rowWords z k (some p) + metaWords k (some p)) }
        (lanes.map (fun l => (l, ((pruned l).map (fun x => x.1)).flatten ++ ((pruned l).map (fun x => x.2)).flatten))))).started
          env (env.popped (Instr.mmeta f).form) env.act .mx .matrix (exec (.mmeta f) s)) ∧
    (let t := s.tileAt env.w.ctx core f.aN
      ∀ sl : Nat → Slot, ready (.mstat f) → (∀ l ∈ env.lanes, (Instr.mstat f).form.d.slot env.w.regs (env.w.lane l) = .ok (sl l)) →
      s.wrote env (env.plainResults (Instr.mstat f).form sl (fun _ => word1 (w32 (2 ^ 24 * t.corr +
        (if t.ckFail then 2 ^ 11 else 0) + (if t.marks = [] then 0 else 2 ^ 10) + 2 ^ 8 * t.kind + 2 ^ 4 * t.m + 2 ^ 2 * t.n))))
        (exec (.mstat f) s))

/-- What an mma does to its tile (R241, R411, R416): each element gathers the products of its row and its column,
chunk by chunk of 8 or in FP64 of 4, with one rounding each; a poisoned term marks the element it feeds; every other
element stays. The model's choices in it stand in log entry 63. -/
def Obligations.MatrixElements : Prop :=
  ∀ (t : Tile) (za zb : FSlot) (k : Nat) (rows cols : List (List Term)) (stamp : Nat × Nat),
    rows.length ≤ 64 → cols.length ≤ 64 → za.isBlock = false →
    let u := t.mma za zb k rows cols stamp
    let fm := if za.kind = 1 then f64 else f32
    let chunk := if za.kind = 1 then 4 else 8
    u.kind = t.kind ∧ u.m = t.m ∧ u.n = t.n ∧ u.corr = t.corr ∧ u.ckFail = t.ckFail ∧
    ∀ i n, i < 64 → n < 64 →
      (i < rows.length → n < cols.length →
        u.elem i n = fm.accumulate chunk (products (rows.getD i []) (cols.getD n [])) (k / chunk) 0 (t.elem i n) % 2 ^ 64 ∧
        (feedsMark (rows.getD i []) (cols.getD n []) = true → 64 * i + n ∈ u.marks)) ∧
      (rows.length ≤ i ∨ cols.length ≤ n → u.elem i n = t.elem i n)

/-- The engines' events (R408, R418, R452): a free engine takes the head of its queue once what it reads is there; a
command that ends has done its work, and its operation ends; a follow-on whose copy is done takes its place in its engine's
queue with A as its wave holds it then. -/
def Obligations.MatrixEvents : Prop :=
  ∀ (s : State) (core e : Nat) (o : Op) (c : MCmd), s.op? o.id = some o → c.op = o.id →
    let eng := (s.coreAt core).engines.getD e {}
    let set (f : Engine → Engine) : State :=
      s.updCore core (fun x => { x with engines := (indexed x.engines).map (fun y => if y.1 = e then f y.2 else y.2) })
    (∀ rest, eng.running = none → eng.queue = c :: rest → s.canPerform o = true →
      exec (.matrixCmdStart core e) s = .next (set (fun _ => { queue := rest, running := some c }))) ∧
    (eng.running = some c →
      let done := (set (fun g => { g with running := none })).runCmd o c
      ((∀ sem cp w lanes g p off q, o.body ≠ .follow (some sem) cp w lanes g p off q) →
        exec (.matrixCmdComplete core e) s = .next (done.endOp o)) ∧
      ∀ sem cp w lanes g p off q, o.body = .follow (some sem) cp w lanes g p off q →
        exec (.matrixCmdComplete core e) s = .next ((done.semAdd o.ctx o.core sem 1).endOp o)) ∧
    ∀ w cx sem copy fo lanes g p off, o.body = .follow sem copy fo lanes g p off false → s.wave? o.wave = some w →
      s.ctxFor o.gang o.ctx = some cx → o.home < bankBase → s.op? copy = none →
      let mine (x : State) : List MCmd := ((x.coreAt o.home).engines.getD (fo.tile / 4) {}).queue
      fo.tile / 4 < (s.coreAt o.home).engines.length → (mine s).length < 8 →
      ∃ t, exec (.cpyMxFollowOn o.id) s = .next t ∧ t.op? o.id = some { o with body := .follow sem copy fo lanes g p off true } ∧
        mine t = mine s ++ [.mma o.id w.id fo.tile (w.slots.getD fo.aslot 0) (w.slots.getD fo.bslot 0) fo.shape fo.trans none
          cx.policy.flush (aRows (w.throughBuf (if fo.reuse then w.buffered (fo.tile / 4) fo.range else none)) lanes (w.slot fo.aslot) fo.areg
            fo.shape none) g p off (stampOf (o.gang.bind s.gang?))] ∧
        t.mem = s.mem

/-! ## Copies and synchronisation -/

/-- The copies (R449, R452, R453): the lowest active lane's operands name source, destination and length, and the copy
is in flight, counted by cp; a cpy.mx starts its follow-on with it, counted by mx. The core loses its copies of a
destination in g memory. -/
def Obligations.CopiesStart : Prop :=
  ∀ (f : F3) (s : State) (env : Env) (src dst : CopyEnd) (a b c n : Nat),
    let core := env.w.core
    let lane := env.w.lane env.first
    let operands (i : Instr) : Prop := s.env? i.form.pidx i.form.pneg = some env ∧ i.form.completes env = true ∧
      i.form.a.val env.w lane = .ok a ∧ i.form.b.val env.w lane = .ok b ∧ i.form.c.val env.w lane = .ok c
    let ends (dsp ssp : CopySpace) : Prop := s.endTry env ssp (if dsp = .sp then .engineFill else .engineRead) a n = .ok src ∧
      s.endTry env dsp .store b n = .ok dst
    n ≤ 2 ^ 30 →
    (operands (.cpy f) → n = (c + f.imm.toNat) % 2 ^ 32 → a % 4 = 0 → b % 4 = 0 → n % 4 = 0 →
      ends (if f.w.dstSp then .sp else .g) (if f.w.srcSp then .sp else .g) →
      (s.dropDest env.cx core dst n).started env (env.popped (Instr.cpy f).form) env.act .cp
        (.copy src dst n 0 f.w.semName false) (exec (.cpy f) s)) ∧
    (operands (.cpyCk f) → n = (c + f.imm.toNat) % 2 ^ 32 → a % 64 = 0 → b % 64 = 0 → n % 64 = 0 →
      ends (if f.w.srcSp then .g else .ck) (if f.w.srcSp then .ck else .g) →
      (s.dropDest env.cx core dst n).started env (env.popped (Instr.cpyCk f).form) env.act .cp
        (.copy src dst n 0 f.w.semName false) (exec (.cpyCk f) s)) ∧
    (∀ g p off, let fo : FollowOn := f.imm
      let za := env.w.slot fo.aslot
      let zb := env.w.slot fo.bslot
      operands (.cpyMx f) → n = c % 2 ^ 32 → a % 4 = 0 → b % 64 = 0 → n % 4 = 0 → ends .sp (if f.w.srcSp then .sp else .g) →
      mmaOk za zb (s.tileAt env.w.ctx core fo.tile) fo.shape fo.trans fo.areg = true →
      spTry env.gang env.w (b % 2 ^ 32) (bBytes zb (shapeK za.kind fo.shape) (shapeN fo.shape)) = .ok (.sp g p off) →
      let copy := env.starts s env.act (some .cp) (.copy src dst n 0 none false)
      let both := s.inFlight copy
      (both.inFlight (env.starts both env.e.mask (some .mx) (.follow f.w.semName s.nextId fo env.e.mask g p off false))).did
        env { env.w with ctrs := (env.w.ctrs.add .cp 1).add .mx 1 } (env.popped (Instr.cpyMx f).form) (exec (.cpyMx f) s))

/-- The copy engine (R266, R449, R450): a copy whose words can all be moved moves them in order and ends with its
counter and its semaphore, its core's copies of what it wrote gone; one that meets an absent page of g asks for it and waits; one that has waited for 100 ms
and still finds no page is given up. A word moved into scratchpad is written there with its mark, and no other byte of
the place changes. The model's choices in it stand in log entries 46, 48. -/
def Obligations.CopiesRun : Prop :=
  (∀ (s : State) (o : Op) (cx : Ctx) (src dst : CopyEnd) (n done : Nat) (sem : Option Nat) (wrote : Bool),
    s.op? o.id = some o → s.ctxFor o.gang o.ctx = some cx → o.body = .copy src dst n done sem wrote →
    let ended (t : State) : State := (match sem with | some k => t.semAdd o.ctx o.core k 1 | none => t).endOp o
    s.canPerform o = true →
    (o.waitSince = none → wrote = false → ∀ t at_,
      moveWords o cx src dst n (match dst with | .sp _ _ _ => true | _ => false) ((n - done) / 4) done
        { s := s, wire := [], wrote := false, lost := false, bad := [] } = (t, at_, .done) → t.wrote = false → t.lost = false →
      let u := t.s.clearCovered cx dst done at_ t.bad
      exec (.copyComplete o.id) s = .next (ended (match dst with
        | .g va => u.dropDest cx o.core (.g (va + done)) (at_ - done)
        | _ => u))) ∧
    (o.waitSince = none → o.pageSince = none → ∀ va, dst = .g va → s.xlate cx .store (va + done) = .invalid → 4 ≤ n - done →
      (∃ w pt, s.copyRead cx src false done = .word w pt ∧ pt = none) →
      ∃ t, exec (.copyComplete o.id) s = .next t ∧ t.mem = s.mem ∧
        ∀ p ∈ t.ops, p.id = o.id → p.pageSince = some s.time ∧ p.body = .copy src dst n done sem wrote) ∧
    (∀ since p again, o.pageSince = some since → since + 100000000 ≤ s.time → (s.runCopy o []).op? o.id = some p →
      p.pageSince = some since → p.body = .copy src dst n done sem again →
      exec (.enginePageTimeout o.id) s = .next (((s.runCopy o []).giveUp p).settleRequests o.ctx))) ∧
  ∀ (s : State) (o : Op) (cx : Ctx) (g p off at_ : Nat) (w : PWord) (gang : Gang) (pl : Place),
    s.gang? g = some gang → gang.place? p = some pl → gang.region.attempting = false → (off + at_) % 4 = 0 →
    cellsWf pl.sp = true →
    ∃ t, s.copyWrite o cx (.sp g p off) at_ w = some (.here, t) ∧ t.mem = s.mem ∧ t.waves = s.waves ∧
      ((t.gang? g).bind (fun x => x.place? p)).any (fun q =>
        q.spBanks == pl.spBanks && readNat q.sp (off + at_) 4 == w.val.toNat &&
          (!w.mark || q.marks.contains ((off + at_) / 8))) = true ∧
      ∀ q, (t.gang? g).bind (fun x => x.place? p) = some q → ∀ b, b < off + at_ ∨ off + at_ + 4 ≤ b →
        readByte q.sp b = readByte pl.sp b

/-- Semaphores (R455): sem.inc adds and saturates, sem.set replaces, sem.wait takes its v where nobody waits and the
count suffices, acting as an acquire, and else waits in line; the first in line passes when the count suffices. A
count set is read back, and no other count changes. -/
def Obligations.Semaphores : Prop :=
  (∀ (f : F2) (s : State) (env : Env) (v : Nat),
    let ctx := env.w.ctx
    let core := env.w.core
    let k := f.modAt 10 5
    let have_ := s.sem ctx core k
    let operand (i : Instr) : Prop := s.env? i.form.pidx i.form.pneg = some env ∧ i.form.completes env = true ∧
      i.form.a.val env.w (env.w.lane env.first) = .ok v
    (operand (.semInc f) →
      (s.setSem ctx core k (min (have_ + v) (2 ^ 32 - 1))).did env env.w (env.popped (Instr.semInc f).form) (exec (.semInc f) s)) ∧
    (operand (.semSet f) → (s.setSem ctx core k v).did env env.w (env.popped (Instr.semSet f).form) (exec (.semSet f) s)) ∧
    (operand (.semWait f) →
      (s.waitersOn ctx core k = [] ∧ v ≤ have_ →
        ((s.setSem ctx core k (have_ - v)).acquire core).did env env.w (env.popped (Instr.semWait f).form) (exec (.semWait f) s)) ∧
      (¬(s.waitersOn ctx core k = [] ∧ v ≤ have_) →
        env.w.frontier.any (fun e => e.pc == env.is.pc && e.depth == env.is.depth && e.block.sameKind (.sem k v)) = false →
        (s.updCtxCore ctx core (fun c => { c with waiters := c.waiters ++
          [(k, { wave := env.w.id, pc := env.is.pc, depth := env.is.depth, v := v })] })).held env env.w
            (env.popped (Instr.semWait f).form) (fun b => b = .sem k v) (exec (.semWait f) s))) ∧
    (∀ x rest, s.waitersOn ctx core k = x :: rest →
      let mine (e : Entry) : Bool := e.pc == x.pc && e.depth == x.depth && (match e.block with | .sem j _ => j == k | _ => false)
      exec (.semWaitPass ctx core k) s = .next (if have_ < x.v then s
        else (((s.setSem ctx core k (have_ - x.v)).updCtxCore ctx core (fun c =>
          { c with waiters := c.waiters.erase (k, x) })).updWave x.wave (fun w => w.freeEntries 3 2 mine)).acquire core))) ∧
  ∀ (s : State) (ctx core k v : Nat), k < (s.ctxCoreAt ctx core).sems.length →
    (s.setSem ctx core k v).sem ctx core k = v ∧
      ∀ x c j, ¬(x = ctx ∧ c = core ∧ j = k) → (s.setSem ctx core k v).sem x c j = s.sem x c j

/-- Barriers (R183 to R187, R273, R456): arrive sets the wave's flag; wait passes where it is not set, and else holds;
sync does both; with every live participant arrived the phase releases, the flags clear and the waiting threads go on.
The model's choices in it stand in log entry 52. -/
def Obligations.Barriers : Prop :=
  ∀ (f : F2) (s : State) (env : Env) (g : Gang) (x : Barrier),
    let b : BarId := if f.cN = 64 then .gang else .named env.w.group f.cN
    let named (i : Instr) : Prop := s.env? i.form.pidx i.form.pneg = some env ∧ i.form.completes env = true ∧
      env.gang = some g ∧ s.gang? g.id = some g ∧ env.w.gang = some g.id ∧ g.barrier? b = some x
    let arrived := s.updGang g.id (fun y => y.updBarrier b (fun z => { z with arrived := addSet env.w.id z.arrived }))
    (named (.barArrive f) → arrived.did env env.w (env.popped (Instr.barArrive f).form) (exec (.barArrive f) s)) ∧
    (named (.barWait f) →
      (x.arrived.contains env.w.id = false →
        (if g.oneCore b then s else s.acquire env.w.core).did env env.w (env.popped (Instr.barWait f).form)
          (exec (.barWait f) s)) ∧
      (x.arrived.contains env.w.id = true →
        s.held env env.w (env.popped (Instr.barWait f).form) (fun y => y = .barrier b) (exec (.barWait f) s))) ∧
    (named (.barSync f) →
      arrived.held env env.w (env.popped (Instr.barSync f).form) (fun y => y = .barrier b) (exec (.barSync f) s)) ∧
    (s.gang? g.id = some g → g.barrier? b = some x →
      let ws := s.participants g.id b
      (x.arrived = [] ∨ (∃ w ∈ ws, x.arrived.contains w.id = false) → exec (.barrierRelease g.id b) s = .next s) ∧
      (x.arrived ≠ [] → (∀ w ∈ ws, x.arrived.contains w.id = true) →
        ∃ t, exec (.barrierRelease g.id b) s = .next t ∧ t.mem = s.mem ∧
          (∀ h, t.gang? g.id = some h → ∀ y, h.barrier? b = some y → y.arrived = []) ∧
          ∀ w ∈ t.waves, w.gang = some g.id → ∀ e ∈ w.frontier, e.block ≠ .barrier b))

/-- wait and the fences (R271, R272, R454, R457): a wait that issues changes nothing, and issues only when every
counter its mask names holds at most its threshold; fence.acq acts as an acquire, and so does fence.ar, which issues only
when the accesses of its threads and the stores of its core are no longer in flight; fence.rel holds its threads' later
stores and atomics while an earlier access it waits for is in flight. An acquire leaves in its core's L1
what the core owns, what is read-only and what is pinned. sram.mode (R247, R458): the group's banks change as it
issues, on every core it spans or on none; its status lands when the change completes. The model's choices in it stand
in log entries 51, 60. -/
def Obligations.WaitAndFences : Prop :=
  ((∀ (f : F2) (s : State) (env : Env),
     let ready (i : Instr) : Prop := s.env? i.form.pidx i.form.pneg = some env ∧ i.form.completes env = true
     let fenced := (s.inFlight (env.starts s env.act none .fence)).dropFences
     (ready (.wait f) → s.wrote env (env.popped (Instr.wait f).form) (exec (.wait f) s)) ∧
     (ready (.fenceAcq f) → (s.acquire env.w.core).did env env.w (env.popped (Instr.fenceAcq f).form) (exec (.fenceAcq f) s)) ∧
     (ready (.fenceRel f) → fenced.did env env.w (env.popped (Instr.fenceRel f).form) (exec (.fenceRel f) s)) ∧
     (ready (.fenceAr f) → (s.acquire env.w.core).did env env.w (env.popped (Instr.fenceAr f).form) (exec (.fenceAr f) s))) ∧
   (∀ (f : F2) (s : State) (env : Env), env.act ≠ 0 → (Instr.wait f).form.legal env = true →
     s.formReady env (Instr.wait f).form = true →
     ∀ k < 6, f.cN.testBit k = true → env.w.ctrs.all.getD k 0 ≤ f.bN) ∧
   (∀ (f : F2) (s : State) (env : Env), env.act ≠ 0 → (Instr.fenceAr f).form.legal env = true →
     s.formReady env (Instr.fenceAr f).form = true → ∀ o ∈ s.ops,
       (o.wave = env.w.id → o.lanes &&& env.act ≠ 0 → o.body.isAccess = false) ∧
       (o.core = env.w.core → o.body.isStore = false)) ∧
   (∀ (s : State) (e f o : Op), e ∈ s.ops → f ∈ s.ops → f.body = .fence → e.id < f.id → f.id < o.id → e.releaseNeeds f = true →
     f.wave = o.wave → f.lanes &&& o.lanes ≠ 0 → o.body.isStore = true ∨ o.body.isAtom = true → s.canPerform o = false) ∧
   ∀ (s : State) (core : Nat) (x : L1Word), core < bankBase →
     (x ∈ ((s.acquire core).coreAt core).l1 ↔ x ∈ (s.coreAt core).l1 ∧
       (x.owned = true ∨ x.ro = true ∨ (s.pinnedLines core).contains (x.pa / 128) = true)) ∧
     (s.acquire core).mem = s.mem ∧ ∀ c, c ≠ core → (s.acquire core).core? c = s.core? c) ∧
  (∀ (f : F2) (s : State) (env : Env) (g : Gang) (sl : Nat → Slot),
     let F := (Instr.sramMode f).form
     s.env? F.pidx F.pneg = some env → F.completes env = true → env.gang = some g →
     (∀ l ∈ env.lanes, F.d.slot env.w.regs (env.w.lane l) = .ok (sl l)) →
     let r := s.changeBanks g env.w.group (f.modAt 8 2) (f.cN == 1)
     let body : OpBody := .sramMode { lanes := env.lanes.map (fun l => (l, sl l)), words := 1 } r.1
     (r.2.inFlight (env.starts r.2 env.act none body)).did env env.w (env.popped F) (exec (.sramMode f) s) ∧
     (r.1 ≠ 0 → r.2 = s) ∧
     ∀ (t : State) (o : Op) (d : Dst) (status : Nat), t.op? o.id = some o → o.body = .sramMode d status →
       exec (.sramModeChangeDone o.id) t =
         .next ((t.updWave o.wave (fun w => d.lanes.foldl (fun w x => w.land x.1 x.2 (word1 (w32 status))) w)).endOp o))

/-! ## Tasks, reuse and rays -/

/-- The task forms (R124, R125, R127, R462 to R466). A spawn makes a record of each active lane (R120): its target,
join word, kind and carried registers; the records go their way in lane order. A join whose words all count 0 goes on
as an acquire. A park leaves with its active lanes under a new request number. tsk.exit ends the tasks of its active lanes
as exit ends threads; in a wave of a group it is no instruction. -/
def Obligations.TaskForms : Prop :=
  ∀ (f : F2) (s : State) (env : Env),
    let ready (i : Instr) : Prop := s.env? i.form.pidx i.form.pneg = some env ∧ i.form.completes env = true
    (∀ (pure_ : Bool) (r : Nat → Rec),
      let i : Instr := if pure_ then .tskSpawnp f else .tskSpawn f
      ready i → (pure_ = true → (s.kernelOf env.w).any (fun h => bitOf h.flags 1) = true) →
      (∀ l ∈ env.lanes, s.spawnTry env f i.form pure_ (env.w.lane l) = .ok (.go (r l))) →
      (env.lanes.foldl (fun s l => s.spawnNow env l (r l)) s).did env env.w (env.popped i.form) (exec i s) ∧
      ∀ l ∈ env.lanes, ∃ a b, i.form.a.val env.w (env.w.lane l) = .ok a ∧ i.form.b.val env.w (env.w.lane l) = .ok b ∧
        env.headers.contains a = true ∧ b % 8 = 0 ∧ (r l).pc = a % 2 ^ 56 ∧ (r l).join = b ∧
        (r l).kind = (if pure_ then 1 else 0) ∧ (r l).nreg = f.nCarried ∧ (r l).dbase = f.dN ∧ (r l).depth = 0 ∧
        (r l).ctx = env.cx.id ∧ (r l).tenant = env.cx.tenant ∧
        ∀ k < f.nCarried, (r l).regs.getD k 0 = (wordAt (env.w.lane l).v (f.cN + k)).val ∧
          (r l).poison.getLsbD k = (wordAt (env.w.lane l).v (f.cN + k)).mark) ∧
    (∀ va pa : Nat → Nat, ready (.tskJoin f) → env.headers.contains env.is.next = true →
      (∀ l ∈ env.lanes, s.tskJoinTry env f (Instr.tskJoin f).form (env.w.lane l) = .ok (.at_ (va l) (pa l)) ∧
        ofBytes (((s.currentBytes (pa l) 8).map (fun b => b.1)).take 4) = 0) →
      (env.lanes.length = 1 ∨ ∀ l ∈ env.lanes, ∀ k < 8, s.ownerOf ((pa l + k) / 4 * 4) = none) →
      (s.acquire env.w.core).did env env.w (env.popped (Instr.tskJoin f).form) (exec (.tskJoin f) s)) ∧
    (∀ l va pa, ready (.tskJoin f) → env.headers.contains env.is.next = true → env.act = laneBit l → l < 32 →
      s.tskJoinTry env f (Instr.tskJoin f).form (env.w.lane l) = .ok (.at_ va pa) →
      let word := ofBytes ((s.currentBytes pa 8).map (fun b => b.1))
      word % 2 ^ 32 ≠ 0 →
      let b := s.begin_ env (Instr.tskJoin f).form
      let p := b.poolTake env.cx
      let t := (p.2.parkThread env l p.1 (env.parked f l va (word / 2 ^ 32) 0)).writeMem (some env.cx.id)
        (putsOf (pa + 4) ((toBytes 4 p.1).map (fun x => (x, false))))
      ∃ u, env.leave (laneBit l) t = .ok u ∧ exec (.tskJoin f) s = .next u) ∧
    (ready (.tskPark f) → env.headers.contains env.is.next = true → f.dN + f.nCarried ≤ s.kernelRegs env.w →
      env.act ≠ env.e.mask → (∀ e ∈ env.w.frontier, e.isAt env.is.pc env.is.depth = true ∨ e.mask &&& env.e.mask = 0) →
      ∃ t w, exec (.tskPark f) s = .next t ∧ t.wave? env.w.id = some w ∧
        (∀ l ∈ env.lanes, (∀ e ∈ w.frontier, hasLane e.mask l = false) ∧ (w.lane l).rec_ = none) ∧
        (∀ l ∈ lanesOf env.e.mask, hasLane env.act l = false → w.laneAt l env.is.next env.e.depth env.e.prio = true) ∧
        (t.ctx? env.cx.id).any (fun c => c.nextReq == if env.cx.nextReq + 1 < 2 ^ 32 then env.cx.nextReq + 1 else 1) = true) ∧
    (s.env? (Instr.tskExit f).form.pidx (Instr.tskExit f).form.pneg = some env → env.w.task = true →
      exec (.tskExit f) s = exec (.exit f) s) ∧
    (ready (.tskExit f) → env.w.task = true → env.act ≠ env.e.mask →
      (∀ e ∈ env.w.frontier, e.isAt env.is.pc env.is.depth = true ∨ e.mask &&& env.e.mask = 0) →
      ∃ t w, exec (.tskExit f) s = .next t ∧ t.wave? env.w.id = some w ∧
        (∀ l ∈ env.lanes, (∀ e ∈ w.frontier, hasLane e.mask l = false) ∧ (w.lane l).rec_ = none) ∧
        (∀ l ∈ lanesOf env.e.mask, hasLane env.act l = false →
          w.laneAt l env.is.next env.e.depth env.e.prio = true ∧ w.lane l = env.w.lane l)) ∧
    (ready (.tskExit f) → env.w.task = false →
      exec (.tskExit f) s = .next (s.takeTrap env { masks := [(0x01, env.act)] }))

/-- reu.inv and reu.stat (R143, R145, R467, R468). -/
def Obligations.ReuseForms : Prop :=
  ∀ (f : F2) (s : State) (env : Env),
    let ready (i : Instr) : Prop := s.env? i.form.pidx i.form.pneg = some env ∧ i.form.completes env = true
    (∀ a, ready (.reuInv f) → (Instr.reuInv f).form.a.val env.w (env.w.lane env.first) = .ok a →
      ∃ t w, exec (.reuInv f) s = .next t ∧ t.wave? env.w.id = some w ∧ env.w.kept w ∧ env.movedOn w ∧ t.mem = s.mem ∧
        (∀ l ∈ laneList, w.lane l = env.popped (Instr.reuInv f).form l) ∧
        let mine (r : Reuse) : Bool := r.tenant == env.cx.tenant &&
          (a == 0 || (s.localPa env.cx .load a).any (fun pa => r.watch.contains (pa / pageBytes)))
        (∀ r, r ∈ t.reuse ↔ ∃ x ∈ s.reuse, (mine x = false ∧ r = x) ∨
          (mine x = true ∧ x.st ≠ 1 ∧ x.st ≠ 2 ∧ r = x) ∨ (mine x = true ∧ x.st = 2 ∧ r = { x with st := 3 }))) ∧
    (∀ sl : Nat → Slot, ready (.reuStat f) →
      (∀ l ∈ env.lanes, (Instr.reuStat f).form.d.slot env.w.regs (env.w.lane l) = .ok (sl l)) →
      let n := ((s.ctx? env.cx.id).map (fun c => [c.reuse.lookup, c.reuse.hit, c.reuse.miss, c.reuse.insert, c.reuse.drop,
        c.reuse.noway, c.reuse.inval, c.reuse.purity, c.reuse.joinUf, c.reuse.badRec].getD f.cN 0)).getD 0
      s.started env (env.popped (Instr.reuStat f).form) env.act .ld
        (.deliver { lanes := env.lanes.map (fun l => (l, sl l)), words := 2 } (env.lanes.map (fun l => (l, wordsOf 2 n))))
        (exec (.reuStat f) s))

/-- The ray forms (R469 to R472). A cast or a beam whose scenes' join words can be reached (R125, R172) appends each active
lane's record in lane order and counts on ry until its statuses land; a verdict reaches the slot its handle names; ray.rd delivers a word of the lane's record. The
model's choices in it stand in log entries 49, 69. -/
def Obligations.RayForms : Prop :=
  ∀ (f : F2) (s : State) (env : Env) (a : Nat → Nat) (sl : Nat → Slot),
    let ready (i : Instr) : Prop := s.env? i.form.pidx i.form.pneg = some env ∧ i.form.completes env = true
    let dst : Dst := { lanes := env.lanes.map (fun l => (l, sl l)), words := 1 }
    (∀ beam : Bool,
      let i : Instr := if beam then .rayBeam f else .rayCast f
      let record (l : Nat) : List PWord :=
        if beam then beamRecord ((env.w.lane l).main f.aN 16) else castRecord ((env.w.lane l).main f.aN 11)
      let r := env.lanes.foldl (fun (x : List (Nat × List PWord) × State) l =>
        let y := x.2.emitRay env.cx (a l) beam (record l)
        (x.1 ++ [(l, word1 (w32 y.1))], y.2)) ([], s)
      ready i → (∀ l ∈ env.lanes, i.form.b.val env.w (env.w.lane l) = .ok (a l) ∧ a l % 256 = 0 ∧
        s.joinTry env.cx (s.emitJoin env.cx (a l)) = .ok [] ∧ i.form.d.slot env.w.regs (env.w.lane l) = .ok (sl l)) →
      r.2.started env (env.popped i.form) env.act .ry (.ray dst r.1) (exec i s)) ∧
    (∀ v : Verdict,
      let i : Instr := match v with | .accept => .rayAccept f | .ignore => .rayIgnore f | .term => .rayTerm f
      ready i → (∀ l ∈ env.lanes, i.form.a.val env.w (env.w.lane l) = .ok (a l)) →
      (env.lanes.foldl (fun s l => s.giveVerdict env.w.ctx (a l) v) s).did env env.w (fun l =>
        let lane := env.popped i.form l
        if hasLane env.act l then
          { lane with spoke := lane.spoke || lane.rec_.any (fun x => x.kind == 4 && x.handle == a l) } else lane) (exec i s)) ∧
    (ready (.rayRd f) → (∀ l ∈ env.lanes, (Instr.rayRd f).form.d.slot env.w.regs (env.w.lane l) = .ok (sl l)) →
      s.started env (env.popped (Instr.rayRd f).form) env.act .ld
        (.deliver dst (env.lanes.map (fun l => (l, word1 ((env.w.lane l).tail.getD f.cN 0))))) (exec (.rayRd f) s)) ∧
    ∀ (o : Op) (d : Dst) (vals : List (Nat × List PWord)), s.op? o.id = some o → o.body = .ray d vals →
      exec (.rayAppendComplete o.id) s = .next ((s.landAll o d vals).endOp o)

/-! ## Regions, kills and launches that end -/

/-- The region forms (R279 to R282, R473 to R476). The lanes of rgn.open and rgn.commit wait, and the gang notes the
live-in count; the first arrival moves the region's state. rgn.abort waits as well, and has its target noted where the
region can be replayed; where it cannot, the gang is killed with reason 1. rgn.stat writes the word that C names. The
model's choices in it stand in log entry 72. -/
def Obligations.RegionForms : Prop :=
  ∀ (s : State) (env : Env) (g : Gang),
    let ready (i : Instr) : Prop := s.env? i.form.pidx i.form.pneg = some env ∧ i.form.completes env = true
    let mine : Prop := env.gang = some g ∧ s.gang? g.id = some g ∧ env.w.gang = some g.id
    let kernel : Prop := env.w.task = false ∧ (s.kernelOf env.w).any (fun h => bitOf h.flags 0) = true
    let arrives (i : Instr) (b : Block) (st : Wave → Nat) (snaps : List Snap → Prop) : Prop :=
      ∃ t w h, exec i s = .next t ∧ (∀ j, j ≠ env.w.id → t.wave? j = s.wave? j) ∧ t.wave? env.w.id = some w ∧ env.w.kept w ∧
        (∀ l ∈ lanesOf env.e.mask, env.laneWaits w l (fun x => x = b)) ∧ (∀ l ∈ laneList, w.lane l = env.popped i.form l) ∧
        t.gang? g.id = some h ∧ h.region.st = st w ∧ snaps h.region.snaps ∧ (h.region.st = g.region.st → t.mem = s.mem)
    (∀ f : F2, ready (.rgnOpen f) → mine → kernel → f.cN ≤ env.w.regs → env.w.queuesEmpty = true →
      arrives (.rgnOpen f) .regionOpen (fun w => if g.region.st = 0 ∧ w.standsAt .regionOpen = true then 1 else g.region.st)
        (fun xs => ∀ x ∈ xs, x.wave = env.w.id → x.n = f.cN)) ∧
    (∀ f : F2, ready (.rgnCommit f) → mine → kernel → g.region.inside = true →
      arrives (.rgnCommit f) .regionCommit
        (fun w => if g.region.st < 4 ∧ w.standsAt .regionCommit = true then 4 else g.region.st) (fun xs => xs = g.region.snaps)) ∧
    (∀ f : F3, ready (.rgnAbort f) → mine → 2 ≤ g.region.st →
      let target := wrap 56 ((env.is.pc : Int) + f.imm.toInt)
      env.headers.contains target = true →
      (if g.region.replayable then s.updRegion g.id (fun r => r.noteAbort target (env.key env.first) s.time)
        else s.updGang g.id (fun x => { x with
          doom := some { source := 0, core := none, cause := 0, reason := 1, kill := true } })).held env env.w
        (env.popped (Instr.rgnAbort f).form) (fun x => x = .regionOpen) (exec (.rgnAbort f) s)) ∧
    (∀ (f : F2) (sl : Nat → Slot), ready (.rgnStat f) →
      (∀ l ∈ env.lanes, (Instr.rgnStat f).form.d.slot env.w.regs (env.w.lane l) = .ok (sl l)) →
      let v := s.regionStat env.w env.region f.cN
      s.wrote env (env.plainResults (Instr.rgnStat f).form sl (fun _ => word1 (w32 v))) (exec (.rgnStat f) s) ∧
      (f.cN = 0 → env.region.attempt < 4 → env.region.st < 8 →
        v / 2 ^ 8 = env.region.region % 2 ^ 24 ∧ v / 2 ^ 4 % 4 = env.region.attempt ∧
        v / 2 ^ 3 % 2 = (if env.region.spilled then 1 else 0) ∧ v % 2 ^ 3 = env.region.st) ∧
      (f.cN ≠ 0 → env.region.inside = false → v = 0) ∧ (f.cN = 1 → env.region.inside = true → v = env.region.used))

/-- A region opens and commits (R280, R290, R292 to R295). With every wave at rgn.open each goes on behind it, as an acquire: o0
to o7, lt and the registers from n up are 0, the rest is kept and is what the snapshot holds; the state is 2, or 3 after an
overflow. The snapshot's slots go to the region log. The commit point needs every wave at rgn.commit and one of its die's eight
tokens, which go out in the order the gangs came for them; else the gang takes its place. The token returns with the last
core's drain. Then spilled lines and the deferred memory operations in KEY order take effect; when none of them is out on
another package the spawns do, in KEY order, and the region closes and its waves pass. Lines that drain are at home. A slot of
the region log (R290): the open's PC, depth, priority, count and mask, the live-in registers and the scalars at their offsets.
The model's choices in it stand in log entries 72, 100. -/
def Obligations.RegionsCommit : Prop :=
  (∀ (s : State) (g : Gang), s.gang? g.id = some g →
     let mine := s.gangWaves g.id
     (g.region.st = 1 → g.doom = none → (∀ w ∈ mine, w.standsAt .regionOpen = true) → (s.waves.map (fun w => w.id)).Nodup →
       ∃ t h, exec (.regionOpenRelease g.id) s = .next t ∧ t.gang? g.id = some h ∧
         h.region.st = (if g.region.overflow then 3 else 2) ∧ h.region.opened = s.stamp ∧ h.region.lines = g.region.lines ∧
         h.region.deferred = g.region.deferred ∧ h.region.journal = [] ∧ h.region.abort = none ∧
         (∀ w ∈ mine, w.core < bankBase → ∀ y ∈ (t.coreAt w.core).l1,
           y.owned = true ∨ y.ro = true ∨ (t.pinnedLines w.core).contains (y.pa / 128) = true) ∧
         ∀ w ∈ mine, ∃ v x, t.wave? w.id = some v ∧ x ∈ h.region.snaps ∧ x.wave = w.id ∧
           x.n = ((g.region.snaps.find? (fun y => y.wave == w.id)).map (fun y => y.n)).getD 0 ∧
           x.lanes = v.lanes.map Lane.recheck ∧ x.scalars = v.scalars ∧ v.scalars = w.scalars ∧
           (∀ e ∈ w.frontier, ∃ y ∈ v.frontier, x.entry = y ∧ y.pc = e.pc + 8 ∧ y.depth = e.depth ∧ y.prio = e.prio ∧
             y.mask = e.mask ∧ y.block = .none) ∧
           ∀ l < w.lanes.length, (v.lane l).x = (w.lane l).x ∧ (v.lane l).p = (w.lane l).p ∧ (v.lane l).lt = {} ∧
             (∀ k, wordAt (v.lane l).o k = {}) ∧
             ∀ k, wordAt (v.lane l).v k = if k < x.n then wordAt (w.lane l).v k else {}) ∧
     (g.region.st ≠ 1 ∨ g.doom ≠ none ∨ (∃ w ∈ mine, w.standsAt .regionOpen = false) →
       exec (.regionOpenRelease g.id) s = .next s) ∧
     (∀ l cx, s.logOf g.id = some (g, l, cx) →
       exec (.regionSnapshotDone g.id) s = .next (if g.region.snapDone then s
         else (g.region.snaps.foldl (fun (s : State) x => match s.wave? x.wave with
           | some w => s.writeOut cx (some g.id) (g.logBase + pageBytes + 28672 * g.slotOf l.hdr w)
               (x.bytes.map (fun b => (b, false)))
           | none => s) s).updRegion g.id (fun r => { r with snapDone := true }))) ∧
     (let ready : Prop := g.region.st = 4 ∧ g.region.snapDone = true ∧ g.doom = none ∧ g.region.abort = none ∧
        g.region.forced = false ∧ g.st = .placed ∧ ∀ w ∈ mine, w.standsAt .regionCommit = true
      let first : Prop := s.tokensOut (dieOf (g.cores.headD 0)) < 8 ∧ s.tokenBefore g = false
      (ready → first → ∃ t h, exec (.commitPoint g.id) s = .next t ∧ t.gang? g.id = some h ∧ h.region.st = 5 ∧
         h.region.token = true ∧ h.region.ticket = none ∧ h.region.region = (g.region.region + 1) % 2 ^ 64 ∧
         h.region.committed = s.stamp ∧ t.waves = s.waves) ∧
      (ready → ¬first → exec (.commitPoint g.id) s = .next (if g.region.ticket.isSome then s
         else { s with nextId := s.nextId + 1 }.updRegion g.id (fun r => { r with ticket := some s.nextId }))) ∧
      (¬ready → exec (.commitPoint g.id) s = .next s)) ∧
     (∀ core, g.region.st = 5 → g.cores.contains core = true → g.region.drained.contains core = false →
       ∃ t h, exec (.commitTokenReturn g.id core) s = .next t ∧ t.gang? g.id = some h ∧
         t.mem = (s.drainLines g.ctx (g.region.lines.filter (fun n => n.core == core && !n.spilled))).mem ∧
         h.region.drained.contains core = true ∧
         (h.region.token = true ↔ ∃ c ∈ g.cores, h.region.drained.contains c = false) ∧
         h.region.lines = g.region.lines.filter (fun n => n.core != core || n.spilled)) ∧
     (g.region.st = 5 → g.cores.all (fun c => g.region.drained.contains c) = true → s.spawnsFit g = true →
       let inOrder (p : Deferred → Bool) : List Deferred := (sortedDeferred g.region).filter p
       let applied (t : State) (ds : List Deferred) : State := ds.foldl (fun (t : State) d => t.applyDeferred g.id d) t
       let u := (applied (s.drainLines g.ctx (g.region.lines.filter (fun n => n.spilled))) (inOrder (fun d => !d.isSpawn))).updRegion
         g.id (fun r => { r with lines := [], deferred := r.deferred.filter (fun d => d.isSpawn) })
       (u.commitOut g.id = true → exec (.commitDrainDone g.id) s = .next u) ∧
       (u.commitOut g.id = false →
         exec (.commitDrainDone g.id) s = .next ((applied u (inOrder (fun d => d.isSpawn))).passCommit g.id))) ∧
     (g.doom = none → ∃ h, (s.passCommit g.id).gang? g.id = some h ∧ h.region.st = 0 ∧ h.region.token = false ∧
       h.region.lines = [] ∧ h.region.deferred = [] ∧
       ∀ w ∈ (s.passCommit g.id).waves, w.gang = some g.id → ∀ e ∈ w.frontier, e.block ≠ .regionCommit) ∧
     (sortedDeferred g.region).Perm g.region.deferred ∧ (sortedDeferred g.region).Pairwise (fun a b => a.key ≤ b.key)) ∧
  (∀ (s : State) (ctx : Nat) (ls : List WLine),
     let ws := (ls.map (fun n => n.words)).flatten
     (ws.map (fun w => w.1)).Nodup → (∀ w ∈ ws, w.1 % 4 = 0) →
     ∀ w ∈ ws, readNat (s.drainLines ctx ls).mem w.1 4 = w.2.val.toNat) ∧
  (∀ x : Snap, x.n ≤ 192 → x.lanes.length = 32 → x.scalars.length = 64 → (∀ l ∈ x.lanes, x.n ≤ l.v.length) →
     let at_ (a n : Nat) : Nat := ofBytes (slice 0 x.bytes a n)
     x.bytes.length = 28672 ∧ at_ 0x620 8 = x.entry.pc % 2 ^ 64 ∧ at_ 0x628 1 = x.entry.depth % 2 ^ 8 ∧
     at_ 0x629 1 = x.entry.prio % 2 ^ 8 ∧ at_ 0x62A 1 = x.n ∧ at_ 0x62C 4 = x.entry.mask.toNat ∧
     (∀ k < 64, at_ (8 * k) 4 = ((x.scalars.getD k {}).lo.val).toNat ∧ at_ (8 * k + 4) 4 = ((x.scalars.getD k {}).hi.val).toNat) ∧
     ∀ i < x.n, ∀ l < 32, at_ (0xC00 + 128 * i + 4 * l) 4 = (wordAt (x.lanes.getD l {}).v i).val.toNat ∧
       (at_ (0x800 + 4 * i) 4).testBit l = (wordAt (x.lanes.getD l {}).v i).mark)

/-- A rollback (R297 to R300, R302, R310, R475): the snapshot's slots are complete, every wave stands at its slot with its
counters 0 and its operations gone, and the region's stores and deferred operations are discarded. An error counts an attempt
and is reported, and a fourth kills; it takes the place of an abort that has not closed yet. An abort stands at its target, in
state 6; a forced one waits at the open. The model's choices in it stand in log entries 72, 73. -/
def Obligations.RegionsRollBack : Prop :=
  ∀ (s : State) (g : Gang), s.gang? g.id = some g →
    let back (t : State) (h : Gang) (attempt : Nat) (abort : Option (Nat × Nat × Nat)) : Prop :=
      exec (.rollback g.id) s = .next t ∧ t.gang? g.id = some h ∧ h.region.st = 6 ∧ h.region.attempt = attempt ∧
      h.region.lines = [] ∧ h.region.deferred = [] ∧ h.region.journal = [] ∧ h.region.abort = abort ∧ h.region.snapDone = true ∧
      h.bar.arrived = [] ∧
      (∀ w ∈ s.gangWaves g.id, ∀ x ∈ g.region.snaps, x.wave = w.id → ∃ v, t.wave? w.id = some v ∧ v.ctrs = {} ∧
        t.ops.all (fun o => o.wave != w.id) = true ∧ v.heldEntries = [] ∧
        ∃ e, v.frontier = [e] ∧ e.pc = (abort.map (fun a => a.1)).getD x.entry.pc ∧ e.depth = x.entry.depth ∧ e.prio = x.entry.prio ∧
          e.mask = x.entry.mask ∧ v.scalars = x.scalars ∧
          ∀ l < w.lanes.length, (v.lane l).v = (x.lanes.getD l {}).v ∧ (v.lane l).p = (x.lanes.getD l {}).p ∧
            (v.lane l).x = (x.lanes.getD l {}).x)
    g.st = .placed → (s.waves.map (fun w => w.id)).Nodup → (g.region.snaps.map (fun x => x.wave)).Nodup →
    (∀ w ∈ s.waves, w.id ≠ 0) →
    (∀ d, g.doom = some d → d.kill = false → g.region.replayable = true ∨ (g.region.st = 6 ∧ g.region.abort.isSome = true) →
      (g.region.attempt < 3 → ∃ t h, back t h (g.region.attempt + 1) none ∧
        (s.rollbackEvent g d (d.core.any (fun c => (s.moveOff g c).isSome))).dev.out <+: t.dev.out) ∧
      (3 ≤ g.region.attempt →
        exec (.rollback g.id) s = .next (s.updGang g.id (fun x => { x with doom := some { d with kill := true, reason := 2 } })))) ∧
    (∀ a, g.doom = none → g.region.abort = some a → g.region.replayable = true →
      ∃ t h, back t h g.region.attempt (some a)) ∧
    (g.doom = none → g.region.abort = none → g.region.forced = true → g.region.replayable = true →
      ∃ t h, back t h g.region.attempt none)

/-- What follows a rollback or a kill (R78, R299, R302 to R305, R310). After an abort the region closes; else the replay opens
again, where a core is at fault on spare cores of its die, for a group of several a quad that is spare as a whole, and without
them the gang is killed with reason 3. A killed gang's waves go and what its region held back is discarded; when its operations
have run out it runs again or ends, with event 5. A launch whose gangs have ended has its buffered operations applied and DONE
written, and completes. The model's choices in it stand in log entries 77, 85. -/
def Obligations.GangsEnd : Prop :=
  (∀ (s : State) (g : Gang), s.gang? g.id = some g →
    (g.region.st = 6 → g.st = .placed →
      (∀ a, g.doom = none → g.region.abort = some a → ∃ t h, exec (.remountReplayStart g.id) s = .next t ∧
        t.gang? g.id = some h ∧ h.region.st = 0 ∧ h.region.abort = none ∧ h.region.snaps = [] ∧ t.waves = s.waves) ∧
      (g.region.abort = none → g.region.forced = false →
        ((∀ d, g.doom = some d → d.core = none ∧ d.kill = false) →
          ∃ t h, exec (.remountReplayStart g.id) s = .next t ∧ t.gang? g.id = some h ∧ h.region.st = 2 ∧
            h.region.opened = s.stamp ∧ h.doom = none ∧ t.waves = s.waves) ∧
        ∀ d c, g.doom = some d → d.core = some c → d.kill = false →
          let hit := g.groups.filter (fun r => r.places.any (fun p => p.core == c))
          (s.moveAll g hit = none → exec (.remountReplayStart g.id) s = .next (s.updGang g.id (fun x =>
            { x with doom := x.doom.map (fun y => { y with kill := true, reason := 3 }) }))) ∧
          ∀ u, s.moveAll g hit = some u → ∃ t, exec (.remountReplayStart g.id) s = .next t ∧ t.waves = u.waves ∧
            ∀ h, t.gang? g.id = some h → h.region.st = 2 ∧ h.doom = none)) ∧
    (∀ d, g.doom = some d → d.kill = true → g.st.live = true → g.region.st ≠ 5 →
      ∃ t, exec (.gangKill g.id) s = .next t ∧ (∀ w ∈ t.waves, w.gang ≠ some g.id) ∧
        ∀ h, t.gang? g.id = some h → h.st = .dying ∧ h.region.lines = [] ∧ h.region.deferred = []) ∧
    (∀ d, g.doom = some d → g.st = .dying → s.ops.all (fun o => o.gang != some g.id) = true → g.pass = none → g.taskGang = false →
      let ended (again : Bool) : State := (s.killedExits g).event g.ctx 5 (if d.cause ≠ 0 then d.cause else d.source) g.index
        (killInfo d again (g.relaunches + if again then 1 else 0))
      (s.relaunches g d = true → exec (.gangRelaunch g.id) s = .next (((ended true).updGang g.id (fun x =>
        { x with st := .pending, pendingAt := s.time, groups := [], bar := {}, region := {}, lost := 0, doom := none, stale := none,
                 relaunches := g.relaunches + 1 })).updLaunch g.launch (fun l =>
          { l with relaunched := l.relaunched + (if g.relaunches = 0 then 1 else 0) }))) ∧
      (s.relaunches g d = false → exec (.gangRelaunch g.id) s = .next (((ended false).updGang g.id (fun x =>
        { x with st := .done, groups := [], doom := none })).updLaunch g.launch (fun l =>
          { l with doneGangs := l.doneGangs + 1,
                   killed := some (l.killed.getD (if d.cause ≠ 0 then d.cause else 2 ^ 8 + d.source)) }))))) ∧
  (∀ (s : State) (die n : Nat) (cs : List Nat), s.spareFor die n = some cs →
    cs.length = max n 1 ∧ (∀ c ∈ cs, c / 68 = die ∧ (s.dev.rmap.coreEnt c).st = 2) ∧
    (1 < n → ∃ q, s.dev.rmap.quadState die q = 2 ∧ ∀ c ∈ cs, c % 68 / 4 = q)) ∧
  (∀ (s : State) (g : Gang) (r : Group) (onto : List Nat), (r.places.map (fun p => p.core)).length = onto.length →
    ∀ w ∈ s.waves, w.gang = some g.id → w.group = r.linear → (r.places.map (fun p => p.core)).contains w.core = true →
      ∃ v ∈ (s.moveGroup g r onto).waves, v.core ∈ onto ∧ v = { w with core := v.core }) ∧
  ∀ (s : State) (l : Launch), s.launch? l.id = some l →
    let mine := (s.gangs.filter (fun g => g.launch == l.id && g.pass.isNone)).map (fun g => g.id)
    let u := (l.detPages.foldl (fun (t : State) p => t.freePage p) ((sortBy DetOp.before l.detOps).foldl
      (fun (t : State) d => t.applyDet l mine.head? d) s)).updLaunch l.id (fun l => { l with detOps := [], detPages := [] })
    let waits := u.ops.any (fun o => o.gang.any (fun g => mine.contains g) || l.doneOp == some o.id)
    let written := u.writeDone l l.verdict.1
    (l.ended = false → exec (.launchComplete l.id) s = .next s) ∧
    (l.ended = true → waits = true → exec (.launchComplete l.id) s = .next u) ∧
    (l.ended = true → waits = false →
      (∀ o, (written.ops.drop u.ops.length).getLast? = some o →
        exec (.launchComplete l.id) s = .next (written.updLaunch l.id (fun l => { l with doneOp := some o.id }))) ∧
      ((written.ops.drop u.ops.length).getLast? = none →
        ∃ t, exec (.launchComplete l.id) s = .next t ∧ t.launch? l.id = none ∧
          t.dev.out = (written.complete l.ctx l.tag l.verdict.1 l.verdict.2 l.relaunched).dev.out ∧
          ∀ h ∈ t.gangs, h.launch = l.id → mine.contains h.id = false))

/-! ## Collectives -/

/-- The collective forms (R477, R480, R483 to R485): the wave's operation counts on co and the collective stands
before the engine, which begins to read its descriptor; col.stat writes a word of the wave's last collective. An
operation of a collective whose status is known ends: D gets the status, and the record what col.stat reads. The
model's choices in it stand in log entries 40, 45. -/
def Obligations.CollectiveForms : Prop :=
  (∀ (f : F2) (s : State) (env : Env) (sl : Nat → Slot),
    let ready (i : Instr) : Prop := s.env? i.form.pidx i.form.pneg = some env ∧ i.form.completes env = true ∧
      ∀ l ∈ env.lanes, i.form.d.slot env.w.regs (env.w.lane l) = .ok (sl l)
    (∀ (reform : Bool) (a : Nat) (g : Gang),
      let i : Instr := if reform then .colReform f else .colStart f
      ready i → i.form.a.val env.w (env.w.lane env.first) = .ok a → a % 64 = 0 → env.gang = some g →
      ((∃ pa pt w, s.xlate env.cx .engineRead a = .ok (.home pa) pt w) ∨ s.xlate env.cx .engineRead a = .invalid) →
      let s1 := { s with nextId := s.nextId + 1 }
      let o := env.starts s1 env.act (some .co) (.col { lanes := env.lanes.map (fun l => (l, sl l)), words := 1 } s.nextId)
      let c : Col := { id := s.nextId, gang := g.id, ctx := env.cx.id, tenant := env.cx.tenant, at_ := a, reform := reform,
                       ops := [(s1.nextId, env.w.id)] }
      (State.beginCol { s1.inFlight o with cols := s.cols ++ [c] } c.id).did env (env.ticked .co) (env.popped i.form) (exec i s)) ∧
    (ready (.colStat f) → s.wrote env (env.plainResults (Instr.colStat f).form sl (fun _ =>
      word1 (if f.cN = 0 then env.w.lastCol.status else if f.cN = 1 then w32 env.w.lastCol.lost
        else if f.cN = 2 then env.w.lastCol.first else if f.cN = 3 then env.w.lastCol.rank else env.w.lastCol.seq)))
      (exec (.colStat f) s))) ∧
  ∀ (s : State) (o : Op) (d : Dst) (c : Col) (n : Nat) (w : Wave), s.op? o.id = some o → o.body = .col d c.id →
    s.col? c.id = some c → c.status = some n → s.wave? o.wave = some w → w.frontier ≠ [] →
    exec (.collectiveComplete o.id) s = .next (s.endColOp o c d n) ∧
    ∃ v, (s.endColOp o c d n).wave? o.wave = some v ∧ v.lastCol.status = BitVec.ofNat 32 n ∧ v.lastCol.lost = c.lost.length ∧
      v.lastCol.first = BitVec.ofNat 32 (c.lost.headD 0xFFFFFFFF) ∧
      (∀ k, v.ctrs.get k = w.ctrs.get k - if o.ctr = some k then 1 else 0) ∧
      ∀ x ∈ (s.endColOp o c d n).cols, x.id = c.id → ∀ y ∈ x.ops, y.1 ≠ o.id

/-- The messages of collectives (R26 to R30, R481, R482, R484, R487): elements come back from the wire as they were
sent, a message with a poisoned element poisoned whole. On a module with power a start, elements, results and lists
reach the ranks that have arrived and are acknowledged; an abort ends them; an acknowledgement ends its wait, and one
that never comes, or a rank that never starts, ends the collective. A start, an abort or a list whose check fails is
acknowledged and does nothing more, an acknowledgement nothing at all, and a module without power hears none of them.
The model's choices in it stand in log entries 6, 30, 44, 45, 116. -/
def Obligations.CollectiveMessages : Prop :=
  (∀ (ty : Nat) (es : List Elem) (m : ColMsg), ty < 6 → (∀ e ∈ es, e.val < 2 ^ (8 * colBytes ty)) →
    m.nelem = es.length → (m.flags, m.payload, m.crc) = colData ty es →
    colElems ty m = es.map (fun e => { e with mark := es.any (fun x => x.mark) })) ∧
  (∀ (s : State) (m : ColMsg) (c : Col) (d : ColDesc) (cs : List Col), s.dev.powered = true →
    (s.ackCol m).hearers m = c :: cs → c.desc = some d →
    (colWhole m = true → m.payload = d.common →
      exec (.colMsgStart m) s = .next (((s.ackCol m).noteStart m.key m.from_).exchangeAll m.key)) ∧
    (colWhole m = true → m.payload ≠ d.common → exec (.colMsgStart m) s = .next ((s.ackCol m).abortCol m.key d.rank 4 [])) ∧
    exec (.colMsgData m) s = .next ((s.ackCol m).contribute m.key m.from_ m.offset (colElems d.ty m)) ∧
    (∃ t, exec (.colMsgResult m) s = .next t ∧ ∀ x ∈ t.cols, x.key? = some m.key → x.status = none →
      (m.dest = 0xFFFF ∨ x.desc.any (fun y => y.rank == m.dest) = true) → ∀ i, i < m.nelem →
        lookupBy (m.offset + i) x.results = (colElems d.ty m)[i]?) ∧
    ((∀ x ∈ s.cols, x.reform = true → x.key? = some m.key) →
      ∃ t, exec (.colMsgReform m) s = .next t ∧ t.gangs = s.gangs ∧ t.waves = s.waves ∧ t.mem = s.mem)) ∧
  ∀ (s : State) (m : ColMsg),
    (s.dev.powered = true → colWhole m = true → ∃ t, exec (.colMsgAbort m) s = .next t ∧
      (∀ x ∈ t.cols, x.key? = some m.key → x.status.isSome = true) ∧
      (∃ a ∈ t.aborted, a.tenant = m.tenant ∧ a.setId = m.setId ∧ a.seq = m.seq ∧ a.at_ = s.time) ∧
      (∀ e ∈ t.early, ¬(e.msg.tenant = m.tenant ∧ e.msg.setId = m.setId ∧ e.msg.seq = m.seq)) ∧
      ((∀ c ∈ s.colsOf m.key, c.sent = false) → t.mem = s.mem) ∧ t.waves = s.waves) ∧
    (∀ i ∈ [Instr.colMsgStart m, .colMsgAbort m, .colMsgReform m],
      (s.dev.powered = true → colWhole m = false → exec i s = .next (s.ackCol m)) ∧
      (s.dev.powered = false → exec i s = .next s)) ∧
    (s.dev.powered = false → ∀ i ∈ [Instr.colMsgData m, .colMsgResult m, .colMsgAck m], exec i s = .next s) ∧
    (colWhole m = false → exec (.colMsgAck m) s = .next s) ∧
    (∀ x, s.dev.powered = true → colWhole m = true →
      s.sentCols.find? (fun y => y.dest == m.pkg && y.msg.key == m.key && y.msg.offset == m.offset) = some x →
      exec (.colMsgAck m) s = .next { s with sentCols := s.sentCols.filter (fun y => y.id != x.id) }) ∧
    (∀ x : SentCol, s.sentCols.find? (fun y => y.id == x.id) = some x → x.at_ + x.round ≤ s.time → x.mtype ≠ 5 → x.mtype ≠ 6 →
      exec (.colAckTimeout x.id) s = .next (State.abortCol { s with sentCols := s.sentCols.filter (fun y => y.id != x.id) }
        x.msg.key x.msg.from_ 1 [x.dest])) ∧
    (∀ (o : Op) (dst : Dst) (c : Col) (d : ColDesc) (k : ColKey) (t0 : Nat), s.op? o.id = some o → o.body = .col dst c.id →
      s.col? c.id = some c → c.desc = some d → c.key? = some k → c.arrivedAt = some t0 → c.status = none →
      t0 + 1000 * (if d.round = 0 then 200 else d.round) ≤ s.time → c.lost = [] →
      (∃ r < d.members.length, (c.rankOf r).started = false ∧ ∀ x ∈ s.sentCols, ¬(x.dest = d.members.getD r 0 ∧ x.msg.key = k)) →
      exec (.colStartTimeout o.id) s = .next (s.abortCol k d.rank 2 [])) ∧
    ∀ tenant setId seq, ∃ t, exec (.abortRecordExpiry tenant setId seq) s = .next t ∧ t = { s with aborted := t.aborted } ∧
      ∀ a, a ∈ t.aborted ↔ a ∈ s.aborted ∧
        ¬(a.tenant = tenant ∧ a.setId = setId ∧ a.seq = seq ∧ a.at_ + 1000000000 ≤ s.time)

/-! ## System instructions, traps and debug -/

/-- The system forms (R48, R215, R317, R331, R488 to R490, R492 to R494): map.rd and prof.rd deliver map words and
counts; map.ack drops what the context owed; sr.get reads, sr.set writes a register, posts an order or a
configuration; nop changes nothing; halt stops its wave and its context. In a task wave sr.group is a free value. The
model's choices in it stand in log entry 6. -/
def Obligations.SystemForms : Prop :=
  (∀ (f : F2) (s : State) (env : Env) (a : Nat → Nat) (sl : Nat → Slot),
    let ready (i : Instr) : Prop := s.env? i.form.pidx i.form.pneg = some env ∧ i.form.completes env = true
    let reads (i : Instr) : Prop := ∀ l ∈ env.lanes, i.form.a.val env.w (env.w.lane l) = .ok (a l)
    let places (i : Instr) : Prop := ∀ l ∈ env.lanes, i.form.d.slot env.w.regs (env.w.lane l) = .ok (sl l)
    let dst (n : Nat) : Dst := { lanes := env.lanes.map (fun l => (l, sl l)), words := n }
    let first (i : Instr) (v : Nat) : Prop := i.form.a.val env.w (env.w.lane env.first) = .ok v
    (ready (.mapRd f) → reads (.mapRd f) → places (.mapRd f) → (∀ l ∈ env.lanes, a l % 8 = 0 ∧ a l < 0xA000) →
      s.started env (env.popped (Instr.mapRd f).form) env.act .ld (.deliver (dst 4)
        (env.lanes.map (fun l => (l, wordsOf 2 (s.dev.rmap.word (a l)) ++ wordsOf 2 s.dev.rmap.version)))) (exec (.mapRd f) s)) ∧
    (∀ v, ready (.mapAckInstr f) → first (.mapAckInstr f) v →
      let t := if v = 0 then s else s.ackMap env.cx.id v
      t.did env env.w (env.popped (Instr.mapAckInstr f).form) (exec (.mapAckInstr f) s) ∧
      ∀ c, s.ctx? env.cx.id = some c → ∃ d, t.ctx? env.cx.id = some d ∧ ∀ o, o ∈ d.owed ↔ o ∈ c.owed ∧ (v < o.version ∨ v = 0)) ∧
    (ready (.srGet f) → places (.srGet f) →
      let vals (group l : Nat) : List PWord := wordsOf (srWords f.cN) (s.special env group f.cN l)
      (env.w.task = false ∨ f.cN ≠ 2 →
        s.wrote env (env.plainResults (Instr.srGet f).form sl (vals env.w.group)) (exec (.srGet f) s)) ∧
      (env.w.task = true → f.cN = 2 → State.did { s with free := s.free + 1 } env env.w
        (env.plainResults (Instr.srGet f).form sl (vals (Config.freeWord s.free).toNat)) (exec (.srGet f) s))) ∧
    (∀ v, ready (.srSet f) → first (.srSet f) v →
      let base (g : Ctx → Ctx) : State := s.updCtx env.cx.id g
      let done (t : State) (w : Wave) : Prop := t.did env w (env.popped (Instr.srSet f).form) (exec (.srSet f) s)
      (f.cN < 0x60 → (f.cN = 0x49 ∨ f.cN = 0x4A → watchOk v = true) → done s { env.w with trap := env.w.trap.set f.cN v }) ∧
      (f.cN = 0x60 → done (base (fun c => { c with dtgt := BitVec.ofNat 32 v })) env.w) ∧
      (f.cN = 0x61 → done (base (fun c => { c with dbuf := BitVec.ofNat 64 v })) env.w) ∧
      (f.cN = 0x64 → done (base (fun c => { c with trbase := BitVec.ofNat 64 v, traceIdx := 0 })) env.w) ∧
      (f.cN = 0x62 → 1 ≤ v → v ≤ 7 →
        let st := s.orderStatus env.w env.cx v env.cx.dtgt
        (st ≠ 0 → done (base (fun c => { c with dord := BitVec.ofNat 32 st })) env.w) ∧
        (st = 0 → (v = 3 → s.dumpOk env.cx = true) → done (base (fun c => { c with
          dord := 0, posted := c.posted ++ [{ wave := env.w.id, code := v, target := env.cx.dtgt, buf := env.cx.dbuf }] })) env.w)) ∧
      (f.cN = 0x63 → env.cx.cls = 1 → done (base (fun c => { c with
        mcfg := BitVec.ofNat 64 v
        posted := c.posted ++ [{ wave := env.w.id, code := if v.testBit 63 then 9 else 8, target := 0,
                                 buf := BitVec.ofNat 64 v }] })) env.w)) ∧
    (∀ v : Nat → Nat, ready (.profRd f) → reads (.profRd f) → places (.profRd f) →
      (∀ l ∈ env.lanes, s.profTry env (a l) = .ok (some (v l))) →
      s.started env (env.popped (Instr.profRd f).form) env.act .ld (.deliver (dst 2) (env.lanes.map (fun l => (l, wordsOf 2 (v l)))))
        (exec (.profRd f) s)) ∧
    (ready (.halt f) →
      State.did ((s.event env.cx.id 2 0 noGang (f.cN + waveInfo env.w)).updCtx env.cx.id (fun c => { c with halted := true })) env
        env.w (env.popped (Instr.halt f).form) (exec (.halt f) s) ∧
      ∀ t, exec (.halt f) s = .next t → (t.wave? env.w.id).any (fun w => w.hold == .halted) = true)) ∧
  (∀ (f : F1) (s : State) (env : Env), s.env? (Instr.nop f).form.pidx (Instr.nop f).form.pneg = some env →
    (Instr.nop f).form.completes env = true → s.wrote env env.w.lane (exec (.nop f) s)) ∧
  (∀ (t : TrapRegs) (i v : Nat), t.tlm.length = 16 → srWritable i = true → i < 0x60 →
    (t.set i v).get i = v % 2 ^ (32 * srWords i) ∧
      ∀ j, j ≠ i → j ≠ 0x4B → 0x40 ≤ j → j < 0x60 → (t.set i v).get j = t.get j) ∧
  ∀ (s : State) (env : Env) (g l : Nat),
    s.special env g 0x00 l = l ∧ s.special env g 0x02 l = g ∧ s.special env g 0x04 l = env.w.core % 68 % 4 ∧
    s.special env g 0x05 l = env.w.core % 68 / 4 ∧ s.special env g 0x06 l = env.w.core / 68 ∧
    s.special env g 0x0A l = s.dev.rmap.version ∧ s.special env g 0x0B l = s.stamp ∧ s.special env g 0x42 l = env.w.trap.tpc.toNat ∧
    (env.w.core < 272 → s.special env g 0x06 l < 4) ∧
    (∀ c < 16, s.special env g (0x50 + c) l = (env.w.trap.tlm.getD c 0).toNat)

/-- Taking a cause (R312 to R317, R319): the masks and the trap registers are written. With a handler the wave goes on
as one entry at sr.tvec, the others held and the group's other waves told to stop; without one, or in trap mode, the
gang is doomed, unless it was; poison is contained; in a wave that a halt has reached, or whose group runs a handler, the cause
is held. No register of a lane changes, nor memory while the context keeps no trace. Traps, and what goes on from them (R307, R311, R314, R315, R318,
R491, R492). trap and brk take causes 0x0B and 0x0C. tret goes back to sr.tpc with the depth, the priority and the
mask of sr.tentry. A sibling stops at its next instruction, and with a cause of its own enters its handler once the
group has none; consumed poison is its gang's error, and a parity error its core's. The model's choices in it stand in log entries 22, 75. -/
def Obligations.Traps : Prop :=
  (∀ (s : State) (env : Env) (r : Raised) (c : Nat),
     s.wave? env.w.id = some env.w → reported (tlmOf r) = c → c ≠ 0 → (s.ctx? env.w.ctx).all (fun x => x.trbase == 0) = true →
     env.w.skid ≤ 8 → (env.w.gang = none → env.w.trapMode = false ∧ env.w.trap.tvec ≠ 0) →
     let t := s.takeTrap env r
     let m (k : Nat) : Mask := (r.masks.filter (fun x => x.1 == k)).foldl (fun acc x => acc ||| x.2) 0
     let poison := m 10 ≠ 0
     ∃ w, t.wave? env.w.id = some w ∧ t.mem = s.mem ∧ w.scalars = env.w.scalars ∧
       (∀ l ∈ laneList, ∃ p, w.lane l = { env.w.lane l with pure_ := p }) ∧
       w.trap.tpc = BitVec.ofNat 64 env.is.pc ∧ w.trap.tnpc = BitVec.ofNat 64 env.is.next ∧
       w.trap.ttime = BitVec.ofNat 64 s.stamp ∧
       w.trap.tentry = BitVec.ofNat 64 (env.e.mask.toNat + 2 ^ 32 * env.e.depth + 2 ^ 40 * env.e.prio) ∧
       w.trap.tcause.toNat % 256 = c ∧ m c ≠ 0 ∧ (∀ k, 1 ≤ k → k < c → m k = 0) ∧
       (∀ k, 1 ≤ k → k ≤ 16 → w.trap.tlm.getD (k - 1) 0 = m k) ∧ w.trap.tvec = env.w.trap.tvec ∧
       (poison → w.hold = .contained ∧ w.frontier = env.w.frontier) ∧
       (¬poison → env.w.skidding = true → w.ownCause = true ∧ w.trap.tcause.toNat.testBit 16 = true ∧ w.frontier = env.w.frontier) ∧
       (¬poison → env.w.skidding = false → env.w.trapMode = false → env.debugged c = false → (s.handlerOf env.w).isSome = true →
         w.hold = .stopped ∧ w.ownCause = true ∧ w.trap.tcause.toNat.testBit 16 = true ∧ w.frontier = env.w.frontier) ∧
       (¬poison → env.w.skidding = false →
         (env.w.trapMode = true ∨ (s.handlerOf env.w = none ∧ env.debugged c = false ∧ env.w.trap.tvec = 0)) →
         ∀ g, env.w.gang = some g → w.hold = .contained ∧
           ∀ h0, s.gang? g = some h0 → ∃ h, t.gang? g = some h ∧ h.lastCause = c ∧
             h.doom = if h0.doom.any (fun d => d.kill) then h0.doom
               else some { source := 0, core := none, cause := c, reason := 0, kill := true }) ∧
       (¬poison → env.w.skidding = false → env.w.trapMode = false → env.debugged c = false → s.handlerOf env.w = none →
         env.w.trap.tvec ≠ 0 →
         w.trapMode = true ∧ w.hold = (if env.w.hold = .debug true then .debug false else .none) ∧
         w.frontier = [{ pc := env.w.trap.tvec.toNat % 2 ^ 56, depth := env.e.depth, prio := 255, mask := env.e.mask }] ∧
         w.heldEntries = env.w.frontier.filter (fun x => !(x.isAt env.e.pc env.e.depth)) ∧
         ∀ x ∈ s.waves, x.id ≠ env.w.id → x.gang.isSome = true → x.gang = env.w.gang → x.group = env.w.group → x.ended = false →
           x.hold = .none → (s.waves.map (fun y => y.id)).Nodup → ∃ y, t.wave? x.id = some y ∧ y.hold = .skid 8 false)) ∧
  ((∀ (s : State) (env : Env) (f : F2) (g : F1),
     (s.env? (Instr.trap f).form.pidx (Instr.trap f).form.pneg = some env → (Instr.trap f).form.issues env = true →
       exec (.trap f) s = .next (s.takeTrap env { masks := [(0x0B, env.act)] })) ∧
     (s.env? (Instr.brk g).form.pidx (Instr.brk g).form.pneg = some env → (Instr.brk g).form.issues env = true →
       exec (.brk g) s = .next (s.takeTrap env { masks := [(0x0C, env.act)] })) ∧
     (s.env? (Instr.tret f).form.pidx (Instr.tret f).form.pneg = some env → (Instr.tret f).form.issues env = true →
       env.w.trapMode = true → env.w.trapped.isSome = true →
       let te := env.w.trap.tentry.toNat
       te % 2 ^ 32 ≠ 0 →
       ∃ t w, exec (.tret f) s = .next t ∧ t.wave? env.w.id = some w ∧ w.trapMode = false ∧ w.heldEntries = [] ∧
         (∀ l ∈ laneList, w.lane l = env.w.lane l) ∧
         (∃ e ∈ w.frontier, e.pc = env.w.trap.tpc.toNat % 2 ^ 56 ∧ e.depth = te / 2 ^ 32 % 2 ^ 8 ∧ e.block = .none ∧
           te / 2 ^ 40 % 2 ^ 8 ≤ e.prio ∧ ∀ l < 32, te.testBit l = true → hasLane e.mask l = true) ∧
         (env.w.haltPending = false → ∀ x ∈ t.waves, x.gang.isSome = true → x.gang = env.w.gang → x.group = env.w.group →
           x.ended = false → x.hold = .stopped → x.ownCause = true))) ∧
   ∀ (s : State) (w : Wave), s.wave? w.id = some w →
     (∀ n debug, w.hold = .skid n debug → (s.ctx? w.ctx).all (fun x => x.trbase == 0) = true →
       ∃ t v, exec (.siblingStop w.id) s = .next t ∧ t.mem = s.mem ∧ t.wave? w.id = some v ∧
         v.hold = (if debug then .debug false else .stopped) ∧ v.lanes = w.lanes ∧ v.frontier = w.frontier ∧
         (∀ e, w.frontier = [e] → v.trap.tpc = BitVec.ofNat 64 e.pc) ∧
         v.trap.tcause = BitVec.ofNat 32 ((if debug then 16 else 0) + 2 ^ 8 * w.skid)) ∧
     (∀ e cx, w.core < bankBase → w.hold = .stopped → w.ownCause = true → w.trapMode = false → s.handlerOf w = none →
       w.frontier.find? (fun x => x.isAt w.trap.tpc.toNat (w.trap.tentry.toNat / 2 ^ 32 % 2 ^ 8)) = some e →
       s.ctx? w.ctx = some cx → cx.debugger = none → w.trap.tvec ≠ 0 →
       ∃ t v, exec (.trapEntry w.id) s = .next t ∧ t.wave? w.id = some v ∧ v.trapMode = true ∧ v.hold = .none ∧
         v.frontier = [{ pc := w.trap.tvec.toNat % 2 ^ 56, depth := e.depth, prio := 255, mask := e.mask }]) ∧
     ∀ g, w.hold = .contained → w.trap.tlm.getD 9 0 ≠ 0 → w.gang = some g.id → s.gang? g.id = some g → g.st = .placed →
       g.doom = none → g.region.st ≠ 6 →
       ∃ t h, exec (.poisonContainment w.id) s = .next t ∧ t.gang? g.id = some h ∧
         h.doom = some { source := if w.consumed then 2 else 3, core := if w.consumed then some w.core else none, cause := 0, kill := !g.region.replayable,
                         reason := if g.region.inside && !g.region.replayable then 1 else 0 } ∧ t.waves = s.waves)

/-- Debug orders and monitors (R324 to R328, R331): what was posted is carried out where its target still stands, and
its status is 0; a freeze ends after 10 ms; a monitor takes its configuration, loses its counts when cleared, and
takes the depth of the task FIFOs of its die. The model's choices in it stand in log entries 74, 76. -/
def Obligations.DebugOrders : Prop :=
  (∀ (s : State) (cx : Ctx) (w : Wave) (p : Posted) (tg : Target), s.posted? w.id p.code = some (cx, p) → s.wave? w.id = some w →
    targetOf p.target = some tg → s.orderStatus w cx p.code p.target = 0 →
    let s1 := s.updCtx cx.id (fun c => { c with posted := c.posted.erase p, dord := 0 })
    (p.code = 1 → exec (.debugAttach w.id) s = .next (s1.updCtx tg.ctx (fun c => { c with debugger := some cx.id }))) ∧
    (p.code = 2 → ∃ t, exec (.debugDetach w.id) s = .next t ∧ (∀ c ∈ t.ctxs, c.id = tg.ctx → c.debugger = none) ∧
      (∀ x ∈ t.waves, x.ctx = tg.ctx → x.hold.isDebug = false) ∧ t.mem = s.mem) ∧
    (p.code = 3 → s.frozen tg.core tg.partition = false → tg.core < 272 →
      ∃ t, exec (.debugFreeze w.id) s = .next t ∧ t.frozen tg.core tg.partition = true ∧ t.waves = s.waves) ∧
    (p.code = 4 → ∃ t, exec (.debugThaw w.id) s = .next t ∧ t.frozen tg.core tg.partition = false ∧ t.waves = s.waves) ∧
    (∀ x, s.targetWave tg = some x → s.wave? x.id = some x →
      (p.code = 5 → x.hold.isDebug = true → exec (.debugResume w.id) s = .next (s1.updWave x.id (fun y => y.resumeDebug (s1.handlerOf y)))) ∧
      (p.code = 6 → x.hold.isDebug = true → ∃ t y, exec (.debugStep w.id) s = .next t ∧ t.wave? x.id = some y ∧
        y.hold = .debug true ∧ y.frontier = x.frontier ∧ y.lanes = x.lanes) ∧
      (p.code = 7 → s.handlerOf x = none → x.gang.isSome = true → s.ctxs.all (fun c => c.trbase == 0) = true →
        ∃ t, exec (.debugHaltGroup w.id) s = .next t ∧ t.mem = s.mem ∧
        ∀ y ∈ t.waves, y.gang = x.gang → y.group = x.group → y.ended = false → y.hold ≠ .none ∧ y.hold ≠ .stopped))) ∧
  (∀ (s : State) (core p f0 : Nat), (s.coreAt core).frozen.find? (fun f => f.1 == p) = some (p, f0) → f0 + 10000000 ≤ s.time →
    ∃ t, exec (.freezeTimeout core p) s = .next t ∧ t.frozen core p = false ∧ t.waves = s.waves) ∧
  (∀ (s : State) (wave : Nat) (v : Dword) (cx : Ctx) (p : Posted), p.buf = v →
    let die := v.toNat % 4
    let n := v.toNat / 4 % 32
    (s.posted? wave 8 = some (cx, p) → ∃ t, exec (.monitorConfigure wave v) s = .next t ∧ t.mem = s.mem ∧ t.waves = s.waves ∧
      ∃ m, t.dev.monitors.find? (fun x => x.die == die && x.idx == n) = some m ∧ m.source = v.toNat / 2 ^ 8 % 16 ∧
        m.shift = v.toNat / 2 ^ 12 % 32 ∧ m.base = v.toNat / 2 ^ 24 % 2 ^ 24 ∧
        (∀ i, t.monitorItem die n i = s.monitorItem die n i)) ∧
    (s.posted? wave 9 = some (cx, p) → ∃ t, exec (.monitorClear wave v) s = .next t ∧ t.mem = s.mem ∧ t.waves = s.waves ∧
      ∀ i, t.monitorItem die n i = 0)) ∧
  ∀ s : State, ∃ t, exec .monitorSample s = .next t ∧ t.mem = s.mem ∧ t.waves = s.waves ∧
    (t.dev.monitors.map (fun m => (m.die, m.idx, m.source))) = s.dev.monitors.map (fun m => (m.die, m.idx, m.source)) ∧
    ∀ m ∈ s.dev.monitors, m.die < 4 → m.source = 11 → ∃ x ∈ t.dev.monitors, x.die = m.die ∧ x.idx = m.idx ∧
      x.count = m.count + ((List.range 68).filter (fun i => !s.dev.rmap.isSpare (68 * m.die + i))).length

/-! ## Launches, placement and pre-emption -/

/-- Launches and their placement (R75 to R78, R95 to R97, R206, R382). A LAUNCH that passes its checks is queued with
the gangs its grid gives and answers when it completes; krn.launch queues one for each active lane and returns their
statuses. A step of the dispatcher places the first candidate that fits: its waves start at ENTRY with their preloads,
its trap registers and its counters at 0. The model's choices in it stand in log entries 28, 31, 80, 81, 105, 111. -/
def Obligations.LaunchesPlace : Prop :=
  (∀ (s : State) (m : Msg), s.accepts 0x06 false m (m.len == 128) = true →
    let t := s.advanceSeq 0x06 m.ctx
    ∀ status detail u, t.acceptLaunch m.ctx m.body m.tag false = ((status, detail), u) →
      (status = 0 → exec (.launch m) s = .next u) ∧
      (status ≠ 0 → exec (.launch m) s = .next (u.complete m.ctx m.tag status detail 0))) ∧
  (∀ (s : State) (ctx tag : Nat) (b : List Byte) (device : Bool) (detail : Nat) (u : State),
    s.acceptLaunch ctx b tag device = ((0, detail), u) →
    let r := launchOfBytes b
    s.dev.rmap.published = true ∧ ∃ l, u.launches = s.launches ++ [l] ∧ l.ctx = ctx ∧ l.tag = tag ∧ l.device = device ∧
      l.record = r ∧ l.gangs = (r.gx * r.gy * r.gz + l.hdr.gang - 1) / l.hdr.gang ∧ l.nextGang = 0 ∧ l.acceptedAt = s.time ∧
      r.khdr % 256 = 0 ∧ 1 ≤ r.gx ∧ r.gx ≤ 2 ^ 20 ∧ 1 ≤ r.gy ∧ 1 ≤ r.gz ∧ r.relaunch ≤ 15) ∧
  (∀ (f : F2) (s : State) (env : Env) (a pa : Nat → Nat) (sl : Nat → Slot) (l : Launch),
    let i : Instr := .krnLaunch f
    s.env? i.form.pidx i.form.pneg = some env → i.form.completes env = true → s.launch? env.w.launch = some l →
    bitOf l.hdr.flags 2 = true →
    (∀ l ∈ env.lanes, i.form.a.val env.w (env.w.lane l) = .ok (a l) ∧ a l % 128 = 0 ∧
      s.inLog env.cx.id (a l) 128 = false ∧ (∃ pt w, s.xlate env.cx .load (a l) = .ok (.home (pa l)) pt w) ∧
      i.form.d.slot env.w.regs (env.w.lane l) = .ok (sl l)) →
    let r := env.lanes.foldl (fun (x : List (Nat × List PWord) × State) l =>
      let y := x.2.krnOne env.cx.id (pa l)
      (x.1 ++ [(l, [PWord.ofNat y.1])], y.2)) ([], s)
    r.2.started env (env.popped i.form) env.act .ld (.deliver { lanes := env.lanes.map (fun l => (l, sl l)), words := 1 } r.1)
      (exec i s)) ∧
  ∀ (s : State) (g : Gang) (gs : List Gang) (ds : List Demand) (xs : List Spot),
    let v := s.freeCores.release
    let u := { v with reserve := v.reserve.bind (fun r => if v.candidates.any (fun x => x.id == r.gang) then some r else none) }
    u.candidates = g :: gs → u.demands g = some ds → u.placeFor g ds = some xs →
    (g.st = .saved → ∃ t, exec .dispatcherStep s = .next t ∧ ∀ h, t.gang? g.id = some h → h.st = .placed) ∧
    ∀ l, g.st = .pending → g.pass = none → g.taskGang = false → u.launch? g.launch = some l →
      ∃ t, exec .dispatcherStep s = .next t ∧ (∀ h, t.gang? g.id = some h → h.st = .placed ∧ h.groups.length = min ds.length xs.length) ∧
        (∀ w ∈ u.waves, w ∈ t.waves) ∧
        ∀ w ∈ t.waves, w ∉ u.waves → w.gang = some g.id ∧ w.launch = l.id ∧ w.task = false ∧
          w.frontier = [{ pc := l.hdr.entry, depth := 0, prio := 0, mask := Mask.all }] ∧ w.trap = {} ∧ w.ctrs = {} ∧
          (0 < l.hdr.scalars → w.scalars[0]? = some (PPair.ofNat l.record.args.toNat)) ∧
          (1 < l.hdr.scalars → w.scalars[1]? = some (PPair.ofNat l.recordVa)) ∧
          ∀ k < 32, ∀ n < w.regs, wordAt (w.lane k).v n = if 6 ≤ n ∨ l.hdr.preload.getLsbD n = false then {} else
            PWord.ofNat (if n = 0 then 32 * w.index + k else if n = 1 then w.group % l.record.gx
              else if n = 2 then w.group / l.record.gx % l.record.gy else if n = 3 then w.group / (l.record.gx * l.record.gy)
              else if n = 4 then g.index else (l.hdr.seat ((xs.getD (w.group - g.first) { cores := [], base := 0 }).cores.length) w.index).rank)

/-- Pre-emption (R49, R109 to R115, R321 to R323): a gang that must leave is ordered off with those that share its
cores, and is saved at once where it stands in shadow banks alone; a core swaps when all it holds is ordered off, what it held
keeps its registers in the bank, and the context that its shadow bank held is in; its shadow bank is empty again once the
state in it has its pages; without a page the context hears of it every 100 ms; a saved gang
comes back when no earlier one fits. The model's choices in it stand in log entries 79, 106, 109, 110. -/
def Obligations.PreemptionRuns : Prop :=
  ∀ s : State,
    (∀ g ∈ s.gangs, (s.gangs.map (fun x => x.id)).Nodup → g.st = .placed → g.doom = none → s.mustLeave g = true →
      (s.ctx? g.ctx).any (fun c => c.overdue) = false →
      (∀ x ∈ s.gangs, x.pass.isSome = true → x.heldCores.any (fun c => decide (c < bankBase)) = true) →
      ∃ t, exec (.preemption g.id) s = .next t ∧ t = { s with gangs := t.gangs, cores := t.cores } ∧
        ∀ x ∈ s.gangs, x.st = .placed → x = g ∨ x.heldCores.any (fun c => g.heldCores.contains c) = true →
          (if x.heldCores.any (fun c => decide (c < bankBase)) then { x with st := .leaving }
            else { x with st := .saved, pendingAt := s.time }) ∈ t.gangs) ∧
    (∀ core ctx cx, core < bankBase → (s.coreAt core).ctx = some ctx → s.ctx? ctx = some cx → s.swapDue core ctx = true →
      (∀ g ∈ s.residents core, ∀ x ∈ s.gangs, x.id = g.id → x.pass = none) →
      (∀ next b, (s.coreAt core).shadow = .incoming next b → b < bankBase + s.nextId) →
      ∃ t, exec (.shadowBankSwap core) s = .next t ∧
        (t.coreAt core).ctx = (match (s.coreAt core).shadow with | .incoming next _ => some next | _ => none) ∧
        (t.coreAt core).shadow = .spilling ctx (bankBase + s.nextId) ∧ (t.coreAt core).fifo = [] ∧ (t.coreAt core).keys = [] ∧
        ∀ w ∈ s.waves, w.core = core → w.resident = true → w.ended = false → (s.waves.map (fun x => x.id)).Nodup →
          (w.gang = none ∨ ∃ g ∈ s.residents core, w.gang = some g.id) →
          ∃ v, t.wave? w.id = some v ∧ v.core = bankBase + s.nextId ∧ v.lanes = w.lanes ∧ v.scalars = w.scalars ∧
            v.frontier = w.frontier ∧ v.trap = w.trap ∧ v.ctrs = w.ctrs) ∧
    (∀ core ctx bank u, (s.coreAt core).shadow.spills = some (ctx, bank) → s.saveAll (s.inBank bank) = some u →
      exec (.spillComplete core) s = .next ((u.writeBackL1 core).updCore core (fun c => { c with shadow := .empty }))) ∧
    (∀ core ctx bank, core < bankBase →
      ((s.coreAt core).shadow = .spilling ctx bank ∧ s.pool.clearing = []) ∨
        (∃ last, (s.coreAt core).shadow = .waiting ctx bank last ∧ last + 100000000 ≤ s.time) →
      (s.saveAll (s.inBank bank)).isNone = true →
      ∃ t, exec (.saveSpaceExhausted core) s = .next t ∧ (t.coreAt core).shadow = .waiting ctx bank s.time ∧
        t.dev.out = (s.event ctx 11 0 (s.gangIndex ((s.inBank bank).head?.map (fun x => x.1))) 0).dev.out ∧ t.mem = s.mem) ∧
    (∀ g ds, s.gang? g.id = some g → g.st = .saved → s.candidate g = true → s.demands g = some ds →
      (s.freeCores.placeFor g ds = none → s.placeable ds = false →
        exec (.restorePlacement g.id) s = .next ((s.event g.ctx 8 0 g.index 0).updGang g.id (fun x =>
          { x with tried := some s.dev.rmap.version }))) ∧
      ∀ xs, s.freeCores.placeFor g ds = some xs → s.freeCores.candidates.head?.map (fun x => x.id) = some g.id →
        ∃ t, exec (.restorePlacement g.id) s = .next t ∧ ∀ h, t.gang? g.id = some h → h.st = .placed)

/-- Waits that end (R108, R192, R198 to R200, R204, R205, R265). The first claim of a pool is granted when the pool has its
registers; when it has not, and the group's waves there do nothing but wait in rclaim, the oldest of them that waits for the
pool raises register claim, else nothing changes. A wave raises a cause at a blocked entry for its lanes. The participants of a
repack, all on their cores, exchange their threads in the order of their keys, no thread lost; with a queue that is not empty
one raises illegal instruction. Lanes that have parked for 100 ms raise translation, not before. What forces a wave marks it
with the time, once; what forces an entry marks one that was passed over 512 times. The model's choices in it stand in log
entries 23, 78. -/
def Obligations.WaitsEnd : Prop :=
  (∀ (s : State) (gang group core p : Nat) (r : Group) (pool : Pool) (c : Claim) (rest : List Claim) (w : Wave),
    (s.gang? gang).bind (fun g => g.group? group) = some r → r.pools.find? (fun x => x.core == core && x.partition == p) = some pool →
    pool.claims = c :: rest → s.wave? c.wave = some w → w.gang = some gang → w.group = group → w.core = core → w.partition = p →
    let here := s.waves.filter (fun x => x.gang == some gang && x.group == group && x.core == core && x.partition == p && !x.ended)
    (c.n ≤ pool.free → ∃ t v, exec (.rclaimGrant gang group core p) s = .next t ∧ t.mem = s.mem ∧ t.wave? w.id = some v ∧
      v.regs = w.regs + c.n ∧
      (∀ l < w.lanes.length, (v.lane l).v.take (w.lane l).v.length = (w.lane l).v ∧ (v.lane l).x = (w.lane l).x ∧ (v.lane l).p = (w.lane l).p) ∧
      (∀ e ∈ v.frontier, ¬(e.pc = c.pc ∧ e.depth = c.depth ∧ e.block = .rclaim c.n)) ∧
      ∃ q, ((t.gang? gang).bind (fun g => g.group? group)).bind (fun r => r.pools.find? (fun x => x.core == core && x.partition == p)) = some q ∧
        q.free = pool.free - c.n ∧ q.claims = rest) ∧
    (pool.free < c.n → here.any (fun x => !x.onlyClaims) = true → exec (.rclaimGrant gang group core p) s = .next s) ∧
    (pool.free < c.n → here.all (fun x => x.onlyClaims) = true →
      ∃ x d, s.oldestClaim pool = some (x, d) ∧ d ∈ pool.claims ∧ s.wave? d.wave = some x ∧
        (∀ y ∈ pool.claims, ∀ z, s.wave? y.wave = some z → x.age ≤ z.age) ∧
        ∀ e, x.frontier.find? (fun e => e.pc == d.pc && e.depth == d.depth && e.block == .rclaim d.n) = some e →
          exec (.rclaimGrant gang group core p) s =
            .next ((s.updPool w (fun q => { q with claims := q.claims.erase d })).raiseBlocked x e 14 []))) ∧
  (∀ (s : State) (w : Wave) (e : Entry) (cause : Nat) (cx : Ctx), s.wave? w.id = some w → e ∈ w.frontier → e.mask ≠ 0 →
    1 ≤ cause → cause ≤ 16 → s.ctx? w.ctx = some cx → cx.trbase = 0 → w.skid ≤ 8 →
    (w.gang = none → w.trapMode = false ∧ w.trap.tvec ≠ 0) →
    ∃ v, (s.raiseBlocked w e cause []).wave? w.id = some v ∧ v.trap.tcause.toNat % 256 = cause ∧
      v.trap.tlm.getD (cause - 1) 0 = e.mask ∧ (s.raiseBlocked w e cause []).mem = s.mem) ∧
  (∀ (s : State) (w : Wave) (e : Entry), s.wave? w.id = some w → w.frontier = [e] →
    let ws := s.repackers w
    let ks := ws.map (fun x => x.repackKeys e.pc e.depth)
    let stays := exec (.repackMove w.id) s = .next s
    let here := ws.all (fun x => decide (x.core < bankBase))
    let rest := ws.all (fun x => (s.pending x.id).isEmpty && s.released x 0xFFFFFFFF && !s.followOf x.id)
    (ks.any (fun k => k.isNone) = true → stays) ∧
    (here = false → stays) ∧
    (ks.all (fun k => k.isSome) = true → here = true → ∀ x f, ws.find? (fun x => !x.queuesEmpty) = some x → x.frontier = [f] →
      exec (.repackMove w.id) s = .next (s.raiseBlocked x f 1 [])) ∧
    (ws.all (fun x => x.queuesEmpty) = true → rest = false → stays) ∧
    (ks.all (fun k => k.isSome) = true → here = true → ws.all (fun x => x.queuesEmpty) = true → rest = true →
      (ws.map (fun x => x.id)).Nodup →
      let ms := ((indexed ks).map (fun k => ((k.2.getD []).map (fun x => Mover.mk x.2 k.1 x.1)))).flatten
      let n := match s.kernelOf w with
        | some h => ((h.roles[w.role]?).map (fun r => if h.roles.length = 1 then h.regs else r.2)).getD h.regs
        | none => w.regs
      ∃ t, exec (.repackMove w.id) s = .next t ∧
        ∀ y ∈ moveThreads ws (sortBy Mover.before ms) n, y.frontier ≠ [] → (t.wave? y.id).map (fun v => v.lanes) = some y.lanes)) ∧
  (∀ ms : List Mover, (sortBy Mover.before ms).Perm ms ∧
    (sortBy Mover.before ms).Pairwise (fun a b => a.key < b.key ∨ (a.key = b.key ∧ (a.wave < b.wave ∨ (a.wave = b.wave ∧ a.lane ≤ b.lane))))) ∧
  (∀ (ws : List Wave) (ms : List Mover) (n : Nat), (∀ x ∈ ws, x.lanes.length = 32) → (∀ m ∈ ms, m.wave < ws.length ∧ m.lane < 32) →
    ms.length ≤ 32 * ws.length →
    let after := moveThreads ws ms n
    after.length = ws.length ∧ ∀ i < ms.length, ∃ m x y, ms[i]? = some m ∧ ws[m.wave]? = some x ∧ after[i / 32]? = some y ∧
      (y.lane (i % 32)).x = (x.lane m.lane).x ∧ (y.lane (i % 32)).p = (x.lane m.lane).p ∧
      (y.lane (i % 32)).rec_ = (x.lane m.lane).rec_ ∧
      ∀ k < n, k < (x.lane m.lane).v.length → k < (y.lane (i % 32)).v.length →
        wordAt (y.lane (i % 32)).v k = (wordAt (x.lane m.lane).v k).seen) ∧
  ∀ (s : State) (w : Wave), s.wave? w.id = some w →
    (∀ e since vas, w.frontier.find? (fun x => x.pc == e.pc && x.depth == e.depth && x.block.isPark) = some e →
      e.block = .park since vas →
      exec (.parkTimeout w.id e.pc e.depth) s = if s.time < since + 100000000 then .next s else
        .next ((s.raiseBlocked w e 5 (sortBy (fun a b => decide (a.1 < b.1)) vas)).settleRequests w.ctx)) ∧
    exec (.waveForced w.id) s = (if (s.offer w).ready then .next (s.updWave w.id (fun v => { v with forced := some (v.forced.getD s.time) }))
      else .next s) ∧
    ∀ pc depth, ∃ t v, exec (.entryForced w.id pc depth) s = .next t ∧ t = { s with waves := t.waves } ∧ t.wave? w.id = some v ∧
      v = { w with frontier := v.frontier } ∧ v.frontier.length = w.frontier.length ∧
      ∀ (k : Nat) (e : Entry), w.frontier[k]? = some e → v.frontier[k]? = some (if e.pc = pc ∧ e.depth = depth ∧ 512 ≤ e.passed then
        { e with forced := true } else e)

/-! ## Task waves, the reuse table and passes -/

/-- The task dispatcher (R126, R128, R131, R132, R134, R136 to R140). The first wave of records that is due and fits starts
with a record in each lane, its carried registers in place; a record that finds no room for 10 µs gets a task gang,
which goes after 100 µs without one; a core's FIFO takes records from the ring in order; a lookup that finds the
tenant's valid entry is a hit, and a hit whose result is copied retires the task without running it. The model's
choices in it stand in log entries 82, 83, 84, 113, 115. -/
def Obligations.TasksDispatch : Prop :=
  (∀ (k : TaskKernel) (ctx core p id seat age : Nat) (recs : List Rec) (l : Nat) (r : Rec), recs[l]? = some r → l < 32 →
    let w := taskWave k ctx core p id seat age recs
    (w.lane l).rec_ = some r ∧ (w.lane l).pure_.isSome = (r.kind == 1) ∧ w.gang = none ∧ w.task = true ∧
    w.frontier.map (fun e => (e.pc, e.depth, e.prio)) = [((recs.headD r).pc, (recs.headD r).depth, 0)] ∧
    (∀ e ∈ w.frontier, hasLane e.mask l = true) ∧
    ∀ i < k.hdr.regs, wordAt (w.lane l).v i = if r.dbase ≤ i ∧ i < r.dbase + r.nreg
      then { val := r.regs.getD (i - r.dbase) 0, mark := r.poison.getLsbD (i - r.dbase) } else {}) ∧
  (∀ (s : State) (core p : Nat) (cx : Ctx) (k : OpenKey) (t : TaskKernel), (s.coreAt core).ctx = some cx.id →
    s.ctx? cx.id = some cx →
    let u := s.updCore core (fun c => c.pack s.time 256)
    ((u.coreAt core).dueKeys s.time s.dev.rmap.mhz).findSome? (u.keyFits cx.id core p) = some (k, t) → p < 4 →
    u.barred cx = false →
    ∃ v age, exec (.taskWaveIssue core p) s = .next v ∧ v.mem = s.mem ∧
      v.waves = s.waves ++ [taskWave t cx.id core p s.nextId (s.freeSeat core p) age k.recs] ∧
      (∀ x ∈ s.waves, x.age < age) ∧ ∀ x ∈ (v.coreAt core).keys, x ≠ k) ∧
  (∀ (s : State) (cx : Ctx) (r : Rec), s.ctx? cx.id = some cx → s.waitingRec cx = some r → s.contextFits cx r = false →
    (cx.starved = none → exec (.taskGangQueue cx.id) s = .next (s.updCtx cx.id (fun c => { c with starved := some s.time }))) ∧
    ∀ t, cx.starved = some t → t + 10000 ≤ s.time →
      (∀ g ∈ s.gangs, g.ctx = cx.id → g.taskGang = true → g.st ≠ .pending) →
      ∃ u g, exec (.taskGangQueue cx.id) s = .next u ∧ u.gangs = s.gangs ++ [g] ∧ g.taskGang = true ∧ g.st = .pending ∧
        g.ctx = cx.id ∧ u.mem = s.mem) ∧
  (∀ (s : State) (g : Gang) (cx : Ctx) (t : Nat), s.gang? g.id = some g → s.ctx? g.ctx = some cx → g.taskGang = true →
    g.st = .placed → s.waitingRec cx = none → g.idleSince = some t → t + 100000 ≤ s.time →
    ∃ u, exec (.taskGangRelease g.id) s = .next u ∧ u.gangs = s.gangs.filter (fun x => x.id != g.id) ∧ u.mem = s.mem) ∧
  (∀ (s : State) (core : Nat) (cx : Ctx), (s.coreAt core).ctx = some cx.id → s.ctx? cx.id = some cx → cx.areaReady = true →
    cx.released = [] → cx.stranded = [] →
    exec (.taskRefill core) s = .next ((s.refill cx core cx.ringSlots).updCtx cx.id (fun c => { c with released := [], stranded := [] })) ∧
    ∀ n, ((s.coreAt core).fifo.length ≤ 128 → ((s.refill cx core n).coreAt core).fifo.length ≤ 128) ∧
      ∃ more, ((s.refill cx core n).coreAt core).fifo = (s.coreAt core).fifo ++ more) ∧
  ∀ (s : State) (x : Spawn) (cx : Ctx) (l : Launch), s.spawns.find? (fun y => y.id == x.id) = some x → s.ctx? x.ctx = some cx →
    s.launchOf x.launch = some l → s.taskRoom cx x.core = true →
    let m := s.reuseMessage cx l x.rec_
    let d := sha512t256 (m.map (fun b => b.1))
    let found (e : Reuse) : Prop := s.reuse.find? (fun r => r.die == digestDie d && r.set == digestSet d && r.digest == d &&
      r.tenant == cx.tenant && r.resLen == x.rec_.res.2 && r.st == 1) = some e
    (x.hit = none → m.any (fun b => b.2) = true → exec (.reuseLookup x.id) s =
      .next (State.dispatchRec { s with spawns := s.spawns.filter (fun y => y.id != x.id) } cx x.core x.rec_)) ∧
    (∀ e, x.hit = none → m.any (fun b => b.2) = false → found e → x.ok = true → x.stale = false →
      (s.localPa cx .store x.rec_.res.1).isSome = true →
      ∃ t, exec (.reuseLookup x.id) s = .next t ∧ t.mem = s.mem ∧ t.cores = s.cores ∧
        ∀ y ∈ t.spawns, y.id = x.id → y.hit = some (e.die, e.set, e.way)) ∧
    ∀ e pa y, x.hit = some (e.die, e.set, e.way) → x.dropHit = false →
      let mine (r : Reuse) : Bool := r.die == e.die && r.set == e.set && r.way == e.way && r.st == 1
      s.reuse.find? mine = some e → s.localPa cx .store x.rec_.res.1 = some pa →
      let u := if e.resPa = pa then s else s.writeVa cx x.rec_.res.1 (s.currentBytes e.resPa e.resLen)
      u.spawns.find? (fun z => z.id == x.id) = some y → y.dropHit = false → u.reuse.any mine = true →
      ∃ t, exec (.reuseHitCopyDone x.id) s = .next t ∧ t.spawns.all (fun z => z.id != x.id) = true ∧ t.waves = u.waves

/-- The Wrangler (R158 to R163, R167, R170, R171, R174 to R178, R180). The chosen queue gets a pass and a gang of its
own; a placed one on its core loads its treelet; a segment whose rays have all finished or left commits at once, and one with a
ray that consumed poison is the gang's error; a ray at a non-opaque candidate takes a verdict slot and releases a
record of kind 4; streaming stops after 200 µs, and the pass ends with its last segment or 1 ms later; an idle scene
is released; an absent page of geometry is asked for. The model's choices in it stand in log entries 69, 70, 114, 117. -/
def Obligations.PassesRun : Prop :=
  ∀ (s : State),
    (∀ (cx : Ctx) (q : Queue), s.ctx? cx.id = some cx → s.passesAllowed cx = true →
      (sortBy Queue.before (((s.scenes.filter (fun c => c.ctx == cx.id && s.reserveHolds c)).map (s.eligibleQueues cx)).flatten)).head? = some q →
      ∃ t p g, exec (.passStart cx.id) s = .next t ∧ t.passes = s.passes ++ [p] ∧ t.gangs = s.gangs ++ [g] ∧
        p.scene = q.scene ∧ p.treelet = q.treelet ∧ p.ctx = cx.id ∧ p.gang = g.id ∧ g.pass = some p.id ∧ g.st = .pending ∧
        p.num = (if (cx.passNum + 1) % 2 ^ 24 = 0 then 1 else (cx.passNum + 1) % 2 ^ 24) ∧ p.loaded = false ∧ t.mem = s.mem) ∧
    (∀ p c cx g, s.passOf p.id = some (p, c, cx, g) →
      (p.loaded = false → p.stopped = false → g.st = .placed → g.passCore < bankBase → ∃ t, exec (.treeletLoaded p.id) s = .next t ∧ t.mem = s.mem ∧
        ∀ x, t.pass? p.id = some x → x.loaded = true ∧ x.segs.length ≤ max 2 p.segs.length ∧
          x.image = (match s.treeletEntry cx c p.treelet with | some (va, n) => (s.readVa cx va n).map (fun b => b.1) | none => [])) ∧
      (∀ n sg, p.segs[n]? = some sg → g.st = .placed →
        let outs := (passTreelet p c cx).outcomes c.root sg.rays
        (outs.any (fun x => x.2 == .consumed) = true → exec (.segmentCommit p.id n) s = .next (s.charge g.id 3 none)) ∧
        (outs.any (fun x => x.2 == .consumed) = false → ∀ u,
          ((s.unlink cx c p.treelet sg.addr).updPass p.id (fun x => { x with segs := x.segs.eraseIdx n })).settleRays cx c g.passCore
            sg.addr outs = some u →
          exec (.segmentCommit p.id n) s = .next (((u.updScene cx.id c.addr (fun c => { c.forget sg.addr with free := c.free ++ [sg.addr] })).openSegments
            p.id).noteIdle cx.id c.addr)) ∧
        ((∃ x ∈ outs, ∃ y h prim, x.2 = .waits y h prim) → outs.any (fun x => x.2 == .consumed) = false →
          exec (.segmentCommit p.id n) s = .next s)) ∧
      (∀ n i sg r y h prim k, p.segs[n]? = some sg → sg.rays[i]? = some r → r.slot = none → r.poisoned = false → g.st = .placed →
        s.taskRoom cx g.passCore = true → (passTreelet p c cx).outcome c.root r = .waits y h prim → k < 256 → k ∉ p.slots →
        (∀ j < k, j ∈ p.slots) →
        ∃ (t u : State), exec (.anyHitCandidate p.id n i) s = .next t ∧
          t = u.dispatchRec cx g.passCore (rayRecord c cx 4 c.pcAny 0 (2 ^ 8 * p.num + k) r.rec_ prim h.t h.u h.v y.ctrl p.treelet) ∧
          ∀ x, u.pass? p.id = some x → ((x.segs[n]?).bind (fun a => a.rays[i]?)).map (fun a => a.slot) = some (some k)) ∧
      ((p.stopped = false → g.st = .placed → g.passCore < bankBase → p.startedAt + 200000 ≤ s.time →
          ∃ t, exec (.passStreamStop p.id) s = .next t ∧ t.mem = s.mem ∧ ∀ x, t.pass? p.id = some x → x.stopped = true ∧ x.segs = p.segs) ∧
        (p.stopped = true → p.segs = [] ∨ (∃ t0, p.waitSince = some t0 ∧ t0 + 1000000 ≤ s.time) →
          ∃ t, exec (.passClose p.id) s = .next t ∧ t.pass? p.id = none ∧ t.gang? p.gang = none ∧ t.mem = s.mem))) ∧
    (∀ c t0, s.scene? c.ctx c.addr = some c → c.idleSince = some t0 → t0 + 10000000 ≤ s.time →
      ∃ t, exec (.sceneRelease c.ctx c.addr) s = .next t ∧ (∀ x ∈ t.scenes, ¬(x.ctx = c.ctx ∧ x.addr = c.addr)) ∧ c ∈ t.oldScenes ∧
        t.mem = s.mem) ∧
    ∀ c cx n va stop, s.scene? c.ctx c.addr = some c → s.ctx? c.ctx = some cx → c.ctx = cx.id → n < c.count → s.headOf cx c n ≠ 0 →
      s.queueRuns c n = false → (∀ t0, lookupBy n c.requested = some t0 → t0 + 50000000 ≤ s.time) →
      s.absentPage cx c n = some (va, some stop) →
      ∃ t, exec (.geomPageRequest c.ctx c.addr n) s = .next t ∧ t.mem = s.mem ∧
        t.dev.out = (s.emit (.host 0x82 cx.id 0 0 (toBytes 8 c.addr ++ toBytes 4 n ++ toBytes 4 0 ++ toBytes 8 va ++
          toBytes 8 (stop - va)))).dev.out ∧
        ∀ x, t.scene? c.ctx c.addr = some x → lookupBy n x.requested = some s.time

/-! ## Commands of the host -/

/-- Commands over contexts (R47, R49, R50, R61, R62, R68, R69, R71 to R74, R82, R143, R179). Every command is checked
in R62's order before its effect. CTX_CREATE makes a context at its root page; CTX_POLICY changes what SELECT names;
CTX_HALT and CTX_RESUME stop it and let it run; MAP_ACK drops the versions it owed; CK_WINDOW sets its window; GEOM_IN
writes its data; CTX_DESTROY leaves nothing of it, and waits while something of it is under way. The model's choices
in it stand in log entries 15, 33, 34, 36, 89. -/
def Obligations.ContextCommands : Prop :=
  (CommandChecked 0x01 true (· == 64) .ctxCreate ∧ CommandChecked 0x02 false (· == 0) .ctxDestroy ∧
    CommandChecked 0x03 false (· == 8) .ctxPolicy ∧ CommandChecked 0x04 false (· == 32) .memMap ∧
    CommandChecked 0x05 false (· == 16) .memUnmap ∧ CommandChecked 0x06 false (· == 128) .launch ∧
    CommandChecked 0x07 false (· == 0) .ctxHalt ∧ CommandChecked 0x08 false (· == 0) .ctxResume ∧
    CommandChecked 0x09 false (· == 8) .mapAck ∧ CommandChecked 0x0A true (· == 16) .ckpt ∧
    CommandChecked 0x0B true (· == 8) .restore ∧ CommandChecked 0x0C false (· == 16) .ckWindow ∧
    CommandChecked 0x0D true (· == 32) .attest ∧ CommandChecked 0x0E true (· == 0) .mapSnap ∧
    CommandChecked 0x0F true (· == 8) .powerLimit ∧ CommandChecked 0x10 true (· == 24) .relaySet ∧
    CommandChecked 0x11 true (· == 8) .peerClear ∧ CommandChecked 0x12 true (· == 0) .mapRebuild ∧
    CommandChecked 0x13 false (fun n => decide (24 ≤ n) && n % 8 == 0) .geomIn ∧
    CommandChecked 0x14 true (fun n => decide (16 ≤ n) && n % 8 == 0) .fwWrite ∧
    CommandChecked 0x15 true (· == 8) .fwCommit) ∧
  ∀ (s : State) (m : Msg),
    let num (lo n : Nat) : Nat := numAt m.body lo n
    (s.accepts 0x01 true m (m.len == 64) = true →
      let t := s.advanceSeq 0x01 m.ctx
      (∀ st, t.createFails m.ctx m.body = some st → exec (.ctxCreate m) s = .next (t.answer m st)) ∧
      (t.createFails m.ctx m.body = none → t.takePage = none → exec (.ctxCreate m) s = .next (t.answer m 5)) ∧
      ∀ page u, t.createFails m.ctx m.body = none → t.takePage = some (page, u) →
        ∃ (v : State) (cx : Ctx), exec (.ctxCreate m) s = .next (v.complete m.ctx m.tag 0 0 (page * pageBytes)) ∧
          v.ctx? m.ctx = some cx ∧ v.ctxs = s.ctxs ++ [cx] ∧ cx.cls = num 0 1 ∧ cx.tenant = num 6 2 ∧
          cx.root = page * pageBytes ∧ cx.taskArea = num 8 8 ∧ cx.taskPages = num 0x10 4 ∧ cx.salt = slice 0 m.body 0x20 32 ∧
          cx.policy.grace = num 4 2 ∧ cx.policy.relaunchCeil = num 2 1 ∧ cx.policy.roundRobin = (num 1 1).testBit 0 ∧
          cx.policy.tolerant = (num 1 1).testBit 1 ∧ cx.policy.flush = (num 1 1).testBit 2 ∧
          cx.policy.deviceLaunch = (num 1 1).testBit 3 ∧ cx.nextSeq = 0 ∧ cx.halted = false ∧ cx.owed = [] ∧ cx.window = none ∧
          (s.memWf → ∀ a, readByte v.mem a = if page * pageBytes ≤ a ∧ a < (page + 1) * pageBytes then 0 else readByte s.mem a)) ∧
    (s.accepts 0x02 false m (m.len == 0) = true → ∀ cx, s.ctx? m.ctx = some cx →
      ((∃ o, s.dev.ckpt = some o ∧ o.mask.getLsbD cx.id = true) → exec (.ctxDestroy m) s = .next (s.putBack (.ctxDestroy m))) ∧
      ((∀ o, s.dev.ckpt = some o → o.mask.getLsbD cx.id = false) →
        let u := (s.advanceSeq 0x02 m.ctx).destroyStop cx.id
        let busy := (∃ o ∈ u.ops, o.ctx = cx.id) ∨
          ∃ g ∈ u.gangs, g.ctx = cx.id ∧ (g.region.st = 5 ∨ (g.st = .dying ∧ g.doom.isSome = true))
        (busy → exec (.ctxDestroy m) s = .next ((s.destroyStop cx.id).putBack (.ctxDestroy m))) ∧
        (¬busy → ∃ v : State, exec (.ctxDestroy m) s = .next (v.answer m 0) ∧ v.ctx? cx.id = none ∧
          (∀ l ∈ v.launches, l.ctx ≠ cx.id) ∧ (∀ g ∈ v.gangs, g.ctx ≠ cx.id) ∧ (∀ w ∈ v.waves, w.ctx ≠ cx.id) ∧
          (∀ c ∈ v.ctxCores, c.ctx ≠ cx.id) ∧ (∀ c ∈ v.scenes, c.ctx ≠ cx.id) ∧ (∀ c ∈ v.cores, c.ctx ≠ some cx.id) ∧
          ∀ w ∈ s.waves, w.ctx ≠ cx.id → w.gang.isNone = true → w ∈ v.waves))) ∧
    (s.accepts 0x03 false m (m.len == 8) = true → ∀ cx, s.ctx? m.ctx = some cx →
      let sel := num 0 1
      let flags := num 1 1
      sel ≠ 0 → sel < 64 → flags < 16 → (flags.testBit 0 = true → sel.testBit 0 = true) →
      (flags.testBit 1 = true → sel.testBit 1 = true) → (flags.testBit 2 = true → sel.testBit 4 = true) →
      (flags.testBit 3 = true → sel.testBit 5 = true) → (sel.testBit 2 = false → num 2 1 = 0) →
      (sel.testBit 3 = false → num 4 2 = 0) → zeros m.body 3 1 = true → zeros m.body 6 2 = true → num 2 1 ≤ 15 →
      (sel.testBit 3 = true → 1 ≤ num 4 2 ∧ num 4 2 ≤ 100) →
      let t := s.advanceSeq 0x03 m.ctx
      (flags.testBit 1 = true → cx.cls ≠ 3 → exec (.ctxPolicy m) s = .next (t.answer m 6)) ∧
      ((flags.testBit 1 = true → cx.cls = 3) → exec (.ctxPolicy m) s = .next ((t.updCtx m.ctx (fun c => { c with policy :=
        { roundRobin := if sel.testBit 0 then flags.testBit 0 else c.policy.roundRobin
          tolerant := if sel.testBit 1 then flags.testBit 1 else c.policy.tolerant
          relaunchCeil := if sel.testBit 2 then num 2 1 else c.policy.relaunchCeil
          grace := if sel.testBit 3 then num 4 2 else c.policy.grace
          flush := if sel.testBit 4 then flags.testBit 2 else c.policy.flush
          deviceLaunch := if sel.testBit 5 then flags.testBit 3 else c.policy.deviceLaunch } })).answer m 0))) ∧
    (s.accepts 0x07 false m (m.len == 0) = true → exec (.ctxHalt m) s =
      .next ((((s.advanceSeq 0x07 m.ctx).updCtx m.ctx (fun c => { c with halted := true })).event m.ctx 2 0 noGang 0).answer m 0)) ∧
    (s.accepts 0x08 false m (m.len == 0) = true → ∃ v : State, exec (.ctxResume m) s = .next (v.answer m 0) ∧ v.mem = s.mem ∧
      (∀ c ∈ v.ctxs, c.id = m.ctx → c.halted = false) ∧ (∀ w ∈ v.waves, w.ctx = m.ctx → w.hold ≠ .halted) ∧
      (∀ w ∈ s.waves, w.ctx ≠ m.ctx ∨ w.hold ≠ .halted → w ∈ v.waves) ∧ ∀ g ∈ v.gangs, g.ctx = m.ctx → g.tried = none) ∧
    (s.accepts 0x09 false m (m.len == 8) = true → ∀ cx, s.ctx? m.ctx = some cx →
      let v := min (num 0 8) s.dev.rmap.version
      ∃ (u : State) (d : Ctx), exec (.mapAck m) s = .next (u.complete m.ctx m.tag 0 0 v) ∧ u.ctx? m.ctx = some d ∧
        (∀ o, o ∈ d.owed ↔ o ∈ cx.owed ∧ v < o.version) ∧ (d.owed = [] → d.overdue = false) ∧ u.waves = s.waves ∧ u.mem = s.mem) ∧
    (s.accepts 0x0C false m (m.len == 16) = true →
      let t := s.advanceSeq 0x0C m.ctx
      let off := num 0 8
      let size := num 8 8
      (off % pageBytes ≠ 0 ∨ size % pageBytes ≠ 0 → exec (.ckWindow m) s = .next (t.answer m 4)) ∧
      (off % pageBytes = 0 → size % pageBytes = 0 →
        let bad := size ≠ 0 ∧ (off < 1537 * 2 ^ 30 ∨ 2048 * 2 ^ 30 < off + size ∨
          ∃ i ∈ s.dev.images, off < i.extent.1 + i.extent.2 ∧ i.extent.1 < off + size)
        let busy := ∃ o ∈ s.ops, o.ctx = m.ctx ∧ o.ckCopy = true
        (bad → exec (.ckWindow m) s = .next (t.answer m 5)) ∧
        (¬bad → busy → exec (.ckWindow m) s = .next (t.answer m 6)) ∧
        (¬bad → ¬busy → exec (.ckWindow m) s =
          .next ((t.updCtx m.ctx (fun c => { c with window := if size = 0 then none else some (off, size) })).answer m 0)))) ∧
    (s.accepts 0x13 false m (decide (24 ≤ m.len) && m.len % 8 == 0) = true → ∀ cx,
      let t := s.advanceSeq 0x13 m.ctx
      t.ctx? m.ctx = some cx →
      let va := num 0 8
      let flags := num 0x14 4
      let data := m.body.drop 24
      let here (k : Nat) : Prop := (t.localPa cx .load ((va + k) / pageBytes * pageBytes)).isSome = true
      let u := if data = [] then t else t.writeVa cx va (data.map (fun b => (b, false)))
      (2 ≤ flags → exec (.geomIn m) s = .next (t.answer m 4)) ∧
      (flags < 2 → (∃ k < data.length, ¬here k) → exec (.geomIn m) s = .next (t.answer m 5)) ∧
      ((∀ k < data.length, here k) →
        (flags = 0 → exec (.geomIn m) s = .next (u.answer m 0)) ∧
        (flags = 1 → exec (.geomIn m) s = .next ((u.recheckTreelet cx (num 8 8) (num 0x10 4)).answer m 0))))

/-- Commands over memory, checkpoints, the map and the firmware (R33, R35, R36, R43, R66, R69, R70, R71, R83 to R89,
R261). A mapping command answers what its range fails on, waits for accesses that use the range, or changes the
entries and answers its count; CKPT takes an order; RESTORE rebuilds the contexts of a valid image; ATTEST sends its
report, MAP_SNAP eleven parts of one version; POWER_LIMIT, RELAY_SET and PEER_CLEAR change the map and answer its
version, MAP_REBUILD writes the durable copy of the map, and surveys and publishes one where there is none; FW_WRITE clears a slot's generation and writes its data, FW_COMMIT gives a slot
that passes the next generation. The model's choices in it stand in log entries 10, 11, 14, 16, 17. -/
def Obligations.DeviceCommands : Prop :=
  ∀ (s : State) (m : Msg),
    let num (lo n : Nat) : Nat := numAt m.body lo n
    let at_ (type : Nat) : State := s.advanceSeq type m.ctx
    (∀ cx, s.accepts 0x04 false m (m.len == 32) = true → (at_ 0x04).ctx? m.ctx = some cx →
      let t := at_ 0x04
      let q := mapReqOf m.body
      let ends (o : State) : Prop := exec (.memMap m) s = .next o
      (q.malformed cx m.body = true → ends (t.complete m.ctx m.tag 4 0 0)) ∧
      (q.malformed cx m.body = false → badCount q.va q.count q.size = true → ends (t.complete m.ctx m.tag 5 0 0)) ∧
      (q.malformed cx m.body = false → badCount q.va q.count q.size = false → q.prot = false →
        let ws := t.walks cx q.va q.small
        let part := ∃ w ∈ ws, ∃ e, w.2.entry? = some e ∧ q.size < pteSize e ∧ partOf q.va q.small w.1 e = true
        (part → ends (t.complete m.ctx m.tag 4 0 0)) ∧
        (¬part → (∃ w ∈ ws, w.2 = .poisoned) → ends (t.complete m.ctx m.tag 5 1 0)) ∧
        (¬part → (∀ w ∈ ws, w.2 ≠ .poisoned) → (∃ w ∈ ws, w.2 ≠ .invalid) → ends (t.complete m.ctx m.tag 5 0 0)) ∧
        ((∀ w ∈ ws, w.2 = .invalid) →
          let beyond := q.alloc = false ∧ q.r = false ∧ hbmPages * pageBytes < q.pa + q.small * pageBytes
          let strange := q.alloc = false ∧ q.r = false ∧
            ∃ i < q.small, q.pa / pageBytes + i ∉ t.livePages (fun c => c.tenant == cx.tenant)
          (beyond → ends (t.complete m.ctx m.tag 5 0 0)) ∧ (¬beyond → strange → ends (t.complete m.ctx m.tag 6 0 0)) ∧
          (¬beyond → ¬strange → t.putAll cx q = none → ends (t.complete m.ctx m.tag 5 0 0)) ∧
          ∀ u, ¬beyond → ¬strange → t.putAll cx q = some u →
            let made := (u.walks cx q.va q.small).filterMap (fun w => w.2.entry?.map (fun e => (w.1, e)))
            let v := u.updCtx cx.id (fun c => { c with ranges := c.ranges ++ [(q.va, q.count * q.step)] })
            ends (((v.dropReadOnly cx made).pagesCame cx).complete m.ctx m.tag 0 0 q.count))) ∧
      (q.malformed cx m.body = false → badCount q.va q.count q.size = false → q.prot = true →
        (∀ st d, t.entriesIn cx q.va q.count q.size = .error (st, d) → ends (t.complete m.ctx m.tag st d 0)) ∧
        ∀ es, t.entriesIn cx q.va q.count q.size = .ok es →
          let held := q.w = false ∧ cx.areaIn q.va (q.count * q.step) = true ∧ t.areaHeld cx = true
          let quiet := t.rangeQuiet cx q.va (q.va + q.count * q.step) (es.filterMap (fun e => leafPage? e.1 e.2))
          (held → ends (t.complete m.ctx m.tag 6 0 0)) ∧ (¬held → quiet = false → ends (s.putBack (.memMap m))) ∧
          ∀ u, ¬held → quiet = true →
            es.foldl (fun x e => x.bind (fun x => x.putPte cx.root e.1 (q.protect e.2))) (some t) = some u →
            ends ((u.dropReadOnly cx (es ++ es.map (fun e => (e.1, q.protect e.2)))).complete m.ctx m.tag 0 0 q.count))) ∧
    (∀ cx, s.accepts 0x05 false m (m.len == 16) = true → (at_ 0x05).ctx? m.ctx = some cx →
      let t := at_ 0x05
      let va := num 0 8
      let count := num 8 4
      let size := num 12 4
      let n := count * sizePages size * pageBytes
      let ends (o : State) : Prop := exec (.memUnmap m) s = .next o
      (4 ≤ size ∨ badRange va size = true → ends (t.complete m.ctx m.tag 4 0 0)) ∧
      (size < 4 → badRange va size = false → badCount va count size = true → ends (t.complete m.ctx m.tag 5 0 0)) ∧
      (size < 4 → badRange va size = false → badCount va count size = false →
        (∀ st d, t.entriesIn cx va count size = .error (st, d) → ends (t.complete m.ctx m.tag st d 0)) ∧
        ∀ es, t.entriesIn cx va count size = .ok es →
          let pages := es.filterMap (fun e => leafPage? e.1 e.2)
          let held := cx.areaIn va n = true ∧ t.areaHeld cx = true
          (held → ends (t.complete m.ctx m.tag 6 0 0)) ∧
          (¬held → t.rangeQuiet cx va (va + n) pages = false → ends (s.putBack (.memUnmap m))) ∧
          (¬held → t.rangeQuiet cx va (va + n) pages = true →
            let u := (es.foldl (fun x e => x.clearPte cx.root e.1) t).dropReadOnly cx es
            ends (((pages.foldl (fun x p => x.unwatch none p) u).freeUnmapped pages).complete m.ctx m.tag 0 0 count)))) ∧
    (s.accepts 0x0A true m (m.len == 16) = true →
      let t := at_ 0x0A
      let mask := BitVec.ofNat 64 (num 0 8)
      (∀ st, t.ckptFails m.body = some st → exec (.ckpt m) s = .next (t.answer m st)) ∧
      (mask ≠ 0 → num 8 1 ≤ 1 → zeros m.body 9 3 = true → (∀ c < 64, mask.getLsbD c = true → (s.ctx? c).isSome = true) →
        1 ≤ num 12 4 → num 12 4 ≤ 60000 →
        (num 8 1 = 1 → (s.dev.baseFor mask).isSome = true ∧ s.dev.deltaSlot.isSome = true) →
        (s.dev.ckpt.isSome = true → exec (.ckpt m) s = .next (s.putBack (.ckpt m))) ∧
        let o : CkptOrder :=
          { mask := mask, kind := num 8 1, limit := num 12 4, startedAt := s.time, msgCtx := m.ctx, tag := m.tag }
        (s.dev.ckpt = none → exec (.ckpt m) s = .next (t.updDev (fun d => { d with ckpt := some o }))))) ∧
    (s.accepts 0x0B true m (m.len == 8) = true →
      let t := at_ 0x0B
      (∀ bad, s.dev.chainOf (num 0 8) = .error bad → exec (.restore m) s = .next (t.complete m.ctx m.tag 7 (bad % 2 ^ 16) 0)) ∧
      ∀ chain i, s.dev.chainOf (num 0 8) = .ok chain → chain.getLast? = some i →
        (t.roomFor i = false → exec (.restore m) s = .next (t.complete m.ctx m.tag 7 (num 0 8 % 2 ^ 16) 0)) ∧
        (t.roomFor i = true → t.rebuild chain i = none → exec (.restore m) s = .next (t.answer m 5)) ∧
        ∀ u, t.roomFor i = true → t.rebuild chain i = some u →
          exec (.restore m) s = .next (u.complete m.ctx m.tag 0 0 i.mask.toNat) ∧
          (∀ c ∈ i.ctxs, ∃ d ∈ u.ctxs, d.id = c.id ∧ d.tenant = c.tenant ∧ d.nextSeq = 0 ∧ d.restored = true ∧ d.owed = []) ∧
          (∀ g ∈ i.gangs, ∃ h ∈ u.gangs, h.id = g.id ∧ h.st = g.st ∧ h.groups = g.groups) ∧ ∀ w ∈ i.waves, w.rebuilt ∈ u.waves) ∧
    (s.accepts 0x0D true m (m.len == 32) = true →
      let t := at_ 0x0D
      let r := t.reportBytes m.body
      exec (.attest m) s = .next ((t.emit (.host 0x85 0xFF 0 0
        (r ++ (List.range 64).map (fun i => Config.signatureByte (sha512 r) i)))).answer m 0) ∧
      r.length = 272 ∧ r.take 32 = m.body ∧ numAt r 0x88 8 = s.dev.rmap.version % 2 ^ 64) ∧
    (s.accepts 0x0E true m (m.len == 0) = true →
      let t := at_ 0x0E
      let map := s.dev.rmap
      (map.published = false → exec (.mapSnap m) s = .next (t.answer m 6)) ∧
      (map.published = true →
        let part (k : Nat) : HostMsg :=
          let n := if k = 10 then 480 else 4048
          .host 0x86 0xFF 0 0 (toBytes 8 map.version ++ toBytes 4 (4048 * k) ++ toBytes 4 n ++ map.part (4048 * k) n)
        exec (.mapSnap m) s = .next (((List.range 11).foldl (fun (t : State) k => t.emit (part k)) t).complete m.ctx m.tag 0 0 map.version))) ∧
    (s.accepts 0x0F true m (m.len == 8) = true →
      let t := at_ 0x0F
      let watts := num 0 2
      (zeros m.body 2 6 = false → exec (.powerLimit m) s = .next (t.answer m 4)) ∧
      (zeros m.body 2 6 = true → watts < 1200 ∨ 3200 < watts → exec (.powerLimit m) s = .next (t.answer m 5)) ∧
      (zeros m.body 2 6 = true → 1200 ≤ watts → watts ≤ 3200 →
        (s.dev.rmap.published = false → exec (.powerLimit m) s = .next (t.answer m 6)) ∧
        (s.dev.rmap.published = true → ∃ u : State, exec (.powerLimit m) s =
            .next (u.complete m.ctx m.tag 0 0 (s.dev.rmap.version + 1)) ∧
          u.dev.rmap = { s.dev.rmap with
            limit := watts, version := s.dev.rmap.version + 1, changedAt := s.stamp, cause := 2, detail := 0 }))) ∧
    (s.accepts 0x10 true m (m.len == 24) = true → s.dev.rmap.published = true →
      let pod := num 0 1
      let ids := relayIds m.body
      let flags := num 0x10 4
      zeros m.body 1 3 = true → num 4 4 < 2 ^ 24 → flags ≠ 0 → flags < 4 → zeros m.body 0x14 4 = true → pod ≤ 15 →
      (∀ i ∈ ids, i < 1024 ∨ i = 0xFFFF) →
      ∃ u : State, exec (.relaySet m) s = .next (u.answerVersion m) ∧
        u.dev.rmap.version = s.dev.rmap.version + (if flags.testBit 0 then 1 else 0) + (if flags.testBit 1 then 1 else 0) ∧
        (∀ p, lookupBy p u.dev.rmap.relay = if p = pod ∧ flags.testBit 0 = true then some ids else lookupBy p s.dev.rmap.relay) ∧
        ∀ n < 24, (u.dev.rmap.portEnt n).up = (s.dev.rmap.portEnt n).up ∧ (u.dev.rmap.portEnt n).relay =
          if flags.testBit 1 then (num 4 4).testBit n else (s.dev.rmap.portEnt n).relay) ∧
    (s.accepts 0x11 true m (m.len == 8) = true → zeros m.body 2 6 = true →
      let t := at_ 0x11
      ((∀ p ∈ s.dev.rmap.peers, p.2 ≠ num 0 2) → exec (.peerClear m) s = .next (t.answer m 5)) ∧
      ∀ p, s.dev.rmap.peers.find? (fun p => p.2 == num 0 2) = some p →
        (s.dev.rmap.published = false → exec (.peerClear m) s = .next (t.answer m 6)) ∧
        (s.dev.rmap.published = true → ∃ u : State, exec (.peerClear m) s =
            .next (u.complete m.ctx m.tag 0 0 (s.dev.rmap.version + 1)) ∧
          u.dev.rmap = { s.dev.rmap with
            peers := s.dev.rmap.peers.filter (fun q => q.1 != p.1), version := s.dev.rmap.version + 1, changedAt := s.stamp
            cause := 0x14, detail := p.1 })) ∧
    (s.accepts 0x12 true m (m.len == 0) = true → ∃ u : State, exec (.mapRebuild m) s =
        .next (u.complete m.ctx m.tag 0 0 u.dev.rmap.version) ∧ u.dev.durable = u.dev.rmap.retirement ∧
      (s.dev.rmap.published = true → u.dev.rmap = s.dev.rmap) ∧
      (s.dev.rmap.published = false → u.dev.rmap = { surveyMap (surveyNow s.dev.survey s.dev.rmap)
        { valid := true, cores := [], slices := [], stackEnts := [], remaps := [] } with
        published := true, version := 1, changedAt := s.stamp })) ∧
    (s.accepts 0x14 true m (decide (16 ≤ m.len) && m.len % 8 == 0) = true →
      let t := at_ 0x14
      let slot := num 0 1
      let off := num 4 4
      let data := m.body.drop 16
      let base := slotBase slot
      let shape := zeros m.body 1 3 = true ∧ zeros m.body 8 8 = true ∧ off % 8 = 0
      let inside := slot ≤ 1 ∧ off + data.length ≤ 2 ^ 28
      (¬shape → exec (.fwWrite m) s = .next (t.answer m 4)) ∧ (shape → ¬inside → exec (.fwWrite m) s = .next (t.answer m 5)) ∧
      (shape → inside → s.dev.fw.running = some slot → exec (.fwWrite m) s = .next (t.answer m 6)) ∧
      (shape → inside → s.dev.fw.running ≠ some slot → ∃ u : State, exec (.fwWrite m) s = .next (u.answer m 0) ∧
        slot ∈ u.dev.fw.dirtySlots ∧ (s.memWf → s.dev.partial_ = [] → u.memWf ∧
          (∀ k < data.length, ¬(8 ≤ off + k ∧ off + k < 16) → some (readByte u.mem (base + off + k)) = data[k]?) ∧
          (slot ∉ s.dev.fw.dirtySlots → ∀ k < 8, readByte u.mem (base + 8 + k) = 0) ∧
          ∀ a, ¬(base + 8 ≤ a ∧ a < base + 16) → ¬(base + off ≤ a ∧ a < base + off + data.length) →
            readByte u.mem a = readByte s.mem a))) ∧
    (s.accepts 0x15 true m (m.len == 8) = true →
      let t := at_ 0x15
      let slot := num 0 1
      (zeros m.body 1 7 = false → exec (.fwCommit m) s = .next (t.answer m 4)) ∧
      (zeros m.body 1 7 = true → 1 < slot → exec (.fwCommit m) s = .next (t.answer m 5)) ∧
      (zeros m.body 1 7 = true → slot ≤ 1 →
        (∀ why, s.dev.fw.factory ≠ some slot → s.fwFails slot = some why → ∃ u : State,
          exec (.fwCommit m) s = .next (u.complete m.ctx m.tag 0x0B why 0) ∧ u.mem = s.mem) ∧
        (s.dev.fw.factory = some slot ∨ s.fwFails slot = none →
          let gen := (s.genOf (1 - slot) + 1) % 2 ^ 64
          ∃ u : State, exec (.fwCommit m) s = .next (u.complete m.ctx m.tag 0 0 gen) ∧
            (s.memWf → s.dev.partial_ = [] → readNat u.mem (slotBase slot + 8) 8 = gen))))

/-! ## Power, ports and the Farrier -/

/-- Power, clock and ports (R9, R10, R12, R14, R16 to R20, R22 to R24, R31 to R34, R36, R45 to R48, R66, R87, R258). A
change of the map raises its version, tells the host and is owed by every context with a live gang. A reset and a loss
of power leave nothing volatile, and, with no copy into a window under way, the tier as it was; the map of a reset is published
when firmware runs and the durable copy is good, else a bad copy is reported. The clock moves as one change; telemetry and the
timestamp go out on time, and the timestamp never steps back. A port goes down with its eighth failed replay; a response within
50 µs performs the access that waits, a later one does nothing, and the time-out performs it without one; requests of peers are
executed at their home; whole frames are taken in order. The model's choices in it stand in log entries 3, 4, 38, 39, 42, 43,
97, 98, 104, 117. -/
def Obligations.PowerAndLinks : Prop :=
  (∀ (s : State) (cause detail : Nat) (f : RMap → RMap),
    let m := f s.dev.rmap
    let t := s.publish cause detail f
    (m.published = false → t = { s with dev := { s.dev with rmap := m } }) ∧
    (m.published = true →
      let told : HostMsg := .host 0x81 0xFF 0 0 (toBytes 8 (m.version + 1) ++ toBytes 2 cause ++ toBytes 2 detail ++ toBytes 4 0)
      t.dev.rmap = { m with version := m.version + 1, changedAt := s.stamp, cause := cause, detail := detail } ∧
      (m.lanes ≠ 0 → t.dev.out = s.dev.out ++ [.frame s.dev.txSeq (frameCrc s.dev.txSeq told.bytes) told] ∧
        t.dev.txSeq = (s.dev.txSeq + 1) % 2 ^ 32) ∧
      (m.lanes = 0 → t.dev.out = s.dev.out ∧ t.dev.heldOut = s.dev.heldOut ++ [told]) ∧ t.waves = s.waves ∧ t.mem = s.mem ∧
      t.ctxs = s.ctxs.map (fun c => if s.gangs.any (fun g => g.ctx == c.id && g.st.live) then { c with owed := c.owed ++
        [{ version := m.version + 1, deadline := s.time + c.policy.grace * 1000000, grace := c.policy.grace }] } else c))) ∧
  (∀ s : State,
    let empty (t : State) : Prop := t.ctxs = [] ∧ t.launches = [] ∧ t.gangs = [] ∧ t.waves = [] ∧ t.cores = [] ∧ t.ops = [] ∧
      t.spawns = [] ∧ t.reuse = [] ∧ t.scenes = [] ∧ t.cols = [] ∧ t.dev.inbox = []
    let tierKept (t : State) : Prop := ∀ a, tierBase ≤ a → readByte t.mem a = readByte s.mem a
    let still : Prop := ∀ o ∈ s.ops, ∀ src off n done sem wrote, o.body ≠ .copy src (.ck off) n done sem wrote
    (s.dev.powered = false → exec .mainInputOutOfRange s = .next s) ∧
    (s.dev.powered = true → ∃ t, exec .mainInputOutOfRange s = .next t ∧ t.dev.powered = false ∧ empty t ∧
      t.dev.fw.running = none ∧
      (still → t.dev.fw.fuse = s.dev.fw.fuse ∧ t.dev.durable = s.dev.durable ∧ (s.memWf → tierKept t))) ∧
    (∀ v : Survey, ∃ t, exec (.moduleReset v) s = .next t ∧ t.dev.powered = true ∧ empty t ∧ (still →
      (s.memWf → tierKept t) ∧ s.dev.fw.fuse ≤ t.dev.fw.fuse ∧
      (s.dev.durable.valid = false → v.lanes % 4 ≠ 0 → ∃ seq crc, .frame seq crc (.host 0x81 0xFF 0 0 (toBytes 16 0)) ∈ t.dev.out) ∧ (∀ k, t.dev.fw.running = some k → t.boots k = true ∧ t.dev.fw.secVer ≤ t.dev.fw.fuse) ∧
      (s.dev.durable.valid = true ∧ t.dev.fw.running.isSome = true → t.dev.rmap.published = true ∧ t.dev.rmap.version = 1) ∧
      (s.dev.durable.valid = false ∨ t.dev.fw.running = none → t.dev.rmap.published = false) ∧
      ∀ i < 272, (t.dev.rmap.coreEnt i).st =
        if s.dev.durable.valid = true ∧ (lookupBy i s.dev.durable.cores).any (fun e => e.st == 4) then 4
        else if i ∈ v.absent then 0 else if v.spareQuad.getD (i / 68) 17 = quadOf i then 2 else 1)) ∧
    (∀ mhz, s.dev.powered = true → clockOk mhz = true →
      mhz < s.dev.rmap.mhz ∨ (s.dev.rmap.mhz < mhz ∧ s.dev.clockSince + 10000000 ≤ s.time) →
      exec (if mhz < s.dev.rmap.mhz then .clockLower mhz else .clockRaise mhz) s =
        .next ((s.updDev (fun d => { d with clockSince := s.time, clockTold := false })).publish 0x01 0
          (fun p => { p with mhz := mhz }))) ∧
    (∀ mhz, s.time < s.dev.clockSince + 10000000 → exec (.clockRaise mhz) s = .next s) ∧
    (∀ power temps, s.dev.powered = true → s.dev.clockTold = false ∨ s.dev.lastTelemetry + 100000000 ≤ s.time → temps.length = 17 →
      exec (.telemetry power temps) s = .next ((s.updDev (fun d => { d with lastTelemetry := s.time, clockTold := true })).emit
        (.host 0x84 0xFF 0 0 (toBytes 8 s.stamp ++ toBytes 2 s.dev.rmap.mhz ++ toBytes 2 power ++ toBytes 2 s.dev.rmap.limit ++
          toBytes 2 0 ++ (temps.map (fun h => toBytes 2 h.toNat)).flatten ++ toBytes 6 0)))) ∧
    (s.dev.powered = true → s.dev.lastSync + 1000000 ≤ s.time → exec .timestampSyncSend s =
      .next ((s.updDev (fun d => { d with lastSync := s.time })).send (.sync s.stamp))) ∧
    ∀ y : SyncMsg, s.dev.powered = true →
      let lower := s.dev.joinedBy.any (fun id => decide (id < y.from_))
      ∃ t, exec (.timestampSync y) s = .next t ∧ t = { s with dev := t.dev } ∧ s.stamp ≤ t.stamp ∧
      (y.joining = false → t.dev = { s.dev with slew := (y.count : Int) - s.stamp }) ∧
      (y.joining = true → lower = true → t = s) ∧
      (y.joining = true → lower = false → t.dev.joinedBy = some y.from_ ∧
        (s.stamp ≤ y.count → t.stamp = y.count ∧ t.dev.slew = 0) ∧
        (y.count < s.stamp → t.stamp = s.stamp ∧ t.dev.slew = (y.count : Int) - s.stamp))) ∧
  (∀ (s : State) (port : Nat), s.dev.powered = true → port < 24 →
    let down (o : Host.Outcome State Fault Refusal) : Prop := ∃ t, o = .next t ∧ t.portUp port = false ∧ t.ops = s.ops ∧
      (s.dev.rmap.published = true → t.dev.rmap.version = s.dev.rmap.version + 1 ∧ t.dev.rmap.cause = 0x0F ∧ t.dev.rmap.detail = port)
    (s.portUp port = true → down (exec (.portDown port) s)) ∧
    (s.portUp port = false → ∃ t, exec (.portUp port) s = .next t ∧ t.portUp port = true ∧
      (s.dev.rmap.published = true → t.dev.rmap.version = s.dev.rmap.version + 1 ∧ t.dev.rmap.cause = 0x10 ∧ t.dev.rmap.detail = port)) ∧
    (∀ flit, s.portUp port = true →
      let before := (s.dev.flits.find? (fun f => f.1 == port && f.2.1 == flit)).elim 0 (fun f => f.2.2)
      (before = 8 → down (exec (.flitCrcFail port flit) s)) ∧
      (before ≠ 8 → ∃ t, exec (.flitCrcFail port flit) s = .next t ∧ t.dev.out = s.dev.out ++ [.replay port flit] ∧
        (port, flit, before + 1) ∈ t.dev.flits ∧ t.dev.rmap = s.dev.rmap)) ∧
    ∀ tag, s.portUp port = true →
      exec (.unsupportedRequest port tag) s = .next (s.send (.unsupported port tag)) ∧
      ∃ t, exec (.unknownVendorMessage port tag) s = .next t ∧ t = { s with dev := { s.dev with portErrors := t.dev.portErrors } } ∧
        lookupBy port t.dev.portErrors = some ((lookupBy port s.dev.portErrors).getD 0 + 1)) ∧
  (∀ (s : State) (o : Op) (t0 : Nat) (ws : List WireWord), s.op? o.id = some o → o.waitSince = some t0 →
    let got := ws.map WireWord.toP
    let u := s.sample (dieOf o.home) 10 (s.time - t0)
    let late := t0 + 50000 ≤ s.time ∨ (o.body.isCopy = false ∧ o.unroutable = true)
    (t0 + 50000 ≤ s.time → exec (.remoteResponse o.id ws) s = .next s) ∧
    (s.time < t0 + 50000 →
      (o.body.isCopy = true →
        (o.copyOut = true → exec (.remoteResponse o.id ws) s = .next (u.endCopy o o.copySem)) ∧
        (o.copyOut = false → exec (.remoteResponse o.id ws) s = .next (u.runCopy { o with waitSince := none } got))) ∧
      (o.body.isCopy = false → exec (.remoteResponse o.id ws) s =
        .next (if o.body.isRemote && u.canPerform o then u.answered o (!o.cut.isEmpty) got else s))) ∧
    (late → s.canPerform o = true →
      (o.body.isCopy = false → o.body.isRemote = true → exec (.remoteTimeout o.id) s = .next (s.answered o true [])) ∧
      (o.body.isCopy = true → o.copyOut = true → exec (.remoteTimeout o.id) s = .next ((s.endCopy o o.copySem).loseAccess o)) ∧
      ∀ src dst n done sem wrote, o.body = .copy src dst n done sem wrote → o.copyOut = false → exec (.remoteTimeout o.id) s =
        .next (s.runCopy { o with waitSince := none } (List.replicate ((n - done) / 4) { mark := true }))) ∧
    (¬late ∨ s.canPerform o = false → exec (.remoteTimeout o.id) s = .next s)) ∧
  ∀ s : State, s.dev.powered = true →
    (∀ (q : PeerReq) (n : Nat), n ∈ [1, 2, 4, 8, 16] → q.pa % n = 0 → q.pa + n ≤ hbmPages * pageBytes →
      (q.kind = .read n → exec (.peerRequest q) s = .next (s.respond q.src q.tag (s.peerWords q.pa n))) ∧
      (∀ data, q.kind = .write n data →
        exec (.peerRequest q) s = .next ((s.writeMem none (peerPuts q.pa n data)).respond q.src q.tag [])) ∧
      ∀ op sg b c, n = 4 ∨ n = 8 → q.kind = .atomic op (8 * n) sg b c →
        let f := fun old => atomNew op (8 * n) sg old b.toNat c.toNat
        let (ws, t) := s.peerAtomic q.pa (8 * n) f
        exec (.peerRequest q) s = .next (t.respond q.src q.tag ws)) ∧
    (∀ (q : PeerReq) (n : Nat), (q.kind = .read n ∨ ∃ d, q.kind = .write n d) → peerOk q.pa n = false →
      exec (.peerRequest q) s = .next (s.send (.unsupported q.src q.tag))) ∧
    (∀ dst tag ws, dst / 1024 = s.dev.pkg / 1024 → s.respond dst tag ws = s.send (.response dst dst tag ws)) ∧
    (∀ r : RelayMsg, r.dst ≠ s.dev.pkg → r.src / 1024 ≠ r.dst / 1024 →
      ((∃ p < 24, s.portUp p = true ∧ (s.dev.rmap.portEnt p).relay = true) → exec (.relayForward r) s = .next (s.send (.relay r))) ∧
      ((∀ p < 24, s.portUp p = false ∨ (s.dev.rmap.portEnt p).relay = false) → exec (.relayForward r) s = .next s)) ∧
    (∀ fr : Frame, s.dev.rmap.lanes ≠ 0 →
      (frameWhole fr = true → fr.seq = s.dev.rxSeq → exec (.utenaurnFrame fr) s =
        .next ((match fr.again with | some n => s.resendFrom n | none => s).updDev (fun d => { d with
          rxSeq := (d.rxSeq + 1) % 2 ^ 32, inbox := d.inbox ++ fr.msgs }))) ∧
      (frameWhole fr = false ∨ fr.seq ≠ s.dev.rxSeq → exec (.utenaurnFrame fr) s = .next (s.emit (.resend s.dev.rxSeq)))) ∧
    ∀ lane up, lane ≤ 1 → s.dev.rmap.lanes.testBit lane = !up → s.dev.rmap.lanes ≤ 3 →
      ∃ t, exec (.utenaurnLaneDown lane up) s = .next t ∧
        t.dev.rmap.lanes.testBit lane = up ∧ t.dev.rmap.lanes.testBit (1 - lane) = s.dev.rmap.lanes.testBit (1 - lane) ∧
        (up = true → t.dev.heldOut = []) ∧ (s.dev.rmap.published = true → t.dev.rmap.version = s.dev.rmap.version + 1 ∧
          t.dev.rmap.cause = 0x11 ∧ t.dev.rmap.detail = lane)

/-- The Farrier, the Groom and the deadlines (R8, R39, R47 to R49, R51 to R56, R83 to R85, R307). A lane swap, a
core's retirement and a unit's retirement wait until the core or the unit is out of use, then change the map and the
durable copy; counts leave their window; scores halve; the Groom zeroes the next page. A lost stack or die changes the
map, and a die's gangs are killed. A version not acknowledged in time makes its context overdue once, and in the end
forces its regions out; a checkpoint order out of time forces regions out or fails, and at rest becomes a valid image.
The model's choices in it stand in log entries 19, 25, 35, 43, 92. -/
def Obligations.FarrierEvents : Prop :=
  (∀ (s : State) (core : Nat),
    let kept (t : State) : Prop := t.mem = s.mem ∧ t.waves = s.waves
    let shown (t : State) (cause detail : Nat) : Prop := s.dev.rmap.published = true →
      t.dev.rmap.version = s.dev.rmap.version + 1 ∧ t.dev.rmap.cause = cause ∧ t.dev.rmap.detail = detail
    let durable (t : State) : Prop := s.dev.durable.valid = true → t.dev.durable = t.dev.rmap.retirement
    let ent := s.dev.rmap.coreEnt core
    (∀ group lane,
      (s.heldFor core (some (group, lane)) = false → s.laneDue core group lane = true → s.spareFree core group lane = true →
        s.canHold core = true → ∃ t, exec (.farrierLaneSwap core group lane) s = .next t ∧ kept t ∧ shown t 4 core ∧
          t.dev.rmap.coreEnt core = { ent with st := 3 } ∧ t.heldFor core (some (group, lane)) = true) ∧
      (s.heldFor core (some (group, lane)) = true → s.coreEmpty core = false → exec (.farrierLaneSwap core group lane) s = .next s) ∧
      (s.heldFor core (some (group, lane)) = true → s.coreEmpty core = true →
        ∃ t, exec (.farrierLaneSwap core group lane) s = .next t ∧ kept t ∧ shown t 5 core ∧ durable t ∧
          t.dev.rmap.coreEnt core = { ent with st := 1, lanes := putAt ent.lanes group lane } ∧
          t.errorCount (.lane core group lane) = 0 ∧ ∀ h ∈ t.dev.held, h.1 ≠ core)) ∧
    (s.heldFor core none = false → s.coreDue core = true → s.canHold core = true →
      ∃ t, exec (.farrierCoreRetire core) s = .next t ∧ kept t ∧ shown t 4 core ∧
        t.dev.rmap.coreEnt core = { ent with st := 3 } ∧ t.heldFor core none = true) ∧
    (s.heldFor core none = true → s.coreEmpty core = true → ∃ t, exec (.farrierCoreRetire core) s = .next t ∧ durable t ∧
      (t.dev.rmap.coreEnt core).st = 4 ∧ shown t 6 core ∧ (∀ h ∈ t.dev.held, h.1 ≠ core) ∧ t.errorCount (.core core) = 0) ∧
    ∀ u, s.unitDue u = true → s.coreGoes u = false → s.unitBusy u = false → (unitCore u).all s.errorSettled = true →
      (∀ b, u = .bank core b → b < 32 → ent.banksOut.getLsbD b = false →
        ∃ t, exec (.farrierUnitRetire u) s = .next t ∧ kept t ∧ shown t 7 core ∧ durable t ∧ t.errorCount u = 0 ∧
          (t.dev.rmap.coreEnt core).banksOut.getLsbD b = true) ∧
      (∀ p q, u = .quarter core p q → p < 4 → q < 4 → ent.regsOut.getLsbD (4 * p + q) = false →
        ∃ t, exec (.farrierUnitRetire u) s = .next t ∧ kept t ∧ shown t 8 core ∧ durable t ∧ t.errorCount u = 0 ∧
          (t.dev.rmap.coreEnt core).regsOut.getLsbD (4 * p + q) = true) ∧
      ∀ d sl w, u = .way d sl w → w < 12 → (s.dev.rmap.sliceEnt (64 * d + sl)).homeOnly = false →
        (s.dev.rmap.sliceEnt (64 * d + sl)).ways.getLsbD w = false →
        ∃ t, exec (.farrierUnitRetire u) s = .next t ∧ kept t ∧ durable t ∧ t.errorCount u = 0 ∧
          shown t (if 4 ≤ countBits (s.dev.rmap.sliceEnt (64 * d + sl)).ways.toNat 12 then 0x0A else 0x09) (64 * d + sl) ∧
          (if 4 ≤ countBits (s.dev.rmap.sliceEnt (64 * d + sl)).ways.toNat 12 then
            (t.dev.rmap.sliceEnt (64 * d + sl)).homeOnly = true
          else (t.dev.rmap.sliceEnt (64 * d + sl)).ways.getLsbD w = true)) ∧
  (∀ (s : State) (u : HwUnit), ∃ t, exec (.errorWindowExpiry u) s = .next t ∧ t = { s with dev := { s.dev with errors := t.dev.errors } } ∧
    ∀ e, e ∈ t.dev.errors ↔ e ∈ s.dev.errors ∧ (e.1 = u → s.time < e.2.2 + 3600000000000)) ∧
  (∀ s : State,
    (s.time < s.dev.lastHalve + 86400000000000 → exec .rowScoreHalve s = .next s) ∧
    (s.dev.lastHalve + 86400000000000 ≤ s.time → ∃ t, exec .rowScoreHalve s = .next t ∧
      t = { s with dev := { s.dev with lastHalve := s.time, rowScores := t.dev.rowScores } } ∧
      ∀ p n, (p, n) ∈ t.dev.rowScores ↔ 0 < n ∧ ∃ k, (p, k) ∈ s.dev.rowScores ∧ n = k / 2) ∧
    (∀ rb, s.pool.clearing = [] → exec (.groomClearPage rb) s = .next s) ∧
    (∀ rb page rest, s.pool.clearing = page :: rest → ∃ t, exec (.groomClearPage rb) s = .next t ∧ t.pool.clearing = rest ∧
      (s.memWf → ∀ a, page * pageBytes ≤ a → a < (page + 1) * pageBytes → readByte t.mem a = 0) ∧
      (rb = .failing → page ∈ t.pool.withheld)) ∧
    (∀ st, s.dev.powered = true → st < 12 → (s.stackEnt st).st ≠ 4 → ∃ t, exec (.stackLost st) s = .next t ∧
      (t.stackEnt st).st = 4 ∧ t.mem = s.mem ∧ (s.dev.rmap.published = true →
        t.dev.rmap.version = s.dev.rmap.version + 1 ∧ t.dev.rmap.cause = 0x0E ∧ t.dev.rmap.detail = st)) ∧
    ∀ die, s.dev.powered = true → die ≤ 3 → die ∉ s.dev.rmap.diesLost → ∃ t, exec (.dieLost die) s = .next t ∧
      die ∈ t.dev.rmap.diesLost ∧ (s.dev.rmap.published = true → t.dev.rmap.version = s.dev.rmap.version + 1 ∧
        t.dev.rmap.cause = 0x15 ∧ t.dev.rmap.detail = die) ∧ (∀ r ∈ t.reuse, r.die ≠ die) ∧
      ∀ g ∈ t.gangs, g.st.live = true → g.heldCores.any (fun c => decide (c < bankBase) && dieOf c == die) = true →
        g.doom.any (fun d => d.source == 0x0A && d.kill) = true) ∧
  (∀ (s : State) (c : Ctx), s.ctx? c.id = some c →
    (c.overdue = false → c.late s.time = true → exec (.mapAckDeadline c.id) s =
      .next ((s.updCtx c.id (fun c => { c with overdue := true })).event c.id 1 0x0F noGang c.lowestOwed)) ∧
    (c.overdue = true ∨ c.late s.time = false → exec (.mapAckDeadline c.id) s = .next s) ∧
    ∀ g, s.gang? g.id = some g → g.ctx = c.id → c.overdue = true → g.st.holds = true → g.region.replayable = true →
      (∃ o ∈ c.owed, o.deadline + 2 * o.grace * 1000000 ≤ s.time) →
      ∃ t, exec (.mapStaleForcedRollback g.id) s = .next t ∧ t = { s with gangs := t.gangs } ∧
        t.gang? g.id = some { g with region := { g.region with forced := true } }) ∧
  ∀ (s : State) (o : CkptOrder), s.dev.ckpt = some o →
    let sealed (i : Image) : Prop := i.complete = true ∧ i.magic = imageMagic ∧ i.count = (i.pages.filter (fun p => p.held)).length ∧
      i.digest = sha512 (heldBytes i.pages)
    (let inside (g : Gang) : Prop := o.names g.ctx = true ∧ (g.st = .placed ∨ g.st = .leaving) ∧ g.region.inside = true;
      (s.time < o.startedAt + o.limit * 1000000 → exec .ckptQuiesceTimeout s = .next s) ∧
      (o.startedAt + o.limit * 1000000 ≤ s.time →
        ((∃ g ∈ s.gangs, inside g ∧ g.region.replayable = false) →
          exec .ckptQuiesceTimeout s = .next (s.complete o.msgCtx o.tag 0x0A 0 0).endCkpt) ∧
        ((∀ g ∈ s.gangs, inside g → g.region.replayable = true) → ∃ t, exec .ckptQuiesceTimeout s = .next t ∧
          t = { s with gangs := t.gangs } ∧ t.gangs.length = s.gangs.length ∧
          ∀ g ∈ s.gangs, (inside g → { g with region := { g.region with forced := true } } ∈ t.gangs) ∧ (¬inside g → g ∈ t.gangs)))) ∧
    (s.quiesced o = false → exec .ckptWriteDone s = .next s) ∧
    (s.quiesced o = true → o.kind = 0 → ∃ t i, exec .ckptWriteDone s = .next t ∧ t.dev.ckpt = none ∧ i ∈ t.dev.images ∧
      i.seq = s.dev.nextCkpt ∧ i.kind = 0 ∧ i.mask = o.mask ∧ sealed i ∧ i.slot = s.dev.fullSlot ∧
      i.version = s.dev.rmap.version ∧ i.ctxs = s.ctxs.filter (fun c => o.names c.id) ∧
      i.gangs = s.gangs.filter (fun g => o.names g.ctx) ∧ i.waves = s.waves.filter (fun w => o.names w.ctx) ∧
      (∀ x ∈ t.dev.images, x ≠ i → x ∈ s.dev.images ∧ x.kind = 0 ∧ x.slot ≠ i.slot) ∧ t.dev.nextCkpt = s.dev.nextCkpt + 1) ∧
    (s.quiesced o = true → o.kind ≠ 0 → s.dev.baseFor o.mask = none ∨ s.dev.deltaSlot = none →
      ∃ u : State, exec .ckptWriteDone s = .next (u.complete o.msgCtx o.tag 7 0 0).endCkpt ∧ u.dev.images = s.dev.images) ∧
    ∀ b slot, s.quiesced o = true → o.kind ≠ 0 → s.dev.baseFor o.mask = some b → s.dev.deltaSlot = some slot →
      ∃ t, exec .ckptWriteDone s = .next t ∧ t.dev.ckpt = none ∧ (t.dev.images = s.dev.images ∨ ∃ i,
        t.dev.images = s.dev.images ++ [i] ∧ i.seq = s.dev.nextCkpt ∧ i.kind = o.kind ∧ i.base = b.seq ∧ i.slot = slot ∧
        i.mask = o.mask ∧ sealed i ∧ i.waves = s.waves.filter (fun w => o.names w.ctx))

/-! ## Encoding, reset and the step -/

/-- Words of the spec's examples and the instructions they stand for (R339, R346): one-word, two-word and three-word
forms of seven families, and a message (R61). -/
def Obligations.DecodedWords : Prop :=
  let f2 (d a b : Byte) (pidx : BitVec 3) (pneg : Bool) (la : BitVec 4) (ty : BitVec 3) (mod : BitVec 9) (c : Byte) : F2 :=
    { d := d, a := a, b := b, pidx := pidx, pneg := pneg, la := la, ty := ty, mod := mod, c := c }
  decodeWords 0x00090203 0 0 = .ok (.iaddI32 { d := 9, a := 2, b := 3 }) ∧
  decodeWords 0x10030300 0x000430FB 0 = .ok (.iadd (f2 3 3 0 0 false 0 2 0x030 0xFB)) ∧
  decodeWords 0x18060000 0x100C1005 0 = .ok (.shr (f2 6 0 0 0 false 0 6 0x010 5)) ∧
  decodeWords 0x30000000 0x04002814 0x18 = .ok (.bra { w := f2 0 0 0 2 false 0 0 0x028 20, imm := 0x18 }) ∧
  decodeWords 0x43040102 0x00018003 0 = .ok (.fma (f2 4 1 2 0 false 0 0 0x180 3)) ∧
  decodeWords 0x700108F6 0x00010000 0 = .ok (.mma (f2 1 8 0xF6 0 false 0 0 0x100 0)) ∧
  decodeWords 0x8008F400 0x00240000 0x40 = .ok (.ldG { w := f2 8 0xF4 0 0 false 2 2 0 0, imm := 0x40 }) ∧
  decodeWords 0xA5000000 0x20000000 0 = .ok (.barSync (f2 0 0 0 0 false 0 0 0 0)) ∧
  decodeWords 0xC01F14F0 0x02000000 0 = .ok (.rayCast (f2 31 0x14 0xF0 1 false 0 0 0 0)) ∧
  decodeWords 0xE20C0000 0x0000000A 0 = .ok (.srGet (f2 12 0 0 0 false 0 0 0 10)) ∧
  decodeBytes [0x03, 0x02, 0x09, 0x00, 0x7F] = .ok (.iaddI32 { d := 9, a := 2, b := 3 }, [0x7F]) ∧
  decodeMsg [0x07, 0x05, 0, 0, 2, 0, 0, 0, 0x11, 0, 0, 0, 0, 0, 0, 0] =
    .ok (.ctxHalt { ctx := 5, len := 0, seq := 2, tag := 0x11, body := [] })

/-- Decoding and encoding agree, for every instruction of Glezu with every field at every value and for every
well-formed command (R3, R61, R68, R339, R346): what is encoded decodes to itself, and what decodes was encoded so. -/
def Obligations.EncodeDecode : Prop :=
  (∀ (i : Instr) (rest : List Byte), encodeWords i ≠ [] → decodeBytes (encode i ++ rest) = .ok (i, rest)) ∧
  (∀ (bs rest : List Byte) (i : Instr), decodeBytes bs = .ok (i, rest) → encodeWords i ≠ [] ∧ bs = encode i ++ rest) ∧
  (∀ i : Instr, WellFormed i = true → encodeMsg i ≠ [] → decodeMsg (encodeMsg i) = .ok i) ∧
  ∀ (bs : List Byte) (i : Instr), decodeMsg bs = .ok i → encodeMsg i = bs

/-- What reset leaves (R10, R36, R87): the timestamp at 0, the map published at version 1, no context, launch, gang,
wave or operation, nothing received or sent, the memory canonical. The published map's running firmware and the
clock's 2,700 MHz are the model's choice (log entry 3). -/
def Obligations.ResetState : Prop :=
  let s := State.reset
  s.memWf ∧ s.time = 0 ∧ s.dev.powered = true ∧ s.dev.rmap.published = true ∧ s.dev.rmap.version = 1 ∧
    s.dev.rmap.mhz = 2700 ∧ s.ctxs = [] ∧ s.launches = [] ∧ s.gangs = [] ∧ s.waves = [] ∧ s.ops = [] ∧ s.dev.inbox = [] ∧
    s.dev.out = [] ∧ s.dev.devSeq = 0 ∧ s.poison = [] ∧ s.issue = none

/-- A step runs the decoded instruction. The wave the partition picks issues at its entry: when the words at the PC
are those of an instruction that is ready, the step is that instruction's exec in the state where the entry stands
there and the instruction reads through the reuse latch, then what an issue leaves beside its effect, the issue slot left
empty. A message received is decoded and executed, or answered or dropped; an event is executed, events of one cycle in the
order of the causes they give; with nothing to do time passes. What follows every step is a collective's arrival by the end of
its last wave. The model's choices in it stand in log entries 1, 103. -/
def Obligations.StepRunsDecoded : Prop :=
  ∀ s : State,
    let after (o : Host.Outcome State Fault Refusal) : Host.Outcome State Fault Refusal :=
      match o with
      | .next t => .next t.lateRanks
      | .fault x => .fault x
      | .refused x => .refused x
    let issues (a : State) (core partition : Nat) (residue : Mask) (late : List Nat) : Prop :=
      let b := a.unforced core partition
      (b.pickWave core partition late = none → step s = .next b.lateRanks) ∧
      ∀ (w : Wave) (e : Entry) (c : Clause) (cx : Ctx) (i : Instr) (env : Env),
        b.pickWave core partition late = some w → w.choose = some e → e.clause = some c → b.ctx? w.ctx = some cx →
        encodeWords i ≠ [] →
        (∀ k < (encodeWords i).length,
          b.fetchWord cx (e.pc + 4 * k) = .word { val := (encodeWords i).getD k 0, mark := false }) →
        let is : Issue :=
          { wave := w.id, pc := e.pc, depth := e.depth, next := e.pc + 4 * (encodeWords i).length
            last := decide (c.left ≤ 1), cls := c.cls, w0 := (encodeWords i).getD 0 0, w1 := (encodeWords i).getD 1 0 }
        (b.standing w.id e e is).env? i.form.pidx i.form.pneg = some env → b.formReady env i.form = true →
        let u := ((b.standing w.id e e { is with residue := residue }).chosen core partition w (b.yields w e is)).throughLatch w.id
          (guardMask w e.mask i.form.pidx i.form.pneg) i.form
        (∀ t, exec i u = .next t →
          step s = .next ({ t.afterIssue ((u.wave? w.id).getD w) i.form with issue := none } : State).lateRanks) ∧
        (∀ x, exec i u = .fault x → step s = .fault x) ∧ ∀ x, exec i u = .refused x → step s = .refused x
    let takes (b : State) (n : Nat) : Prop :=
      ∀ bs, b.dev.inbox[n]? = some bs → eligible b.dev.inbox n = true →
        let u : State := { b with dev := { b.dev with inbox := b.dev.inbox.eraseIdx n } }
        (∀ i, decodeMsg bs = .ok i → step s = after (exec i u)) ∧
        (∀ ty, decodeMsg bs = .error (.unknownCommand ty) → step s = .next (u.unknownCommand ty (msgOf bs)).lateRanks) ∧
        ∀ x, decodeMsg bs = .error x → (∀ ty, x ≠ .unknownCommand ty) → step s = .next u.lateRanks
    (∀ wait core partition residue late rest, s.agenda = .issue wait core partition residue late :: rest →
      issues { s.pass wait with agenda := rest } core partition residue late) ∧
    (∀ wait n rest, s.agenda = .command wait n :: rest → takes { s.pass wait with agenda := rest } n) ∧
    (∀ wait i rest, s.agenda = .event wait i :: rest → i.isEvent = true →
      step s = after (exec i { s.pass wait with agenda := rest })) ∧
    (∀ wait is rest, s.agenda = .together wait is :: rest →
      let u : State := { s.pass wait with agenda := rest }
      let js := u.sameCycle is
      step s = .next ({ u with agenda := js.map (fun i => Move.event 0 i) ++ rest } : State).lateRanks ∧ js.Perm is ∧
      js.Pairwise (fun a b => ∀ x y, exec a u = .next x → exec b u = .next y → x.dev.rmap.version ≠ u.dev.rmap.version →
        y.dev.rmap.version ≠ u.dev.rmap.version → x.dev.rmap.cause ≤ y.dev.rmap.cause)) ∧
    (∀ wait u rest, s.agenda = .upset wait u :: rest →
      step s = .next (State.upset { s.pass wait with agenda := rest } u).lateRanks) ∧
    (s.agenda = [] → s.dev.inbox ≠ [] → takes s 0) ∧
    (s.agenda = [] → s.dev.inbox = [] →
      (s.turnTo = none → step s = .next (s.pass 1).lateRanks) ∧
      ∀ core partition, s.turnTo = some (core, partition) →
        issues { s with turn := 4 * core + partition } core partition 0 []) ∧
    ((∀ c ∈ s.cols, c.arrivedAt.isSome = true ∨ c.status.isSome = true ∨ s.allIssued c = false) → s.lateRanks = s)

/-- The memory's canonical form is kept by every step (an unlisted byte reads 0: the model's own form, log entry
4). -/
def Obligations.StepKeepsMemory : Prop := ∀ s t : State, s.memWf → step s = .next t → t.memWf

/-- The machine never stops: every step answers a next state (the model's own rule: its one fault is an instruction
without an issue, and nothing is refused). -/
def Obligations.StepAnswers : Prop := ∀ s : State, ∃ t, step s = .next t
end

