-- ==== Sys2Proof/Laws/Lists.lean ====
section
/-! SUPPORT. Laws of the plain helpers: replacing in a list, lane masks, the canonical list of cells. -/

namespace Sys2Proof.Machine

/-! ## putAt -/

@[simp] theorem putAt_length {α : Type} (l : List α) (i : Nat) (a : α) : (putAt l i a).length = l.length := by
  induction l generalizing i with
  | nil => rfl
  | cons h t ih => cases i <;> simp [putAt, ih]

theorem putAt_getD {α : Type} (d : α) (l : List α) (i j : Nat) (a : α) :
    (putAt l i a).getD j d = if i = j ∧ i < l.length then a else l.getD j d := by
  induction l generalizing i j with
  | nil => simp [putAt]
  | cons h t ih =>
    cases i with
    | zero => cases j <;> simp [putAt]
    | succ i =>
      cases j with
      | zero => simp [putAt]
      | succ j => simpa [putAt] using ih i j

theorem putAt_getD_self {α : Type} (d : α) {l : List α} {i : Nat} (h : i < l.length) (a : α) :
    (putAt l i a).getD i d = a := by rw [putAt_getD, if_pos ⟨rfl, h⟩]

theorem putAt_getD_ne {α : Type} (d : α) (l : List α) {i j : Nat} (h : i ≠ j) (a : α) :
    (putAt l i a).getD j d = l.getD j d := by
  rw [putAt_getD, if_neg fun e => h e.1]

/-! ## Lanes -/

theorem laneList_eq : laneList = List.range 32 := by decide

@[simp] theorem mem_laneList {l : Nat} : l ∈ laneList ↔ l < 32 := by simp [laneList_eq]

theorem laneList_nodup : laneList.Nodup := by decide

@[simp] theorem mem_lanesOf {m : Mask} {l : Nat} : l ∈ lanesOf m ↔ hasLane m l = true := by
  simp only [lanesOf, List.mem_filter, mem_laneList, and_iff_right_iff_imp]
  intro h
  by_contra hl
  simp [hasLane, BitVec.getLsbD_of_ge m l (by omega)] at h

theorem lanesOf_nodup (m : Mask) : (lanesOf m).Nodup := laneList_nodup.filter _

theorem hasLane_lt {m : Mask} {l : Nat} (h : hasLane m l = true) : l < 32 := by
  by_contra hl
  simp [hasLane, BitVec.getLsbD_of_ge m l (by omega)] at h

theorem hasLane_laneBit {k l : Nat} (hk : k < 32) : hasLane (laneBit k) l = decide (k = l) := by
  simp only [hasLane, laneBit, BitVec.getLsbD_ofNat, Nat.testBit_two_pow]
  by_cases h : k = l <;> simp [h]
  omega

theorem hasLane_maskOf {ls : List Nat} (h : ∀ k ∈ ls, k < 32) (l : Nat) : hasLane (maskOf ls) l = decide (l ∈ ls) := by
  have go : ∀ (ls : List Nat) (m : Mask), (∀ k ∈ ls, k < 32) →
      hasLane (ls.foldl (fun m l => m ||| laneBit l) m) l = (hasLane m l || decide (l ∈ ls)) := by
    intro ls
    induction ls with
    | nil => simp
    | cons k t ih =>
      intro m hk
      rw [List.foldl_cons, ih _ fun j hj => hk j (.tail _ hj)]
      have : hasLane (m ||| laneBit k) l = (hasLane m l || hasLane (laneBit k) l) := by simp [hasLane]
      rw [this, hasLane_laneBit (hk k (.head _))]
      by_cases h1 : k = l
      · simp [h1]
      · have : l ≠ k := fun e => h1 e.symm
        simp [h1, this]
  simpa [maskOf, hasLane] using go ls 0 h

theorem hasLane_maskBy (p : Nat → Bool) {l : Nat} (h : l < 32) : hasLane (maskBy p) l = p l := by
  rw [maskBy, hasLane_maskOf (fun k hk => by simpa using (List.mem_filter.mp hk).1)]
  simp [h]

/-! ## The canonical list of cells -/

theorem cellsWf_iff (m : List Host.Cell) :
    cellsWf m = true ↔ (∀ c ∈ m, c.2 ≠ 0) ∧ m.Pairwise (fun c d => c.1 < d.1) := by
  induction m with
  | nil => simp [cellsWf]
  | cons c t ih =>
    cases t with
    | nil => simp [cellsWf]
    | cons d u =>
      simp only [cellsWf, Bool.and_eq_true, decide_eq_true_eq, bne_iff_ne, ih, List.mem_cons, forall_eq_or_imp,
        List.pairwise_cons]
      constructor
      · rintro ⟨⟨h1, h2⟩, ⟨h3, h4⟩, h5, h6⟩
        exact ⟨⟨h1, h3, h4⟩, ⟨h2, fun x hx => lt_trans h2 (h5 x hx)⟩, h5, h6⟩
      · rintro ⟨⟨h1, h3, h4⟩, ⟨h2, -⟩, h5, h6⟩
        exact ⟨⟨h1, h2⟩, ⟨h3, h4⟩, h5, h6⟩

/-- Below its first address a list reads 0. -/
theorem readByte_below {m : List Host.Cell} {b : Nat} (h : ∀ x ∈ m, b < x.1) : readByte m b = 0 := by
  cases m with
  | nil => rfl
  | cons x u =>
    have := h x (.head _)
    rw [readByte, if_neg (by omega), if_pos this]

/-- Reading a written byte, and every other. -/
theorem readByte_writeByte {m : List Host.Cell} (hm : cellsWf m = true) (a b : Nat) (v : Byte) :
    readByte (writeByte m a v) b = if b = a then v else readByte m b := by
  induction m with
  | nil =>
    rw [writeByte]
    by_cases hv : v = 0
    · rw [if_pos hv, hv]; simp [readByte]
    · rw [if_neg hv]; simp [readByte]
  | cons c t ih =>
    have hw := (cellsWf_iff _).mp hm
    obtain ⟨hc, ht⟩ := List.pairwise_cons.mp hw.2
    have hmt : cellsWf t = true := (cellsWf_iff _).mpr ⟨fun x hx => hw.1 x (.tail _ hx), ht⟩
    have low : a < c.1 → ∀ x ∈ c :: t, a < x.1 := fun h x hx => by
      rcases List.mem_cons.mp hx with e | e
      · rw [e]; exact h
      · exact lt_trans h (hc x e)
    rcases lt_trichotomy a c.1 with h | h | h
    · rw [writeByte, if_pos h]
      by_cases hv : v = 0
      · rw [if_pos hv]
        by_cases hb : b = a
        · rw [if_pos hb, hb, hv, readByte_below (low h)]
        · rw [if_neg hb]
      · rw [if_neg hv, readByte]
        by_cases hb : b = a
        · rw [if_pos hb, if_pos hb]
        · rw [if_neg hb, if_neg hb]
          by_cases hl : b < a
          · rw [if_pos hl, readByte_below fun x hx => lt_trans hl (low h x hx)]
          · rw [if_neg hl]
    · rw [writeByte, if_neg (by omega), if_pos h]
      by_cases hv : v = 0
      · rw [if_pos hv]
        by_cases hb : b = a
        · rw [if_pos hb, hb, hv, h, readByte_below hc]
        · rw [if_neg hb, readByte, if_neg (by omega)]
          by_cases hl : b < c.1
          · rw [if_pos hl, readByte_below fun x hx => lt_trans hl (hc x hx)]
          · rw [if_neg hl]
      · rw [if_neg hv, readByte, readByte]
        by_cases hb : b = a
        · rw [if_pos hb, if_pos hb]
        · rw [if_neg hb, if_neg hb, if_neg (by omega : b ≠ c.1), h]
    · rw [writeByte, if_neg (by omega), if_neg (by omega), readByte, readByte, ih hmt]
      by_cases hb : b = a
      · rw [if_pos hb, if_neg (by omega), if_neg (by omega), if_pos hb]
      · rw [if_neg hb, if_neg hb]

theorem mem_writeByte {m : List Host.Cell} {a : Nat} {v : Byte} {c : Host.Cell} (h : c ∈ writeByte m a v) :
    c ∈ m ∨ (c = (a, v) ∧ v ≠ 0) := by
  induction m with
  | nil =>
    simp only [writeByte] at h
    split at h
    · simp at h
    · next hv => simp only [List.mem_singleton] at h; exact .inr ⟨h, hv⟩
  | cons d t ih =>
    simp only [writeByte] at h
    split at h
    · split at h
      · exact .inl h
      · next hv => rcases List.mem_cons.mp h with e | e; exacts [.inr ⟨e, hv⟩, .inl e]
    · split at h
      · split at h
        · exact .inl (.tail _ h)
        · next hv => rcases List.mem_cons.mp h with e | e; exacts [.inr ⟨e, hv⟩, .inl (.tail _ e)]
      · rcases List.mem_cons.mp h with e | e
        · exact .inl (e ▸ .head _)
        · rcases ih e with e | e; exacts [.inl (.tail _ e), .inr e]

/-- A write keeps the canonical form. -/
theorem writeByte_wf {m : List Host.Cell} (hm : cellsWf m = true) (a : Nat) (v : Byte) :
    cellsWf (writeByte m a v) = true := by
  rw [cellsWf_iff] at hm ⊢
  refine ⟨fun c hc => ?_, ?_⟩
  · rcases mem_writeByte hc with h | ⟨h, hv⟩
    · exact hm.1 c h
    · rw [h]; exact hv
  · obtain ⟨-, hp⟩ := hm
    induction m with
    | nil => simp only [writeByte]; split <;> simp
    | cons d t ih =>
      obtain ⟨hd, ht⟩ := List.pairwise_cons.mp hp
      simp only [writeByte]
      split
      · next h =>
        split
        · exact hp
        · refine List.pairwise_cons.mpr ⟨fun x hx => ?_, hp⟩
          rcases List.mem_cons.mp hx with e | e
          · rw [e]; exact h
          · exact lt_trans h (hd x e)
      · next h =>
        split
        · next he =>
          split
          · exact ht
          · exact List.pairwise_cons.mpr ⟨fun x hx => he ▸ hd x hx, ht⟩
        · next he =>
          refine List.pairwise_cons.mpr ⟨fun x hx => ?_, ih ht⟩
          rcases mem_writeByte hx with e | ⟨e, -⟩
          · exact hd x e
          · rw [e]; simp only; omega

theorem writeBytes_wf {m : List Host.Cell} (hm : cellsWf m = true) (a : Nat) (bs : List Byte) :
    cellsWf (writeBytes m a bs) = true := by
  induction bs generalizing m a with
  | nil => exact hm
  | cons b t ih => exact ih (writeByte_wf hm a b) (a + 1)

theorem filter_wf {m : List Host.Cell} (hm : cellsWf m = true) (p : Host.Cell → Bool) : cellsWf (m.filter p) = true := by
  rw [cellsWf_iff] at hm ⊢
  exact ⟨fun c hc => hm.1 c (List.mem_filter.mp hc).1, hm.2.filter _⟩

theorem clearBytes_wf {m : List Host.Cell} (hm : cellsWf m = true) (a n : Nat) : cellsWf (clearBytes m a n) = true :=
  filter_wf hm _

theorem layCells_wf {m : List Host.Cell} (hm : cellsWf m = true) (a : Nat) (cells : List Host.Cell) :
    cellsWf (layCells m a cells) = true := by
  unfold layCells
  induction cells generalizing m with
  | nil => exact hm
  | cons c t ih => exact ih (writeByte_wf hm _ _)

theorem cutCells_wf {m : List Host.Cell} (hm : cellsWf m = true) (a n : Nat) : cellsWf (cutCells m a n) = true := by
  have hf := (cellsWf_iff _).mp (filter_wf hm (fun c => a ≤ c.1 && c.1 < a + n))
  rw [cutCells, cellsWf_iff]
  refine ⟨fun c hc => ?_, ?_⟩
  · obtain ⟨d, hd, rfl⟩ := List.mem_map.mp hc
    exact hf.1 d hd
  · rw [List.pairwise_map]
    refine List.Pairwise.imp_of_mem (fun {x y} hx _ h => ?_) hf.2
    have h1 := (List.mem_filter.mp hx).2
    simp only [Bool.and_eq_true, decide_eq_true_eq] at h1
    simp only
    omega

end Sys2Proof.Machine
end

