-- ==== Sys2Proof/Laws/State.lean ====
section
/-! SUPPORT. What each update of the state leaves alone: one lemma per field per update. -/

namespace Sys2Proof.Machine

/-! ## State.updWave -/

@[simp] theorem State.updWave_time (s : State) (i : Nat) (f : Wave → Wave) : (s.updWave i f).time = s.time := rfl
@[simp] theorem State.updWave_dev (s : State) (i : Nat) (f : Wave → Wave) : (s.updWave i f).dev = s.dev := rfl
@[simp] theorem State.updWave_mem (s : State) (i : Nat) (f : Wave → Wave) : (s.updWave i f).mem = s.mem := rfl
@[simp] theorem State.updWave_poison (s : State) (i : Nat) (f : Wave → Wave) : (s.updWave i f).poison = s.poison := rfl
@[simp] theorem State.updWave_dirty (s : State) (i : Nat) (f : Wave → Wave) : (s.updWave i f).dirty = s.dirty := rfl
@[simp] theorem State.updWave_directory (s : State) (i : Nat) (f : Wave → Wave) : (s.updWave i f).directory = s.directory := rfl
@[simp] theorem State.updWave_pool (s : State) (i : Nat) (f : Wave → Wave) : (s.updWave i f).pool = s.pool := rfl
@[simp] theorem State.updWave_ctxs (s : State) (i : Nat) (f : Wave → Wave) : (s.updWave i f).ctxs = s.ctxs := rfl
@[simp] theorem State.updWave_launches (s : State) (i : Nat) (f : Wave → Wave) : (s.updWave i f).launches = s.launches := rfl
@[simp] theorem State.updWave_gangs (s : State) (i : Nat) (f : Wave → Wave) : (s.updWave i f).gangs = s.gangs := rfl
@[simp] theorem State.updWave_cores (s : State) (i : Nat) (f : Wave → Wave) : (s.updWave i f).cores = s.cores := rfl
@[simp] theorem State.updWave_ctxCores (s : State) (i : Nat) (f : Wave → Wave) : (s.updWave i f).ctxCores = s.ctxCores := rfl
@[simp] theorem State.updWave_ops (s : State) (i : Nat) (f : Wave → Wave) : (s.updWave i f).ops = s.ops := rfl
@[simp] theorem State.updWave_spawns (s : State) (i : Nat) (f : Wave → Wave) : (s.updWave i f).spawns = s.spawns := rfl
@[simp] theorem State.updWave_reuse (s : State) (i : Nat) (f : Wave → Wave) : (s.updWave i f).reuse = s.reuse := rfl
@[simp] theorem State.updWave_scenes (s : State) (i : Nat) (f : Wave → Wave) : (s.updWave i f).scenes = s.scenes := rfl
@[simp] theorem State.updWave_oldScenes (s : State) (i : Nat) (f : Wave → Wave) : (s.updWave i f).oldScenes = s.oldScenes := rfl
@[simp] theorem State.updWave_passes (s : State) (i : Nat) (f : Wave → Wave) : (s.updWave i f).passes = s.passes := rfl
@[simp] theorem State.updWave_cols (s : State) (i : Nat) (f : Wave → Wave) : (s.updWave i f).cols = s.cols := rfl
@[simp] theorem State.updWave_sentCols (s : State) (i : Nat) (f : Wave → Wave) : (s.updWave i f).sentCols = s.sentCols := rfl
@[simp] theorem State.updWave_aborted (s : State) (i : Nat) (f : Wave → Wave) : (s.updWave i f).aborted = s.aborted := rfl
@[simp] theorem State.updWave_begun (s : State) (i : Nat) (f : Wave → Wave) : (s.updWave i f).begun = s.begun := rfl
@[simp] theorem State.updWave_early (s : State) (i : Nat) (f : Wave → Wave) : (s.updWave i f).early = s.early := rfl
@[simp] theorem State.updWave_reserve (s : State) (i : Nat) (f : Wave → Wave) : (s.updWave i f).reserve = s.reserve := rfl
@[simp] theorem State.updWave_nextId (s : State) (i : Nat) (f : Wave → Wave) : (s.updWave i f).nextId = s.nextId := rfl
@[simp] theorem State.updWave_free (s : State) (i : Nat) (f : Wave → Wave) : (s.updWave i f).free = s.free := rfl
@[simp] theorem State.updWave_turn (s : State) (i : Nat) (f : Wave → Wave) : (s.updWave i f).turn = s.turn := rfl
@[simp] theorem State.updWave_issue (s : State) (i : Nat) (f : Wave → Wave) : (s.updWave i f).issue = s.issue := rfl
@[simp] theorem State.updWave_agenda (s : State) (i : Nat) (f : Wave → Wave) : (s.updWave i f).agenda = s.agenda := rfl

/-! ## State.updGang -/

@[simp] theorem State.updGang_time (s : State) (i : Nat) (f : Gang → Gang) : (s.updGang i f).time = s.time := rfl
@[simp] theorem State.updGang_dev (s : State) (i : Nat) (f : Gang → Gang) : (s.updGang i f).dev = s.dev := rfl
@[simp] theorem State.updGang_mem (s : State) (i : Nat) (f : Gang → Gang) : (s.updGang i f).mem = s.mem := rfl
@[simp] theorem State.updGang_poison (s : State) (i : Nat) (f : Gang → Gang) : (s.updGang i f).poison = s.poison := rfl
@[simp] theorem State.updGang_dirty (s : State) (i : Nat) (f : Gang → Gang) : (s.updGang i f).dirty = s.dirty := rfl
@[simp] theorem State.updGang_directory (s : State) (i : Nat) (f : Gang → Gang) : (s.updGang i f).directory = s.directory := rfl
@[simp] theorem State.updGang_pool (s : State) (i : Nat) (f : Gang → Gang) : (s.updGang i f).pool = s.pool := rfl
@[simp] theorem State.updGang_ctxs (s : State) (i : Nat) (f : Gang → Gang) : (s.updGang i f).ctxs = s.ctxs := rfl
@[simp] theorem State.updGang_launches (s : State) (i : Nat) (f : Gang → Gang) : (s.updGang i f).launches = s.launches := rfl
@[simp] theorem State.updGang_waves (s : State) (i : Nat) (f : Gang → Gang) : (s.updGang i f).waves = s.waves := rfl
@[simp] theorem State.updGang_cores (s : State) (i : Nat) (f : Gang → Gang) : (s.updGang i f).cores = s.cores := rfl
@[simp] theorem State.updGang_ctxCores (s : State) (i : Nat) (f : Gang → Gang) : (s.updGang i f).ctxCores = s.ctxCores := rfl
@[simp] theorem State.updGang_ops (s : State) (i : Nat) (f : Gang → Gang) : (s.updGang i f).ops = s.ops := rfl
@[simp] theorem State.updGang_spawns (s : State) (i : Nat) (f : Gang → Gang) : (s.updGang i f).spawns = s.spawns := rfl
@[simp] theorem State.updGang_reuse (s : State) (i : Nat) (f : Gang → Gang) : (s.updGang i f).reuse = s.reuse := rfl
@[simp] theorem State.updGang_scenes (s : State) (i : Nat) (f : Gang → Gang) : (s.updGang i f).scenes = s.scenes := rfl
@[simp] theorem State.updGang_oldScenes (s : State) (i : Nat) (f : Gang → Gang) : (s.updGang i f).oldScenes = s.oldScenes := rfl
@[simp] theorem State.updGang_passes (s : State) (i : Nat) (f : Gang → Gang) : (s.updGang i f).passes = s.passes := rfl
@[simp] theorem State.updGang_cols (s : State) (i : Nat) (f : Gang → Gang) : (s.updGang i f).cols = s.cols := rfl
@[simp] theorem State.updGang_sentCols (s : State) (i : Nat) (f : Gang → Gang) : (s.updGang i f).sentCols = s.sentCols := rfl
@[simp] theorem State.updGang_aborted (s : State) (i : Nat) (f : Gang → Gang) : (s.updGang i f).aborted = s.aborted := rfl
@[simp] theorem State.updGang_begun (s : State) (i : Nat) (f : Gang → Gang) : (s.updGang i f).begun = s.begun := rfl
@[simp] theorem State.updGang_early (s : State) (i : Nat) (f : Gang → Gang) : (s.updGang i f).early = s.early := rfl
@[simp] theorem State.updGang_reserve (s : State) (i : Nat) (f : Gang → Gang) : (s.updGang i f).reserve = s.reserve := rfl
@[simp] theorem State.updGang_nextId (s : State) (i : Nat) (f : Gang → Gang) : (s.updGang i f).nextId = s.nextId := rfl
@[simp] theorem State.updGang_free (s : State) (i : Nat) (f : Gang → Gang) : (s.updGang i f).free = s.free := rfl
@[simp] theorem State.updGang_turn (s : State) (i : Nat) (f : Gang → Gang) : (s.updGang i f).turn = s.turn := rfl
@[simp] theorem State.updGang_issue (s : State) (i : Nat) (f : Gang → Gang) : (s.updGang i f).issue = s.issue := rfl
@[simp] theorem State.updGang_agenda (s : State) (i : Nat) (f : Gang → Gang) : (s.updGang i f).agenda = s.agenda := rfl

/-! ## State.updCtx -/

@[simp] theorem State.updCtx_time (s : State) (i : Nat) (f : Ctx → Ctx) : (s.updCtx i f).time = s.time := rfl
@[simp] theorem State.updCtx_dev (s : State) (i : Nat) (f : Ctx → Ctx) : (s.updCtx i f).dev = s.dev := rfl
@[simp] theorem State.updCtx_mem (s : State) (i : Nat) (f : Ctx → Ctx) : (s.updCtx i f).mem = s.mem := rfl
@[simp] theorem State.updCtx_poison (s : State) (i : Nat) (f : Ctx → Ctx) : (s.updCtx i f).poison = s.poison := rfl
@[simp] theorem State.updCtx_dirty (s : State) (i : Nat) (f : Ctx → Ctx) : (s.updCtx i f).dirty = s.dirty := rfl
@[simp] theorem State.updCtx_directory (s : State) (i : Nat) (f : Ctx → Ctx) : (s.updCtx i f).directory = s.directory := rfl
@[simp] theorem State.updCtx_pool (s : State) (i : Nat) (f : Ctx → Ctx) : (s.updCtx i f).pool = s.pool := rfl
@[simp] theorem State.updCtx_launches (s : State) (i : Nat) (f : Ctx → Ctx) : (s.updCtx i f).launches = s.launches := rfl
@[simp] theorem State.updCtx_gangs (s : State) (i : Nat) (f : Ctx → Ctx) : (s.updCtx i f).gangs = s.gangs := rfl
@[simp] theorem State.updCtx_waves (s : State) (i : Nat) (f : Ctx → Ctx) : (s.updCtx i f).waves = s.waves := rfl
@[simp] theorem State.updCtx_cores (s : State) (i : Nat) (f : Ctx → Ctx) : (s.updCtx i f).cores = s.cores := rfl
@[simp] theorem State.updCtx_ctxCores (s : State) (i : Nat) (f : Ctx → Ctx) : (s.updCtx i f).ctxCores = s.ctxCores := rfl
@[simp] theorem State.updCtx_ops (s : State) (i : Nat) (f : Ctx → Ctx) : (s.updCtx i f).ops = s.ops := rfl
@[simp] theorem State.updCtx_spawns (s : State) (i : Nat) (f : Ctx → Ctx) : (s.updCtx i f).spawns = s.spawns := rfl
@[simp] theorem State.updCtx_reuse (s : State) (i : Nat) (f : Ctx → Ctx) : (s.updCtx i f).reuse = s.reuse := rfl
@[simp] theorem State.updCtx_scenes (s : State) (i : Nat) (f : Ctx → Ctx) : (s.updCtx i f).scenes = s.scenes := rfl
@[simp] theorem State.updCtx_oldScenes (s : State) (i : Nat) (f : Ctx → Ctx) : (s.updCtx i f).oldScenes = s.oldScenes := rfl
@[simp] theorem State.updCtx_passes (s : State) (i : Nat) (f : Ctx → Ctx) : (s.updCtx i f).passes = s.passes := rfl
@[simp] theorem State.updCtx_cols (s : State) (i : Nat) (f : Ctx → Ctx) : (s.updCtx i f).cols = s.cols := rfl
@[simp] theorem State.updCtx_sentCols (s : State) (i : Nat) (f : Ctx → Ctx) : (s.updCtx i f).sentCols = s.sentCols := rfl
@[simp] theorem State.updCtx_aborted (s : State) (i : Nat) (f : Ctx → Ctx) : (s.updCtx i f).aborted = s.aborted := rfl
@[simp] theorem State.updCtx_begun (s : State) (i : Nat) (f : Ctx → Ctx) : (s.updCtx i f).begun = s.begun := rfl
@[simp] theorem State.updCtx_early (s : State) (i : Nat) (f : Ctx → Ctx) : (s.updCtx i f).early = s.early := rfl
@[simp] theorem State.updCtx_reserve (s : State) (i : Nat) (f : Ctx → Ctx) : (s.updCtx i f).reserve = s.reserve := rfl
@[simp] theorem State.updCtx_nextId (s : State) (i : Nat) (f : Ctx → Ctx) : (s.updCtx i f).nextId = s.nextId := rfl
@[simp] theorem State.updCtx_free (s : State) (i : Nat) (f : Ctx → Ctx) : (s.updCtx i f).free = s.free := rfl
@[simp] theorem State.updCtx_turn (s : State) (i : Nat) (f : Ctx → Ctx) : (s.updCtx i f).turn = s.turn := rfl
@[simp] theorem State.updCtx_issue (s : State) (i : Nat) (f : Ctx → Ctx) : (s.updCtx i f).issue = s.issue := rfl
@[simp] theorem State.updCtx_agenda (s : State) (i : Nat) (f : Ctx → Ctx) : (s.updCtx i f).agenda = s.agenda := rfl

/-! ## State.updLaunch -/

@[simp] theorem State.updLaunch_time (s : State) (i : Nat) (f : Launch → Launch) : (s.updLaunch i f).time = s.time := rfl
@[simp] theorem State.updLaunch_dev (s : State) (i : Nat) (f : Launch → Launch) : (s.updLaunch i f).dev = s.dev := rfl
@[simp] theorem State.updLaunch_mem (s : State) (i : Nat) (f : Launch → Launch) : (s.updLaunch i f).mem = s.mem := rfl
@[simp] theorem State.updLaunch_poison (s : State) (i : Nat) (f : Launch → Launch) : (s.updLaunch i f).poison = s.poison := rfl
@[simp] theorem State.updLaunch_dirty (s : State) (i : Nat) (f : Launch → Launch) : (s.updLaunch i f).dirty = s.dirty := rfl
@[simp] theorem State.updLaunch_directory (s : State) (i : Nat) (f : Launch → Launch) : (s.updLaunch i f).directory = s.directory := rfl
@[simp] theorem State.updLaunch_pool (s : State) (i : Nat) (f : Launch → Launch) : (s.updLaunch i f).pool = s.pool := rfl
@[simp] theorem State.updLaunch_ctxs (s : State) (i : Nat) (f : Launch → Launch) : (s.updLaunch i f).ctxs = s.ctxs := rfl
@[simp] theorem State.updLaunch_gangs (s : State) (i : Nat) (f : Launch → Launch) : (s.updLaunch i f).gangs = s.gangs := rfl
@[simp] theorem State.updLaunch_waves (s : State) (i : Nat) (f : Launch → Launch) : (s.updLaunch i f).waves = s.waves := rfl
@[simp] theorem State.updLaunch_cores (s : State) (i : Nat) (f : Launch → Launch) : (s.updLaunch i f).cores = s.cores := rfl
@[simp] theorem State.updLaunch_ctxCores (s : State) (i : Nat) (f : Launch → Launch) : (s.updLaunch i f).ctxCores = s.ctxCores := rfl
@[simp] theorem State.updLaunch_ops (s : State) (i : Nat) (f : Launch → Launch) : (s.updLaunch i f).ops = s.ops := rfl
@[simp] theorem State.updLaunch_spawns (s : State) (i : Nat) (f : Launch → Launch) : (s.updLaunch i f).spawns = s.spawns := rfl
@[simp] theorem State.updLaunch_reuse (s : State) (i : Nat) (f : Launch → Launch) : (s.updLaunch i f).reuse = s.reuse := rfl
@[simp] theorem State.updLaunch_scenes (s : State) (i : Nat) (f : Launch → Launch) : (s.updLaunch i f).scenes = s.scenes := rfl
@[simp] theorem State.updLaunch_oldScenes (s : State) (i : Nat) (f : Launch → Launch) : (s.updLaunch i f).oldScenes = s.oldScenes := rfl
@[simp] theorem State.updLaunch_passes (s : State) (i : Nat) (f : Launch → Launch) : (s.updLaunch i f).passes = s.passes := rfl
@[simp] theorem State.updLaunch_cols (s : State) (i : Nat) (f : Launch → Launch) : (s.updLaunch i f).cols = s.cols := rfl
@[simp] theorem State.updLaunch_sentCols (s : State) (i : Nat) (f : Launch → Launch) : (s.updLaunch i f).sentCols = s.sentCols := rfl
@[simp] theorem State.updLaunch_aborted (s : State) (i : Nat) (f : Launch → Launch) : (s.updLaunch i f).aborted = s.aborted := rfl
@[simp] theorem State.updLaunch_begun (s : State) (i : Nat) (f : Launch → Launch) : (s.updLaunch i f).begun = s.begun := rfl
@[simp] theorem State.updLaunch_early (s : State) (i : Nat) (f : Launch → Launch) : (s.updLaunch i f).early = s.early := rfl
@[simp] theorem State.updLaunch_reserve (s : State) (i : Nat) (f : Launch → Launch) : (s.updLaunch i f).reserve = s.reserve := rfl
@[simp] theorem State.updLaunch_nextId (s : State) (i : Nat) (f : Launch → Launch) : (s.updLaunch i f).nextId = s.nextId := rfl
@[simp] theorem State.updLaunch_free (s : State) (i : Nat) (f : Launch → Launch) : (s.updLaunch i f).free = s.free := rfl
@[simp] theorem State.updLaunch_turn (s : State) (i : Nat) (f : Launch → Launch) : (s.updLaunch i f).turn = s.turn := rfl
@[simp] theorem State.updLaunch_issue (s : State) (i : Nat) (f : Launch → Launch) : (s.updLaunch i f).issue = s.issue := rfl
@[simp] theorem State.updLaunch_agenda (s : State) (i : Nat) (f : Launch → Launch) : (s.updLaunch i f).agenda = s.agenda := rfl

/-! ## State.updOp -/

@[simp] theorem State.updOp_time (s : State) (i : Nat) (f : Op → Op) : (s.updOp i f).time = s.time := rfl
@[simp] theorem State.updOp_dev (s : State) (i : Nat) (f : Op → Op) : (s.updOp i f).dev = s.dev := rfl
@[simp] theorem State.updOp_mem (s : State) (i : Nat) (f : Op → Op) : (s.updOp i f).mem = s.mem := rfl
@[simp] theorem State.updOp_poison (s : State) (i : Nat) (f : Op → Op) : (s.updOp i f).poison = s.poison := rfl
@[simp] theorem State.updOp_dirty (s : State) (i : Nat) (f : Op → Op) : (s.updOp i f).dirty = s.dirty := rfl
@[simp] theorem State.updOp_directory (s : State) (i : Nat) (f : Op → Op) : (s.updOp i f).directory = s.directory := rfl
@[simp] theorem State.updOp_pool (s : State) (i : Nat) (f : Op → Op) : (s.updOp i f).pool = s.pool := rfl
@[simp] theorem State.updOp_ctxs (s : State) (i : Nat) (f : Op → Op) : (s.updOp i f).ctxs = s.ctxs := rfl
@[simp] theorem State.updOp_launches (s : State) (i : Nat) (f : Op → Op) : (s.updOp i f).launches = s.launches := rfl
@[simp] theorem State.updOp_gangs (s : State) (i : Nat) (f : Op → Op) : (s.updOp i f).gangs = s.gangs := rfl
@[simp] theorem State.updOp_waves (s : State) (i : Nat) (f : Op → Op) : (s.updOp i f).waves = s.waves := rfl
@[simp] theorem State.updOp_cores (s : State) (i : Nat) (f : Op → Op) : (s.updOp i f).cores = s.cores := rfl
@[simp] theorem State.updOp_ctxCores (s : State) (i : Nat) (f : Op → Op) : (s.updOp i f).ctxCores = s.ctxCores := rfl
@[simp] theorem State.updOp_spawns (s : State) (i : Nat) (f : Op → Op) : (s.updOp i f).spawns = s.spawns := rfl
@[simp] theorem State.updOp_reuse (s : State) (i : Nat) (f : Op → Op) : (s.updOp i f).reuse = s.reuse := rfl
@[simp] theorem State.updOp_scenes (s : State) (i : Nat) (f : Op → Op) : (s.updOp i f).scenes = s.scenes := rfl
@[simp] theorem State.updOp_oldScenes (s : State) (i : Nat) (f : Op → Op) : (s.updOp i f).oldScenes = s.oldScenes := rfl
@[simp] theorem State.updOp_passes (s : State) (i : Nat) (f : Op → Op) : (s.updOp i f).passes = s.passes := rfl
@[simp] theorem State.updOp_cols (s : State) (i : Nat) (f : Op → Op) : (s.updOp i f).cols = s.cols := rfl
@[simp] theorem State.updOp_sentCols (s : State) (i : Nat) (f : Op → Op) : (s.updOp i f).sentCols = s.sentCols := rfl
@[simp] theorem State.updOp_aborted (s : State) (i : Nat) (f : Op → Op) : (s.updOp i f).aborted = s.aborted := rfl
@[simp] theorem State.updOp_begun (s : State) (i : Nat) (f : Op → Op) : (s.updOp i f).begun = s.begun := rfl
@[simp] theorem State.updOp_early (s : State) (i : Nat) (f : Op → Op) : (s.updOp i f).early = s.early := rfl
@[simp] theorem State.updOp_reserve (s : State) (i : Nat) (f : Op → Op) : (s.updOp i f).reserve = s.reserve := rfl
@[simp] theorem State.updOp_nextId (s : State) (i : Nat) (f : Op → Op) : (s.updOp i f).nextId = s.nextId := rfl
@[simp] theorem State.updOp_free (s : State) (i : Nat) (f : Op → Op) : (s.updOp i f).free = s.free := rfl
@[simp] theorem State.updOp_turn (s : State) (i : Nat) (f : Op → Op) : (s.updOp i f).turn = s.turn := rfl
@[simp] theorem State.updOp_issue (s : State) (i : Nat) (f : Op → Op) : (s.updOp i f).issue = s.issue := rfl
@[simp] theorem State.updOp_agenda (s : State) (i : Nat) (f : Op → Op) : (s.updOp i f).agenda = s.agenda := rfl

/-! ## State.dropOp -/

@[simp] theorem State.dropOp_time (s : State) (i : Nat) : (s.dropOp i).time = s.time := rfl
@[simp] theorem State.dropOp_dev (s : State) (i : Nat) : (s.dropOp i).dev = s.dev := rfl
@[simp] theorem State.dropOp_mem (s : State) (i : Nat) : (s.dropOp i).mem = s.mem := rfl
@[simp] theorem State.dropOp_poison (s : State) (i : Nat) : (s.dropOp i).poison = s.poison := rfl
@[simp] theorem State.dropOp_dirty (s : State) (i : Nat) : (s.dropOp i).dirty = s.dirty := rfl
@[simp] theorem State.dropOp_directory (s : State) (i : Nat) : (s.dropOp i).directory = s.directory := rfl
@[simp] theorem State.dropOp_pool (s : State) (i : Nat) : (s.dropOp i).pool = s.pool := rfl
@[simp] theorem State.dropOp_ctxs (s : State) (i : Nat) : (s.dropOp i).ctxs = s.ctxs := rfl
@[simp] theorem State.dropOp_launches (s : State) (i : Nat) : (s.dropOp i).launches = s.launches := rfl
@[simp] theorem State.dropOp_gangs (s : State) (i : Nat) : (s.dropOp i).gangs = s.gangs := rfl
@[simp] theorem State.dropOp_waves (s : State) (i : Nat) : (s.dropOp i).waves = s.waves := rfl
@[simp] theorem State.dropOp_cores (s : State) (i : Nat) : (s.dropOp i).cores = s.cores := rfl
@[simp] theorem State.dropOp_ctxCores (s : State) (i : Nat) : (s.dropOp i).ctxCores = s.ctxCores := rfl
@[simp] theorem State.dropOp_spawns (s : State) (i : Nat) : (s.dropOp i).spawns = s.spawns := rfl
@[simp] theorem State.dropOp_reuse (s : State) (i : Nat) : (s.dropOp i).reuse = s.reuse := rfl
@[simp] theorem State.dropOp_scenes (s : State) (i : Nat) : (s.dropOp i).scenes = s.scenes := rfl
@[simp] theorem State.dropOp_oldScenes (s : State) (i : Nat) : (s.dropOp i).oldScenes = s.oldScenes := rfl
@[simp] theorem State.dropOp_passes (s : State) (i : Nat) : (s.dropOp i).passes = s.passes := rfl
@[simp] theorem State.dropOp_cols (s : State) (i : Nat) : (s.dropOp i).cols = s.cols := rfl
@[simp] theorem State.dropOp_sentCols (s : State) (i : Nat) : (s.dropOp i).sentCols = s.sentCols := rfl
@[simp] theorem State.dropOp_aborted (s : State) (i : Nat) : (s.dropOp i).aborted = s.aborted := rfl
@[simp] theorem State.dropOp_begun (s : State) (i : Nat) : (s.dropOp i).begun = s.begun := rfl
@[simp] theorem State.dropOp_early (s : State) (i : Nat) : (s.dropOp i).early = s.early := rfl
@[simp] theorem State.dropOp_reserve (s : State) (i : Nat) : (s.dropOp i).reserve = s.reserve := rfl
@[simp] theorem State.dropOp_nextId (s : State) (i : Nat) : (s.dropOp i).nextId = s.nextId := rfl
@[simp] theorem State.dropOp_free (s : State) (i : Nat) : (s.dropOp i).free = s.free := rfl
@[simp] theorem State.dropOp_turn (s : State) (i : Nat) : (s.dropOp i).turn = s.turn := rfl
@[simp] theorem State.dropOp_issue (s : State) (i : Nat) : (s.dropOp i).issue = s.issue := rfl
@[simp] theorem State.dropOp_agenda (s : State) (i : Nat) : (s.dropOp i).agenda = s.agenda := rfl

/-! ## State.updDev -/

@[simp] theorem State.updDev_time (s : State) (f : Device → Device) : (s.updDev f).time = s.time := rfl
@[simp] theorem State.updDev_mem (s : State) (f : Device → Device) : (s.updDev f).mem = s.mem := rfl
@[simp] theorem State.updDev_poison (s : State) (f : Device → Device) : (s.updDev f).poison = s.poison := rfl
@[simp] theorem State.updDev_dirty (s : State) (f : Device → Device) : (s.updDev f).dirty = s.dirty := rfl
@[simp] theorem State.updDev_directory (s : State) (f : Device → Device) : (s.updDev f).directory = s.directory := rfl
@[simp] theorem State.updDev_pool (s : State) (f : Device → Device) : (s.updDev f).pool = s.pool := rfl
@[simp] theorem State.updDev_ctxs (s : State) (f : Device → Device) : (s.updDev f).ctxs = s.ctxs := rfl
@[simp] theorem State.updDev_launches (s : State) (f : Device → Device) : (s.updDev f).launches = s.launches := rfl
@[simp] theorem State.updDev_gangs (s : State) (f : Device → Device) : (s.updDev f).gangs = s.gangs := rfl
@[simp] theorem State.updDev_waves (s : State) (f : Device → Device) : (s.updDev f).waves = s.waves := rfl
@[simp] theorem State.updDev_cores (s : State) (f : Device → Device) : (s.updDev f).cores = s.cores := rfl
@[simp] theorem State.updDev_ctxCores (s : State) (f : Device → Device) : (s.updDev f).ctxCores = s.ctxCores := rfl
@[simp] theorem State.updDev_ops (s : State) (f : Device → Device) : (s.updDev f).ops = s.ops := rfl
@[simp] theorem State.updDev_spawns (s : State) (f : Device → Device) : (s.updDev f).spawns = s.spawns := rfl
@[simp] theorem State.updDev_reuse (s : State) (f : Device → Device) : (s.updDev f).reuse = s.reuse := rfl
@[simp] theorem State.updDev_scenes (s : State) (f : Device → Device) : (s.updDev f).scenes = s.scenes := rfl
@[simp] theorem State.updDev_oldScenes (s : State) (f : Device → Device) : (s.updDev f).oldScenes = s.oldScenes := rfl
@[simp] theorem State.updDev_passes (s : State) (f : Device → Device) : (s.updDev f).passes = s.passes := rfl
@[simp] theorem State.updDev_cols (s : State) (f : Device → Device) : (s.updDev f).cols = s.cols := rfl
@[simp] theorem State.updDev_sentCols (s : State) (f : Device → Device) : (s.updDev f).sentCols = s.sentCols := rfl
@[simp] theorem State.updDev_aborted (s : State) (f : Device → Device) : (s.updDev f).aborted = s.aborted := rfl
@[simp] theorem State.updDev_begun (s : State) (f : Device → Device) : (s.updDev f).begun = s.begun := rfl
@[simp] theorem State.updDev_early (s : State) (f : Device → Device) : (s.updDev f).early = s.early := rfl
@[simp] theorem State.updDev_reserve (s : State) (f : Device → Device) : (s.updDev f).reserve = s.reserve := rfl
@[simp] theorem State.updDev_nextId (s : State) (f : Device → Device) : (s.updDev f).nextId = s.nextId := rfl
@[simp] theorem State.updDev_free (s : State) (f : Device → Device) : (s.updDev f).free = s.free := rfl
@[simp] theorem State.updDev_turn (s : State) (f : Device → Device) : (s.updDev f).turn = s.turn := rfl
@[simp] theorem State.updDev_issue (s : State) (f : Device → Device) : (s.updDev f).issue = s.issue := rfl
@[simp] theorem State.updDev_agenda (s : State) (f : Device → Device) : (s.updDev f).agenda = s.agenda := rfl

/-! ## State.updGroup -/

@[simp] theorem State.updGroup_time (s : State) (i n : Nat) (f : Group → Group) : (s.updGroup i n f).time = s.time := rfl
@[simp] theorem State.updGroup_dev (s : State) (i n : Nat) (f : Group → Group) : (s.updGroup i n f).dev = s.dev := rfl
@[simp] theorem State.updGroup_mem (s : State) (i n : Nat) (f : Group → Group) : (s.updGroup i n f).mem = s.mem := rfl
@[simp] theorem State.updGroup_poison (s : State) (i n : Nat) (f : Group → Group) : (s.updGroup i n f).poison = s.poison := rfl
@[simp] theorem State.updGroup_dirty (s : State) (i n : Nat) (f : Group → Group) : (s.updGroup i n f).dirty = s.dirty := rfl
@[simp] theorem State.updGroup_directory (s : State) (i n : Nat) (f : Group → Group) : (s.updGroup i n f).directory = s.directory := rfl
@[simp] theorem State.updGroup_pool (s : State) (i n : Nat) (f : Group → Group) : (s.updGroup i n f).pool = s.pool := rfl
@[simp] theorem State.updGroup_ctxs (s : State) (i n : Nat) (f : Group → Group) : (s.updGroup i n f).ctxs = s.ctxs := rfl
@[simp] theorem State.updGroup_launches (s : State) (i n : Nat) (f : Group → Group) : (s.updGroup i n f).launches = s.launches := rfl
@[simp] theorem State.updGroup_waves (s : State) (i n : Nat) (f : Group → Group) : (s.updGroup i n f).waves = s.waves := rfl
@[simp] theorem State.updGroup_cores (s : State) (i n : Nat) (f : Group → Group) : (s.updGroup i n f).cores = s.cores := rfl
@[simp] theorem State.updGroup_ctxCores (s : State) (i n : Nat) (f : Group → Group) : (s.updGroup i n f).ctxCores = s.ctxCores := rfl
@[simp] theorem State.updGroup_ops (s : State) (i n : Nat) (f : Group → Group) : (s.updGroup i n f).ops = s.ops := rfl
@[simp] theorem State.updGroup_spawns (s : State) (i n : Nat) (f : Group → Group) : (s.updGroup i n f).spawns = s.spawns := rfl
@[simp] theorem State.updGroup_reuse (s : State) (i n : Nat) (f : Group → Group) : (s.updGroup i n f).reuse = s.reuse := rfl
@[simp] theorem State.updGroup_scenes (s : State) (i n : Nat) (f : Group → Group) : (s.updGroup i n f).scenes = s.scenes := rfl
@[simp] theorem State.updGroup_oldScenes (s : State) (i n : Nat) (f : Group → Group) : (s.updGroup i n f).oldScenes = s.oldScenes := rfl
@[simp] theorem State.updGroup_passes (s : State) (i n : Nat) (f : Group → Group) : (s.updGroup i n f).passes = s.passes := rfl
@[simp] theorem State.updGroup_cols (s : State) (i n : Nat) (f : Group → Group) : (s.updGroup i n f).cols = s.cols := rfl
@[simp] theorem State.updGroup_sentCols (s : State) (i n : Nat) (f : Group → Group) : (s.updGroup i n f).sentCols = s.sentCols := rfl
@[simp] theorem State.updGroup_aborted (s : State) (i n : Nat) (f : Group → Group) : (s.updGroup i n f).aborted = s.aborted := rfl
@[simp] theorem State.updGroup_begun (s : State) (i n : Nat) (f : Group → Group) : (s.updGroup i n f).begun = s.begun := rfl
@[simp] theorem State.updGroup_early (s : State) (i n : Nat) (f : Group → Group) : (s.updGroup i n f).early = s.early := rfl
@[simp] theorem State.updGroup_reserve (s : State) (i n : Nat) (f : Group → Group) : (s.updGroup i n f).reserve = s.reserve := rfl
@[simp] theorem State.updGroup_nextId (s : State) (i n : Nat) (f : Group → Group) : (s.updGroup i n f).nextId = s.nextId := rfl
@[simp] theorem State.updGroup_free (s : State) (i n : Nat) (f : Group → Group) : (s.updGroup i n f).free = s.free := rfl
@[simp] theorem State.updGroup_turn (s : State) (i n : Nat) (f : Group → Group) : (s.updGroup i n f).turn = s.turn := rfl
@[simp] theorem State.updGroup_issue (s : State) (i n : Nat) (f : Group → Group) : (s.updGroup i n f).issue = s.issue := rfl
@[simp] theorem State.updGroup_agenda (s : State) (i n : Nat) (f : Group → Group) : (s.updGroup i n f).agenda = s.agenda := rfl

/-! ## State.updRegion -/

@[simp] theorem State.updRegion_time (s : State) (i : Nat) (f : Region → Region) : (s.updRegion i f).time = s.time := rfl
@[simp] theorem State.updRegion_dev (s : State) (i : Nat) (f : Region → Region) : (s.updRegion i f).dev = s.dev := rfl
@[simp] theorem State.updRegion_mem (s : State) (i : Nat) (f : Region → Region) : (s.updRegion i f).mem = s.mem := rfl
@[simp] theorem State.updRegion_poison (s : State) (i : Nat) (f : Region → Region) : (s.updRegion i f).poison = s.poison := rfl
@[simp] theorem State.updRegion_dirty (s : State) (i : Nat) (f : Region → Region) : (s.updRegion i f).dirty = s.dirty := rfl
@[simp] theorem State.updRegion_directory (s : State) (i : Nat) (f : Region → Region) : (s.updRegion i f).directory = s.directory := rfl
@[simp] theorem State.updRegion_pool (s : State) (i : Nat) (f : Region → Region) : (s.updRegion i f).pool = s.pool := rfl
@[simp] theorem State.updRegion_ctxs (s : State) (i : Nat) (f : Region → Region) : (s.updRegion i f).ctxs = s.ctxs := rfl
@[simp] theorem State.updRegion_launches (s : State) (i : Nat) (f : Region → Region) : (s.updRegion i f).launches = s.launches := rfl
@[simp] theorem State.updRegion_waves (s : State) (i : Nat) (f : Region → Region) : (s.updRegion i f).waves = s.waves := rfl
@[simp] theorem State.updRegion_cores (s : State) (i : Nat) (f : Region → Region) : (s.updRegion i f).cores = s.cores := rfl
@[simp] theorem State.updRegion_ctxCores (s : State) (i : Nat) (f : Region → Region) : (s.updRegion i f).ctxCores = s.ctxCores := rfl
@[simp] theorem State.updRegion_ops (s : State) (i : Nat) (f : Region → Region) : (s.updRegion i f).ops = s.ops := rfl
@[simp] theorem State.updRegion_spawns (s : State) (i : Nat) (f : Region → Region) : (s.updRegion i f).spawns = s.spawns := rfl
@[simp] theorem State.updRegion_reuse (s : State) (i : Nat) (f : Region → Region) : (s.updRegion i f).reuse = s.reuse := rfl
@[simp] theorem State.updRegion_scenes (s : State) (i : Nat) (f : Region → Region) : (s.updRegion i f).scenes = s.scenes := rfl
@[simp] theorem State.updRegion_oldScenes (s : State) (i : Nat) (f : Region → Region) : (s.updRegion i f).oldScenes = s.oldScenes := rfl
@[simp] theorem State.updRegion_passes (s : State) (i : Nat) (f : Region → Region) : (s.updRegion i f).passes = s.passes := rfl
@[simp] theorem State.updRegion_cols (s : State) (i : Nat) (f : Region → Region) : (s.updRegion i f).cols = s.cols := rfl
@[simp] theorem State.updRegion_sentCols (s : State) (i : Nat) (f : Region → Region) : (s.updRegion i f).sentCols = s.sentCols := rfl
@[simp] theorem State.updRegion_aborted (s : State) (i : Nat) (f : Region → Region) : (s.updRegion i f).aborted = s.aborted := rfl
@[simp] theorem State.updRegion_begun (s : State) (i : Nat) (f : Region → Region) : (s.updRegion i f).begun = s.begun := rfl
@[simp] theorem State.updRegion_early (s : State) (i : Nat) (f : Region → Region) : (s.updRegion i f).early = s.early := rfl
@[simp] theorem State.updRegion_reserve (s : State) (i : Nat) (f : Region → Region) : (s.updRegion i f).reserve = s.reserve := rfl
@[simp] theorem State.updRegion_nextId (s : State) (i : Nat) (f : Region → Region) : (s.updRegion i f).nextId = s.nextId := rfl
@[simp] theorem State.updRegion_free (s : State) (i : Nat) (f : Region → Region) : (s.updRegion i f).free = s.free := rfl
@[simp] theorem State.updRegion_turn (s : State) (i : Nat) (f : Region → Region) : (s.updRegion i f).turn = s.turn := rfl
@[simp] theorem State.updRegion_issue (s : State) (i : Nat) (f : Region → Region) : (s.updRegion i f).issue = s.issue := rfl
@[simp] theorem State.updRegion_agenda (s : State) (i : Nat) (f : Region → Region) : (s.updRegion i f).agenda = s.agenda := rfl

/-! ## State.updCore -/

@[simp] theorem State.updCore_time (s : State) (i : Nat) (f : Core → Core) : (s.updCore i f).time = s.time := by
  unfold State.updCore; split <;> [rfl; (split <;> rfl)]
@[simp] theorem State.updCore_dev (s : State) (i : Nat) (f : Core → Core) : (s.updCore i f).dev = s.dev := by
  unfold State.updCore; split <;> [rfl; (split <;> rfl)]
@[simp] theorem State.updCore_mem (s : State) (i : Nat) (f : Core → Core) : (s.updCore i f).mem = s.mem := by
  unfold State.updCore; split <;> [rfl; (split <;> rfl)]
@[simp] theorem State.updCore_poison (s : State) (i : Nat) (f : Core → Core) : (s.updCore i f).poison = s.poison := by
  unfold State.updCore; split <;> [rfl; (split <;> rfl)]
@[simp] theorem State.updCore_dirty (s : State) (i : Nat) (f : Core → Core) : (s.updCore i f).dirty = s.dirty := by
  unfold State.updCore; split <;> [rfl; (split <;> rfl)]
@[simp] theorem State.updCore_directory (s : State) (i : Nat) (f : Core → Core) : (s.updCore i f).directory = s.directory := by
  unfold State.updCore; split <;> [rfl; (split <;> rfl)]
@[simp] theorem State.updCore_pool (s : State) (i : Nat) (f : Core → Core) : (s.updCore i f).pool = s.pool := by
  unfold State.updCore; split <;> [rfl; (split <;> rfl)]
@[simp] theorem State.updCore_ctxs (s : State) (i : Nat) (f : Core → Core) : (s.updCore i f).ctxs = s.ctxs := by
  unfold State.updCore; split <;> [rfl; (split <;> rfl)]
@[simp] theorem State.updCore_launches (s : State) (i : Nat) (f : Core → Core) : (s.updCore i f).launches = s.launches := by
  unfold State.updCore; split <;> [rfl; (split <;> rfl)]
@[simp] theorem State.updCore_gangs (s : State) (i : Nat) (f : Core → Core) : (s.updCore i f).gangs = s.gangs := by
  unfold State.updCore; split <;> [rfl; (split <;> rfl)]
@[simp] theorem State.updCore_waves (s : State) (i : Nat) (f : Core → Core) : (s.updCore i f).waves = s.waves := by
  unfold State.updCore; split <;> [rfl; (split <;> rfl)]
@[simp] theorem State.updCore_ctxCores (s : State) (i : Nat) (f : Core → Core) : (s.updCore i f).ctxCores = s.ctxCores := by
  unfold State.updCore; split <;> [rfl; (split <;> rfl)]
@[simp] theorem State.updCore_ops (s : State) (i : Nat) (f : Core → Core) : (s.updCore i f).ops = s.ops := by
  unfold State.updCore; split <;> [rfl; (split <;> rfl)]
@[simp] theorem State.updCore_spawns (s : State) (i : Nat) (f : Core → Core) : (s.updCore i f).spawns = s.spawns := by
  unfold State.updCore; split <;> [rfl; (split <;> rfl)]
@[simp] theorem State.updCore_reuse (s : State) (i : Nat) (f : Core → Core) : (s.updCore i f).reuse = s.reuse := by
  unfold State.updCore; split <;> [rfl; (split <;> rfl)]
@[simp] theorem State.updCore_scenes (s : State) (i : Nat) (f : Core → Core) : (s.updCore i f).scenes = s.scenes := by
  unfold State.updCore; split <;> [rfl; (split <;> rfl)]
@[simp] theorem State.updCore_oldScenes (s : State) (i : Nat) (f : Core → Core) : (s.updCore i f).oldScenes = s.oldScenes := by
  unfold State.updCore; split <;> [rfl; (split <;> rfl)]
@[simp] theorem State.updCore_passes (s : State) (i : Nat) (f : Core → Core) : (s.updCore i f).passes = s.passes := by
  unfold State.updCore; split <;> [rfl; (split <;> rfl)]
@[simp] theorem State.updCore_cols (s : State) (i : Nat) (f : Core → Core) : (s.updCore i f).cols = s.cols := by
  unfold State.updCore; split <;> [rfl; (split <;> rfl)]
@[simp] theorem State.updCore_sentCols (s : State) (i : Nat) (f : Core → Core) : (s.updCore i f).sentCols = s.sentCols := by
  unfold State.updCore; split <;> [rfl; (split <;> rfl)]
@[simp] theorem State.updCore_aborted (s : State) (i : Nat) (f : Core → Core) : (s.updCore i f).aborted = s.aborted := by
  unfold State.updCore; split <;> [rfl; (split <;> rfl)]
@[simp] theorem State.updCore_begun (s : State) (i : Nat) (f : Core → Core) : (s.updCore i f).begun = s.begun := by
  unfold State.updCore; split <;> [rfl; (split <;> rfl)]
@[simp] theorem State.updCore_early (s : State) (i : Nat) (f : Core → Core) : (s.updCore i f).early = s.early := by
  unfold State.updCore; split <;> [rfl; (split <;> rfl)]
@[simp] theorem State.updCore_reserve (s : State) (i : Nat) (f : Core → Core) : (s.updCore i f).reserve = s.reserve := by
  unfold State.updCore; split <;> [rfl; (split <;> rfl)]
@[simp] theorem State.updCore_nextId (s : State) (i : Nat) (f : Core → Core) : (s.updCore i f).nextId = s.nextId := by
  unfold State.updCore; split <;> [rfl; (split <;> rfl)]
@[simp] theorem State.updCore_free (s : State) (i : Nat) (f : Core → Core) : (s.updCore i f).free = s.free := by
  unfold State.updCore; split <;> [rfl; (split <;> rfl)]
@[simp] theorem State.updCore_turn (s : State) (i : Nat) (f : Core → Core) : (s.updCore i f).turn = s.turn := by
  unfold State.updCore; split <;> [rfl; (split <;> rfl)]
@[simp] theorem State.updCore_issue (s : State) (i : Nat) (f : Core → Core) : (s.updCore i f).issue = s.issue := by
  unfold State.updCore; split <;> [rfl; (split <;> rfl)]
@[simp] theorem State.updCore_agenda (s : State) (i : Nat) (f : Core → Core) : (s.updCore i f).agenda = s.agenda := by
  unfold State.updCore; split <;> [rfl; (split <;> rfl)]

/-! ## State.updCtxCore -/

@[simp] theorem State.updCtxCore_time (s : State) (i n : Nat) (f : CtxCore → CtxCore) : (s.updCtxCore i n f).time = s.time := by
  unfold State.updCtxCore; split <;> rfl
@[simp] theorem State.updCtxCore_dev (s : State) (i n : Nat) (f : CtxCore → CtxCore) : (s.updCtxCore i n f).dev = s.dev := by
  unfold State.updCtxCore; split <;> rfl
@[simp] theorem State.updCtxCore_mem (s : State) (i n : Nat) (f : CtxCore → CtxCore) : (s.updCtxCore i n f).mem = s.mem := by
  unfold State.updCtxCore; split <;> rfl
@[simp] theorem State.updCtxCore_poison (s : State) (i n : Nat) (f : CtxCore → CtxCore) : (s.updCtxCore i n f).poison = s.poison := by
  unfold State.updCtxCore; split <;> rfl
@[simp] theorem State.updCtxCore_dirty (s : State) (i n : Nat) (f : CtxCore → CtxCore) : (s.updCtxCore i n f).dirty = s.dirty := by
  unfold State.updCtxCore; split <;> rfl
@[simp] theorem State.updCtxCore_directory (s : State) (i n : Nat) (f : CtxCore → CtxCore) : (s.updCtxCore i n f).directory = s.directory := by
  unfold State.updCtxCore; split <;> rfl
@[simp] theorem State.updCtxCore_pool (s : State) (i n : Nat) (f : CtxCore → CtxCore) : (s.updCtxCore i n f).pool = s.pool := by
  unfold State.updCtxCore; split <;> rfl
@[simp] theorem State.updCtxCore_ctxs (s : State) (i n : Nat) (f : CtxCore → CtxCore) : (s.updCtxCore i n f).ctxs = s.ctxs := by
  unfold State.updCtxCore; split <;> rfl
@[simp] theorem State.updCtxCore_launches (s : State) (i n : Nat) (f : CtxCore → CtxCore) : (s.updCtxCore i n f).launches = s.launches := by
  unfold State.updCtxCore; split <;> rfl
@[simp] theorem State.updCtxCore_gangs (s : State) (i n : Nat) (f : CtxCore → CtxCore) : (s.updCtxCore i n f).gangs = s.gangs := by
  unfold State.updCtxCore; split <;> rfl
@[simp] theorem State.updCtxCore_waves (s : State) (i n : Nat) (f : CtxCore → CtxCore) : (s.updCtxCore i n f).waves = s.waves := by
  unfold State.updCtxCore; split <;> rfl
@[simp] theorem State.updCtxCore_cores (s : State) (i n : Nat) (f : CtxCore → CtxCore) : (s.updCtxCore i n f).cores = s.cores := by
  unfold State.updCtxCore; split <;> rfl
@[simp] theorem State.updCtxCore_ops (s : State) (i n : Nat) (f : CtxCore → CtxCore) : (s.updCtxCore i n f).ops = s.ops := by
  unfold State.updCtxCore; split <;> rfl
@[simp] theorem State.updCtxCore_spawns (s : State) (i n : Nat) (f : CtxCore → CtxCore) : (s.updCtxCore i n f).spawns = s.spawns := by
  unfold State.updCtxCore; split <;> rfl
@[simp] theorem State.updCtxCore_reuse (s : State) (i n : Nat) (f : CtxCore → CtxCore) : (s.updCtxCore i n f).reuse = s.reuse := by
  unfold State.updCtxCore; split <;> rfl
@[simp] theorem State.updCtxCore_scenes (s : State) (i n : Nat) (f : CtxCore → CtxCore) : (s.updCtxCore i n f).scenes = s.scenes := by
  unfold State.updCtxCore; split <;> rfl
@[simp] theorem State.updCtxCore_oldScenes (s : State) (i n : Nat) (f : CtxCore → CtxCore) : (s.updCtxCore i n f).oldScenes = s.oldScenes := by
  unfold State.updCtxCore; split <;> rfl
@[simp] theorem State.updCtxCore_passes (s : State) (i n : Nat) (f : CtxCore → CtxCore) : (s.updCtxCore i n f).passes = s.passes := by
  unfold State.updCtxCore; split <;> rfl
@[simp] theorem State.updCtxCore_cols (s : State) (i n : Nat) (f : CtxCore → CtxCore) : (s.updCtxCore i n f).cols = s.cols := by
  unfold State.updCtxCore; split <;> rfl
@[simp] theorem State.updCtxCore_sentCols (s : State) (i n : Nat) (f : CtxCore → CtxCore) : (s.updCtxCore i n f).sentCols = s.sentCols := by
  unfold State.updCtxCore; split <;> rfl
@[simp] theorem State.updCtxCore_aborted (s : State) (i n : Nat) (f : CtxCore → CtxCore) : (s.updCtxCore i n f).aborted = s.aborted := by
  unfold State.updCtxCore; split <;> rfl
@[simp] theorem State.updCtxCore_begun (s : State) (i n : Nat) (f : CtxCore → CtxCore) : (s.updCtxCore i n f).begun = s.begun := by
  unfold State.updCtxCore; split <;> rfl
@[simp] theorem State.updCtxCore_early (s : State) (i n : Nat) (f : CtxCore → CtxCore) : (s.updCtxCore i n f).early = s.early := by
  unfold State.updCtxCore; split <;> rfl
@[simp] theorem State.updCtxCore_reserve (s : State) (i n : Nat) (f : CtxCore → CtxCore) : (s.updCtxCore i n f).reserve = s.reserve := by
  unfold State.updCtxCore; split <;> rfl
@[simp] theorem State.updCtxCore_nextId (s : State) (i n : Nat) (f : CtxCore → CtxCore) : (s.updCtxCore i n f).nextId = s.nextId := by
  unfold State.updCtxCore; split <;> rfl
@[simp] theorem State.updCtxCore_free (s : State) (i n : Nat) (f : CtxCore → CtxCore) : (s.updCtxCore i n f).free = s.free := by
  unfold State.updCtxCore; split <;> rfl
@[simp] theorem State.updCtxCore_turn (s : State) (i n : Nat) (f : CtxCore → CtxCore) : (s.updCtxCore i n f).turn = s.turn := by
  unfold State.updCtxCore; split <;> rfl
@[simp] theorem State.updCtxCore_issue (s : State) (i n : Nat) (f : CtxCore → CtxCore) : (s.updCtxCore i n f).issue = s.issue := by
  unfold State.updCtxCore; split <;> rfl
@[simp] theorem State.updCtxCore_agenda (s : State) (i n : Nat) (f : CtxCore → CtxCore) : (s.updCtxCore i n f).agenda = s.agenda := by
  unfold State.updCtxCore; split <;> rfl

/-! ## State.counted -/

@[simp] theorem State.counted_time (s : State) (e : Env) : (s.counted e).time = s.time := by
  unfold State.counted; split <;> rfl
@[simp] theorem State.counted_dev (s : State) (e : Env) : (s.counted e).dev = s.dev := by
  unfold State.counted; split <;> rfl
@[simp] theorem State.counted_mem (s : State) (e : Env) : (s.counted e).mem = s.mem := by
  unfold State.counted; split <;> rfl
@[simp] theorem State.counted_poison (s : State) (e : Env) : (s.counted e).poison = s.poison := by
  unfold State.counted; split <;> rfl
@[simp] theorem State.counted_dirty (s : State) (e : Env) : (s.counted e).dirty = s.dirty := by
  unfold State.counted; split <;> rfl
@[simp] theorem State.counted_directory (s : State) (e : Env) : (s.counted e).directory = s.directory := by
  unfold State.counted; split <;> rfl
@[simp] theorem State.counted_pool (s : State) (e : Env) : (s.counted e).pool = s.pool := by
  unfold State.counted; split <;> rfl
@[simp] theorem State.counted_ctxs (s : State) (e : Env) : (s.counted e).ctxs = s.ctxs := by
  unfold State.counted; split <;> rfl
@[simp] theorem State.counted_launches (s : State) (e : Env) : (s.counted e).launches = s.launches := by
  unfold State.counted; split <;> rfl
@[simp] theorem State.counted_waves (s : State) (e : Env) : (s.counted e).waves = s.waves := by
  unfold State.counted; split <;> rfl
@[simp] theorem State.counted_cores (s : State) (e : Env) : (s.counted e).cores = s.cores := by
  unfold State.counted; split <;> rfl
@[simp] theorem State.counted_ctxCores (s : State) (e : Env) : (s.counted e).ctxCores = s.ctxCores := by
  unfold State.counted; split <;> rfl
@[simp] theorem State.counted_ops (s : State) (e : Env) : (s.counted e).ops = s.ops := by
  unfold State.counted; split <;> rfl
@[simp] theorem State.counted_spawns (s : State) (e : Env) : (s.counted e).spawns = s.spawns := by
  unfold State.counted; split <;> rfl
@[simp] theorem State.counted_reuse (s : State) (e : Env) : (s.counted e).reuse = s.reuse := by
  unfold State.counted; split <;> rfl
@[simp] theorem State.counted_scenes (s : State) (e : Env) : (s.counted e).scenes = s.scenes := by
  unfold State.counted; split <;> rfl
@[simp] theorem State.counted_oldScenes (s : State) (e : Env) : (s.counted e).oldScenes = s.oldScenes := by
  unfold State.counted; split <;> rfl
@[simp] theorem State.counted_passes (s : State) (e : Env) : (s.counted e).passes = s.passes := by
  unfold State.counted; split <;> rfl
@[simp] theorem State.counted_cols (s : State) (e : Env) : (s.counted e).cols = s.cols := by
  unfold State.counted; split <;> rfl
@[simp] theorem State.counted_sentCols (s : State) (e : Env) : (s.counted e).sentCols = s.sentCols := by
  unfold State.counted; split <;> rfl
@[simp] theorem State.counted_aborted (s : State) (e : Env) : (s.counted e).aborted = s.aborted := by
  unfold State.counted; split <;> rfl
@[simp] theorem State.counted_begun (s : State) (e : Env) : (s.counted e).begun = s.begun := by
  unfold State.counted; split <;> rfl
@[simp] theorem State.counted_early (s : State) (e : Env) : (s.counted e).early = s.early := by
  unfold State.counted; split <;> rfl
@[simp] theorem State.counted_reserve (s : State) (e : Env) : (s.counted e).reserve = s.reserve := by
  unfold State.counted; split <;> rfl
@[simp] theorem State.counted_nextId (s : State) (e : Env) : (s.counted e).nextId = s.nextId := by
  unfold State.counted; split <;> rfl
@[simp] theorem State.counted_free (s : State) (e : Env) : (s.counted e).free = s.free := by
  unfold State.counted; split <;> rfl
@[simp] theorem State.counted_turn (s : State) (e : Env) : (s.counted e).turn = s.turn := by
  unfold State.counted; split <;> rfl
@[simp] theorem State.counted_issue (s : State) (e : Env) : (s.counted e).issue = s.issue := by
  unfold State.counted; split <;> rfl
@[simp] theorem State.counted_agenda (s : State) (e : Env) : (s.counted e).agenda = s.agenda := by
  unfold State.counted; split <;> rfl

/-! ## State.emit -/

@[simp] theorem State.emit_time (s : State) (m : HostMsg) : (s.emit m).time = s.time := by
  unfold State.emit; split <;> rfl
@[simp] theorem State.emit_mem (s : State) (m : HostMsg) : (s.emit m).mem = s.mem := by
  unfold State.emit; split <;> rfl
@[simp] theorem State.emit_poison (s : State) (m : HostMsg) : (s.emit m).poison = s.poison := by
  unfold State.emit; split <;> rfl
@[simp] theorem State.emit_dirty (s : State) (m : HostMsg) : (s.emit m).dirty = s.dirty := by
  unfold State.emit; split <;> rfl
@[simp] theorem State.emit_directory (s : State) (m : HostMsg) : (s.emit m).directory = s.directory := by
  unfold State.emit; split <;> rfl
@[simp] theorem State.emit_pool (s : State) (m : HostMsg) : (s.emit m).pool = s.pool := by
  unfold State.emit; split <;> rfl
@[simp] theorem State.emit_ctxs (s : State) (m : HostMsg) : (s.emit m).ctxs = s.ctxs := by
  unfold State.emit; split <;> rfl
@[simp] theorem State.emit_launches (s : State) (m : HostMsg) : (s.emit m).launches = s.launches := by
  unfold State.emit; split <;> rfl
@[simp] theorem State.emit_gangs (s : State) (m : HostMsg) : (s.emit m).gangs = s.gangs := by
  unfold State.emit; split <;> rfl
@[simp] theorem State.emit_waves (s : State) (m : HostMsg) : (s.emit m).waves = s.waves := by
  unfold State.emit; split <;> rfl
@[simp] theorem State.emit_cores (s : State) (m : HostMsg) : (s.emit m).cores = s.cores := by
  unfold State.emit; split <;> rfl
@[simp] theorem State.emit_ctxCores (s : State) (m : HostMsg) : (s.emit m).ctxCores = s.ctxCores := by
  unfold State.emit; split <;> rfl
@[simp] theorem State.emit_ops (s : State) (m : HostMsg) : (s.emit m).ops = s.ops := by
  unfold State.emit; split <;> rfl
@[simp] theorem State.emit_spawns (s : State) (m : HostMsg) : (s.emit m).spawns = s.spawns := by
  unfold State.emit; split <;> rfl
@[simp] theorem State.emit_reuse (s : State) (m : HostMsg) : (s.emit m).reuse = s.reuse := by
  unfold State.emit; split <;> rfl
@[simp] theorem State.emit_scenes (s : State) (m : HostMsg) : (s.emit m).scenes = s.scenes := by
  unfold State.emit; split <;> rfl
@[simp] theorem State.emit_oldScenes (s : State) (m : HostMsg) : (s.emit m).oldScenes = s.oldScenes := by
  unfold State.emit; split <;> rfl
@[simp] theorem State.emit_passes (s : State) (m : HostMsg) : (s.emit m).passes = s.passes := by
  unfold State.emit; split <;> rfl
@[simp] theorem State.emit_cols (s : State) (m : HostMsg) : (s.emit m).cols = s.cols := by
  unfold State.emit; split <;> rfl
@[simp] theorem State.emit_sentCols (s : State) (m : HostMsg) : (s.emit m).sentCols = s.sentCols := by
  unfold State.emit; split <;> rfl
@[simp] theorem State.emit_aborted (s : State) (m : HostMsg) : (s.emit m).aborted = s.aborted := by
  unfold State.emit; split <;> rfl
@[simp] theorem State.emit_begun (s : State) (m : HostMsg) : (s.emit m).begun = s.begun := by
  unfold State.emit; split <;> rfl
@[simp] theorem State.emit_early (s : State) (m : HostMsg) : (s.emit m).early = s.early := by
  unfold State.emit; split <;> rfl
@[simp] theorem State.emit_reserve (s : State) (m : HostMsg) : (s.emit m).reserve = s.reserve := by
  unfold State.emit; split <;> rfl
@[simp] theorem State.emit_nextId (s : State) (m : HostMsg) : (s.emit m).nextId = s.nextId := by
  unfold State.emit; split <;> rfl
@[simp] theorem State.emit_free (s : State) (m : HostMsg) : (s.emit m).free = s.free := by
  unfold State.emit; split <;> rfl
@[simp] theorem State.emit_turn (s : State) (m : HostMsg) : (s.emit m).turn = s.turn := by
  unfold State.emit; split <;> rfl
@[simp] theorem State.emit_issue (s : State) (m : HostMsg) : (s.emit m).issue = s.issue := by
  unfold State.emit; split <;> rfl
@[simp] theorem State.emit_agenda (s : State) (m : HostMsg) : (s.emit m).agenda = s.agenda := by
  unfold State.emit; split <;> rfl

end Sys2Proof.Machine
end

