-- ==== Sys2Proof/Laws/Wave.lean ====
section
/-! SUPPORT. Laws of a wave: which of its parts each operation changes, its lanes after a write, its frontier after a
move. -/

namespace Sys2Proof.Machine

/-! ## Waves of the state -/

theorem State.wave?_updWave {s : State} {i : Nat} {f : Wave → Wave} (hf : ∀ w, (f w).id = w.id) (j : Nat) :
    (s.updWave i f).wave? j = (s.wave? j).map (fun w => if w.id = i then f w else w) := by
  have hp : ((fun w : Wave => w.id == j) ∘ fun w => if w.id = i then f w else w) = fun w => w.id == j := by
    funext w
    simp only [Function.comp]
    split
    · rw [hf]
    · rfl
  simp only [State.wave?, State.updWave, List.find?_map, hp]

theorem State.wave?_id {s : State} {j : Nat} {w : Wave} (h : s.wave? j = some w) : w.id = j := by
  simpa using List.find?_some h

theorem State.wave?_updWave_self {s : State} {i : Nat} {f : Wave → Wave} {w : Wave} (hf : ∀ w, (f w).id = w.id)
    (h : s.wave? i = some w) : (s.updWave i f).wave? i = some (f w) := by
  rw [State.wave?_updWave hf, h]
  simp [State.wave?_id h]

theorem State.wave?_updWave_ne {s : State} {i j : Nat} {f : Wave → Wave} (hf : ∀ w, (f w).id = w.id) (hj : j ≠ i) :
    (s.updWave i f).wave? j = s.wave? j := by
  rw [State.wave?_updWave hf]
  cases h : s.wave? j with
  | none => rfl
  | some w => simp [State.wave?_id h, hj]

/-- A wave's number is never changed. -/
theorem State.wave?_congr {s t : State} (h : t.waves = s.waves) (j : Nat) : t.wave? j = s.wave? j := by
  simp only [State.wave?, h]

/-! ## What stays of a wave -/

@[simp] theorem Wave.kept_refl (w : Wave) : w.kept w := rfl

theorem Wave.kept.trans {a b c : Wave} (h1 : a.kept b) (h2 : b.kept c) : a.kept c := by
  unfold Wave.kept at h1 h2 ⊢
  rw [h2, h1]

theorem Wave.kept.id {w t : Wave} (h : w.kept t) : t.id = w.id := by rw [h]
theorem Wave.kept.maxEntries {w t : Wave} (h : w.kept t) : t.maxEntries = w.maxEntries := by rw [h]
theorem Wave.kept.regs {w t : Wave} (h : w.kept t) : t.regs = w.regs := by rw [h]

theorem Wave.kept_updLane (w : Wave) (l : Nat) (f : Lane → Lane) : w.kept (w.updLane l f) := rfl
theorem Wave.kept_mapLanes (w : Wave) (f : Nat → Lane → Lane) : w.kept (w.mapLanes f) := rfl
theorem Wave.kept_frontier (w : Wave) (es : List Entry) : w.kept { w with frontier := es } := rfl
theorem Wave.kept_latch (w : Wave) (t : Option Latch) : w.kept { w with latch := t } := rfl

theorem Wave.kept_touched (w : Wave) (l : Nat) (s : Slot) (n : Nat) : w.kept (w.touched l s n) := by
  cases s <;> simp only [Wave.touched, Wave.touchedA] <;> split <;> (try split) <;> rfl

theorem Wave.kept_land (w : Wave) (l : Nat) (s : Slot) (ws : List PWord) : w.kept (w.land l s ws) :=
  (Wave.kept_updLane w l _).trans (Wave.kept_touched _ l s _)

theorem Wave.kept_foldl {α : Type} (f : Wave → α → Wave) (h : ∀ (w : Wave) (a : α), w.kept (f w a)) (l : List α) (w : Wave) :
    w.kept (l.foldl f w) := by
  induction l generalizing w with
  | nil => exact Wave.kept_refl w
  | cons a t ih => exact (h w a).trans (ih (f w a))

theorem Wave.kept_count (w : Wave) (env : Env) : w.kept (w.count env) := rfl

theorem Wave.kept_fillLatch (w : Wave) (act : Mask) (F : Form) : w.kept (w.fillLatch act F) := by
  unfold Wave.fillLatch
  split
  · split <;> rfl
  · rfl

theorem Wave.kept_writeAll (w : Wave) (lt : Bool) (rs : List (Nat × Slot × List PWord)) : w.kept (w.writeAll lt rs) := by
  refine Wave.kept_foldl _ (fun w r => ?_) rs w
  dsimp only
  split
  · exact (Wave.kept_land _ _ _ _).trans (Wave.kept_updLane _ _ _)
  · exact Wave.kept_land _ _ _ _

/-! ## Lanes -/

theorem Wave.lane_updLane (w : Wave) (l k : Nat) (f : Lane → Lane) :
    (w.updLane l f).lane k = if l = k ∧ l < w.lanes.length then f (w.lane l) else w.lane k := by
  simp only [Wave.updLane, Wave.lane]
  exact putAt_getD _ _ _ _ _

@[simp] theorem Wave.updLane_lanes_length (w : Wave) (l : Nat) (f : Lane → Lane) :
    (w.updLane l f).lanes.length = w.lanes.length := by simp [Wave.updLane]

@[simp] theorem Wave.touched_lanes (w : Wave) (l : Nat) (s : Slot) (n : Nat) : (w.touched l s n).lanes = w.lanes := by
  cases s <;> simp only [Wave.touched, Wave.touchedA] <;> split <;> (try split) <;> rfl

theorem Wave.lane_land (w : Wave) (l k : Nat) (s : Slot) (ws : List PWord) :
    (w.land l s ws).lane k = if l = k ∧ l < w.lanes.length then (w.lane l).put s ws else w.lane k := by
  have : (w.land l s ws).lane k = (w.updLane l (fun lane => lane.put s ws)).lane k := by
    simp only [Wave.land, Wave.lane, Wave.touched_lanes]
  rw [this, Wave.lane_updLane]

@[simp] theorem Wave.land_lanes_length (w : Wave) (l : Nat) (s : Slot) (ws : List PWord) :
    (w.land l s ws).lanes.length = w.lanes.length := by simp [Wave.land]

/-- Lanes of a list, each changed once. -/
theorem Wave.lane_foldl_updLane {α : Type} (key : α → Nat) (f : α → Lane → Lane) (step : Wave → α → Wave)
    (hs : ∀ w a k, (step w a).lane k = if key a = k ∧ key a < w.lanes.length then f a (w.lane (key a)) else w.lane k)
    (hl : ∀ w a, (step w a).lanes.length = w.lanes.length) (as : List α) (hn : (as.map key).Nodup) (w : Wave)
    (hw : ∀ a ∈ as, key a < w.lanes.length) (k : Nat) :
    (∀ a ∈ as, key a = k → (as.foldl step w).lane k = f a (w.lane k)) ∧
    (k ∉ as.map key → (as.foldl step w).lane k = w.lane k) := by
  induction as generalizing w with
  | nil => simp
  | cons a t ih =>
    rw [List.map_cons, List.nodup_cons] at hn
    have ih' := ih hn.2 (step w a) (fun b hb => by rw [hl]; exact hw b (.tail _ hb))
    have ha := hw a (.head _)
    constructor
    · intro b hb hk
      rcases List.mem_cons.mp hb with e | e
      · rw [e] at hk ⊢
        have hnk : k ∉ t.map key := by rw [← hk]; exact hn.1
        rw [List.foldl_cons, ih'.2 hnk, hs, if_pos ⟨hk, ha⟩, hk]
      · rw [List.foldl_cons, ih'.1 b e hk, hs, if_neg]
        rintro ⟨e2, -⟩
        exact hn.1 (e2.trans hk.symm ▸ List.mem_map_of_mem e)
    · intro hk
      simp only [List.map_cons, List.mem_cons, not_or] at hk
      rw [List.foldl_cons, ih'.2 hk.2, hs, if_neg]
      rintro ⟨e, -⟩
      exact hk.1 e.symm

theorem Lane.pop_nil (l : Lane) : l.pop [] = l := rfl

theorem indexed_map_getD {α β : Type} (d : α) (d' : β) (l : List α) (f : Nat → α → β) {i : Nat} (h : i < l.length) :
    ((indexed l).map (fun x => f x.1 x.2)).getD i d' = f i (l.getD i d) := by
  simp [indexed, List.getD_eq_getElem?_getD, h]

theorem indexed_length {α : Type} (l : List α) : (indexed l).length = l.length := by simp [indexed]

theorem Wave.lane_mapLanes (w : Wave) (f : Nat → Lane → Lane) {k : Nat} (h : k < w.lanes.length) :
    (w.mapLanes f).lane k = f k (w.lane k) := by
  simp only [Wave.lane, Wave.mapLanes]
  exact indexed_map_getD _ _ _ _ h

@[simp] theorem Wave.mapLanes_lanes_length (w : Wave) (f : Nat → Lane → Lane) :
    (w.mapLanes f).lanes.length = w.lanes.length := by simp [Wave.mapLanes, indexed_length]

/-! ## The frontier -/

/-- An entry of a list stands unblocked at a key with a priority and holds lane l. -/
def stands (es : List Entry) (l pc depth prio : Nat) : Bool :=
  es.any (fun e => e.pc == pc && e.depth == depth && e.block == .none && hasLane e.mask l && decide (prio ≤ e.prio))

theorem hasLane_or (a b : Mask) (l : Nat) : hasLane (a ||| b) l = (hasLane a l || hasLane b l) := by simp [hasLane]

theorem hasLane_zero (l : Nat) : hasLane 0 l = false := by simp [hasLane]

/-- An arrival stands at its key. -/
theorem stands_arrive_self (es : List Entry) (n : Entry) (hb : n.block = .none) (l prio : Nat) (h : hasLane n.mask l = true)
    (hp : prio ≤ n.prio) : stands (arrive es n) l n.pc n.depth prio = true := by
  have hm : n.mask ≠ 0 := fun e => by rw [e, hasLane_zero] at h; exact Bool.noConfusion h
  unfold arrive
  rw [if_neg hm]
  dsimp only
  split
  · next hf =>
    obtain ⟨x, hx, hfit⟩ := List.any_eq_true.mp hf
    refine List.any_eq_true.mpr ⟨_, List.mem_map_of_mem hx, ?_⟩
    rw [if_pos hfit]
    simp only [Bool.and_eq_true, beq_iff_eq, decide_eq_true_eq] at hfit ⊢
    exact ⟨⟨⟨⟨hfit.1.1, hfit.1.2⟩, trivial⟩, by rw [hasLane_or, h, Bool.or_true]⟩, le_max_of_le_right hp⟩
  · refine List.any_eq_true.mpr ⟨n, by simp, ?_⟩
    simp [hb, h, hp]

/-- Those that stood still stand. -/
theorem stands_arrive_mono (es : List Entry) (n : Entry) (l pc depth prio : Nat) (h : stands es l pc depth prio = true) :
    stands (arrive es n) l pc depth prio = true := by
  unfold arrive
  split
  · exact h
  · dsimp only
    obtain ⟨x, hx, hs⟩ := List.any_eq_true.mp h
    split
    · refine List.any_eq_true.mpr ⟨_, List.mem_map_of_mem hx, ?_⟩
      split
      · simp only [Bool.and_eq_true, beq_iff_eq, decide_eq_true_eq] at hs ⊢
        exact ⟨⟨⟨hs.1.1.1, trivial⟩, by rw [hasLane_or, hs.1.2, Bool.true_or]⟩, le_max_of_le_left hs.2⟩
      · exact hs
    · exact List.any_eq_true.mpr ⟨x, by simp [hx], hs⟩

theorem arrive_length (es : List Entry) (n : Entry) : (arrive es n).length ≤ es.length + 1 := by
  unfold arrive
  split
  · omega
  · dsimp only; split <;> simp

theorem passOver_length (env : Env) (es : List Entry) : (passOver env es).length = es.length := by simp [passOver]

theorem passOver_isAt (env : Env) (e : Entry) (pc depth : Nat) (es : List Entry) (h : e ∈ es) (ha : e.isAt pc depth = true) :
    ∃ x ∈ passOver env es, x.isAt pc depth = true := by
  refine ⟨_, List.mem_map_of_mem h, ?_⟩
  split
  · exact ha
  · split <;> exact ha

/-- The entry that issues leaves room for one. -/
theorem rest_length (es : List Entry) (pc depth : Nat) (h : ∃ x ∈ es, x.isAt pc depth = true) :
    (es.filter (fun e => !(e.isAt pc depth))).length + 1 ≤ es.length := by
  obtain ⟨x, hx, ha⟩ := h
  have := List.length_filter_lt_length_iff_exists (p := fun e : Entry => !(e.isAt pc depth)) (l := es) |>.mpr
    ⟨x, hx, by simp [ha]⟩
  omega

end Sys2Proof.Machine
end

