-- ==== Sys2Proof/Laws/Run.lean ====
section
/-! SUPPORT. Laws of issuing an instruction: what `Form.completes` gives, the state an effect starts from, the fall-through,
and what the two shapes of a computation (registers, predicates) leave. -/

namespace Sys2Proof.Machine

/-! ## Hypotheses, one by one -/

theorem Form.issues_iff {F : Form} {env : Env} : F.issues env = true ↔
    F.legal env = true ∧ F.regionBad env = false ∧ env.act ≠ 0 ∧ (F.notPure && !env.pureLanes.isEmpty) = false ∧
      env.is.residue = 0 ∧ env.w.lanes.length = 32 ∧
      env.w.frontier.length + env.w.heldEntries.length ≤ env.w.maxEntries := by
  simp only [Form.issues, Bool.and_eq_true, Bool.not_eq_true', bne_iff_ne, beq_iff_eq, decide_eq_true_eq, and_assoc]

theorem Form.completes_iff {F : Form} {env : Env} : F.completes env = true ↔
    F.legal env = true ∧ F.regionBad env = false ∧ env.act ≠ 0 ∧ (F.notPure && !env.pureLanes.isEmpty) = false ∧
      env.is.residue = 0 ∧ (!env.is.last || env.headers.contains env.is.next) = true ∧ env.w.lanes.length = 32 ∧
      env.w.frontier.length + env.w.heldEntries.length ≤ env.w.maxEntries := by
  rw [Form.completes, Bool.and_eq_true, Form.issues_iff, Env.nextOk]
  tauto

/-- The environment is the state's own wave and entry. -/
theorem State.env?_wave {s : State} {p : Nat} {n : Bool} {env : Env} (h : s.env? p n = some env) :
    s.wave? env.w.id = some env.w ∧ env.e ∈ env.w.frontier ∧ env.e.isAt env.is.pc env.is.depth = true ∧
      env.act = guardMask env.w env.e.mask p n := by
  unfold State.env? at h
  split at h
  · cases h
  · split at h
    · cases h
    · next w hw =>
      split at h
      · next e cx he hc =>
        cases h
        refine ⟨?_, List.mem_of_find?_eq_some he, ?_, rfl⟩
        · rw [State.wave?_id hw]; exact hw
        · simpa using List.find?_some he
      · cases h

/-! ## Running -/

/-- An effect that answers a state is the instruction's next state. -/
theorem State.run_next {s t : State} {F : Form} {k : Env → State → Res} {env : Env}
    (he : s.env? F.pidx F.pneg = some env) (hc : F.issues env = true) (hk : k env (s.begin_ env F) = .ok t) :
    s.run F k = .next t := by
  obtain ⟨h1, h2, h3, h4, -⟩ := Form.issues_iff.mp hc
  have h3' : ¬(env.act = 0#32 ∧ F.always = false) := fun e => h3 e.1
  simp only [State.run, he, h1, h2, h4]
  simp [h3', hk]

theorem Form.completes.issues {F : Form} {env : Env} (h : F.completes env = true) : F.issues env = true := by
  rw [Form.completes, Bool.and_eq_true] at h
  exact h.1

/-- An instruction of Glezu always answers a next state when its wave stands there. -/
theorem State.run_total {s : State} {F : Form} {k : Env → State → Res} {env : Env}
    (he : s.env? F.pidx F.pneg = some env) : ∃ t, s.run F k = .next t := by
  simp only [State.run, he]
  split
  · exact ⟨_, rfl⟩
  · split
    · exact ⟨_, rfl⟩
    · split <;> exact ⟨_, rfl⟩

/-! ## The state an effect starts from -/

/-- The wave after the pops, the counts and the latch. -/
def Env.begun (env : Env) (F : Form) : Wave :=
  Wave.fillLatch ((if F.pops.isEmpty then env.w
    else env.w.mapLanes (fun l lane => if hasLane env.act l then lane.pop F.pops else lane)).count env) env.act F

@[simp] theorem Wave.fillLatch_lanes (w : Wave) (m : Mask) (F : Form) : (w.fillLatch m F).lanes = w.lanes := by
  unfold Wave.fillLatch
  split
  · split <;> rfl
  · rfl

@[simp] theorem Wave.fillLatch_frontier (w : Wave) (m : Mask) (F : Form) : (w.fillLatch m F).frontier = w.frontier := by
  unfold Wave.fillLatch
  split
  · split <;> rfl
  · rfl

theorem Env.begun_kept (env : Env) (F : Form) : env.w.kept (env.begun F) := by
  refine Wave.kept.trans ?_ (Wave.kept_fillLatch _ _ _)
  split
  · exact Wave.kept_count _ _
  · exact (Wave.kept_mapLanes _ _).trans (Wave.kept_count _ _)

theorem Env.begun_frontier (env : Env) (F : Form) : (env.begun F).frontier = passOver env env.w.frontier := by
  rw [Env.begun, Wave.fillLatch_frontier]
  split <;> rfl

theorem Env.begun_length (env : Env) (F : Form) : (env.begun F).lanes.length = env.w.lanes.length := by
  rw [Env.begun, Wave.fillLatch_lanes]
  split
  · rfl
  · exact Wave.mapLanes_lanes_length env.w (fun l lane => if hasLane env.act l then lane.pop F.pops else lane)

theorem Env.begun_lane (env : Env) (F : Form) {l : Nat} (h : l < env.w.lanes.length) :
    (env.begun F).lane l = if hasLane env.act l then (env.w.lane l).pop F.pops else env.w.lane l := by
  have hl : (env.begun F).lane l = (if F.pops.isEmpty then env.w
      else env.w.mapLanes (fun l lane => if hasLane env.act l then lane.pop F.pops else lane)).lane l := by
    simp only [Wave.lane, Env.begun, Wave.fillLatch_lanes]
    split <;> rfl
  rw [hl]
  split
  · next h0 =>
    rw [List.isEmpty_iff.mp h0, Lane.pop_nil, ite_self]
  · exact Wave.lane_mapLanes _ _ h

theorem State.begin_wave {s : State} {env : Env} {F : Form} (h : s.wave? env.w.id = some env.w) :
    (s.begin_ env F).wave? env.w.id = some (env.begun F) := by
  have hc : ∀ f : Wave → Wave, (∀ w : Wave, w.kept (f w)) → ∀ w, (f w).id = w.id := fun f hf w => (hf w).id
  have h1 : (s.pop env F).wave? env.w.id = some (if F.pops.isEmpty then env.w
      else env.w.mapLanes (fun l lane => if hasLane env.act l then lane.pop F.pops else lane)) := by
    unfold State.pop
    split
    · exact h
    · exact State.wave?_updWave_self (hc _ fun w => Wave.kept_mapLanes w _) h
  have h2 := State.wave?_updWave_self (f := fun w => (w.count env).fillLatch env.act F)
    (hc _ fun w => (Wave.kept_count w env).trans (Wave.kept_fillLatch _ _ _)) h1
  unfold State.begin_
  dsimp only
  split
  · exact h2
  · exact h2

theorem State.pop_waves (s : State) (env : Env) (F : Form) : s.pop env F = { s with waves := (s.pop env F).waves } := by
  unfold State.pop
  split <;> rfl

theorem State.pop_ne {s : State} {env : Env} {F : Form} {j : Nat} (hj : j ≠ env.w.id) :
    (s.pop env F).wave? j = s.wave? j := by
  unfold State.pop
  split
  · rfl
  · exact State.wave?_updWave_ne (fun w => (Wave.kept_mapLanes w _).id) hj

theorem State.begin_eq (s : State) (env : Env) (F : Form) :
    s.begin_ env F = { s with waves := (s.begin_ env F).waves, gangs := (s.counted env).gangs } := by
  unfold State.begin_ State.counted
  dsimp only
  rw [State.pop_waves]
  cases env.w.gang <;> rfl

theorem State.begin_ne {s : State} {env : Env} {F : Form} {j : Nat} (hj : j ≠ env.w.id) :
    (s.begin_ env F).wave? j = s.wave? j := by
  have h1 : ((s.pop env F).updWave env.w.id (fun w => (w.count env).fillLatch env.act F)).wave? j = s.wave? j := by
    rw [State.wave?_updWave_ne _ hj, State.pop_ne hj]
    exact fun w => ((Wave.kept_count w env).trans (Wave.kept_fillLatch _ _ _)).id
  unfold State.begin_
  dsimp only
  split
  · exact h1
  · exact h1

/-- The issue slot touches the issuing wave and its group's count alone. -/
theorem State.begin_onlyWave (s : State) (env : Env) (F : Form) : s.onlyWave env (s.begin_ env F) :=
  ⟨State.begin_eq s env F, fun _ hj => State.begin_ne hj⟩

/-- A further change of the issuing wave stays inside `onlyWave`. -/
theorem State.onlyWave.updWave {s t : State} {env : Env} (h : s.onlyWave env t) {f : Wave → Wave}
    (hf : ∀ w : Wave, w.kept (f w)) : s.onlyWave env (t.updWave env.w.id f) := by
  refine ⟨?_, fun j hj => ?_⟩
  · rw [State.updWave, h.1]
  · rw [State.wave?_updWave_ne (fun w => (hf w).id) hj, h.2 j hj]

/-! ## Computing per lane -/

theorem Env.each_ok {α : Type} {env : Env} {g : Nat → Lane → Try α} {v : Nat → α}
    (h : ∀ l ∈ env.lanes, g l (env.w.lane l) = .ok (v l)) : env.each g = .ok (env.lanes.map (fun l => (l, v l))) := by
  have h1 : ∀ ls : List Nat, (∀ l ∈ ls, g l (env.w.lane l) = .ok (v l)) →
      (ls.map (fun l => (l, g l (env.w.lane l)))).filterMap
          (fun r => match r.2 with | .error c => some (r.1, c) | .ok _ => none) = [] ∧
      (ls.map (fun l => (l, g l (env.w.lane l)))).filterMap
          (fun r => match r.2 with | .ok a => some (r.1, a) | .error _ => none) = ls.map (fun l => (l, v l)) := by
    intro ls
    induction ls with
    | nil => intro _; exact ⟨rfl, rfl⟩
    | cons a t ih =>
      intro h
      obtain ⟨i1, i2⟩ := ih fun l hl => h l (.tail _ hl)
      have ha := h a (.head _)
      constructor
      · simp only [List.map_cons, List.filterMap_cons, ha]; exact i1
      · simp only [List.map_cons, List.filterMap_cons, ha]; rw [i2]
  obtain ⟨i1, i2⟩ := h1 env.lanes h
  show (if (List.filterMap _ _).isEmpty = true then _ else _) = _
  erw [i1, i2]
  rfl

/-- One lane whose reading fails makes the whole form raise. -/
theorem Env.each_error {α : Type} {env : Env} {g : Nat → Lane → Try α} {l c : Nat} (hl : l ∈ env.lanes)
    (h : g l (env.w.lane l) = .error c) : ∃ r, env.each g = .error r := by
  unfold Env.each
  dsimp only
  split
  · next he =>
    exfalso
    rw [List.isEmpty_iff, List.filterMap_eq_nil_iff] at he
    have := he _ (List.mem_map_of_mem hl)
    simp only [h] at this
    cases this
  · exact ⟨_, rfl⟩

theorem both_ok {α β : Type} (a : α) (b : β) : both (.ok a) (.ok b) = .ok (a, b) := rfl

theorem Env.compute_ok {env : Env} {F : Form} {g : Nat → Lane → Try (List PWord)} {sl : Nat → Slot}
    {ws : Nat → List PWord} (hs : ∀ l ∈ env.lanes, F.d.slot env.w.regs (env.w.lane l) = .ok (sl l))
    (hg : ∀ l ∈ env.lanes, g l (env.w.lane l) = .ok (ws l)) :
    env.compute F g = .ok (env.lanes.map (fun l => (l, sl l, ws l))) := by
  refine Env.each_ok (v := fun l => (sl l, ws l)) fun l hl => ?_
  rw [hs l hl, hg l hl, both_ok]

theorem Env.residueLanes_nil {env : Env} (h : env.is.residue = 0) (b : Bool) : env.residueLanes b = [] := by
  have : ∀ l ∈ laneList, hasLane (env.act &&& env.is.residue) l = false := by
    intro l _
    simp [h, hasLane]
  unfold Env.residueLanes
  split
  · rw [lanesOf, List.filter_eq_nil_iff]
    intro l hl
    rw [this l hl]
    exact Bool.false_ne_true
  · rfl

/-! ## Falling through -/

/-- The fall-through's entry. -/
def Env.fallEntry (env : Env) : Entry :=
  { pc := env.is.next, depth := env.e.depth, prio := env.e.prio, mask := maskOf (lanesOf env.e.mask),
    clause := if !env.is.last then env.within else none }

theorem maskOf_lanesOf (m : Mask) : maskOf (lanesOf m) = m := by
  apply BitVec.eq_of_getLsbD_eq
  intro i hi
  have := hasLane_maskOf (ls := lanesOf m) (fun k hk => hasLane_lt (mem_lanesOf.mp hk)) i
  simp only [hasLane] at this
  rw [this]
  by_cases h : m.getLsbD i = true
  · simp [h, hasLane]
  · simp [h, hasLane]

theorem formEntries_falls (env : Env) (h : env.e.mask ≠ 0) :
    formEntries env (env.falls env.e.mask) = [env.fallEntry] := by
  have hne : lanesOf env.e.mask ≠ [] := fun e => h (by rw [← maskOf_lanesOf env.e.mask, e]; rfl)
  have keys : ∀ (ls : List Nat) (g : Go), g.pc = env.is.next → g.depth = env.e.depth →
      (ls.map (fun l => ({ lane := l, pc := env.is.next, depth := env.e.depth, prio := env.e.prio } : Go))).foldl
        (fun ks g => if ks.any (fun k => k.pc == g.pc && k.depth == g.depth) then ks else ks ++ [g]) [g] = [g] := by
    intro ls g hp hd
    induction ls with
    | nil => rfl
    | cons a t ih => simp only [List.map_cons, List.foldl_cons, List.any_cons, hp, hd]; simpa using ih
  have prios : ∀ (ls : List Nat) (p : Nat), (ls.map (fun _ => p)).foldl max p = p := by
    intro ls p
    induction ls with
    | nil => rfl
    | cons a t ih => simpa using ih
  obtain ⟨a, t, hat⟩ := List.exists_cons_of_ne_nil hne
  unfold formEntries Env.falls
  have hk := keys t { lane := a, pc := env.is.next, depth := env.e.depth, prio := env.e.prio } rfl rfl
  dsimp only
  rw [hat]
  simp only [List.map_cons, List.foldl_cons, List.any_nil]
  simp only [Bool.false_eq_true, if_false, List.nil_append, hk, List.map_cons, List.map_nil]
  have hf : ∀ ls : List Nat, (ls.map (fun l =>
      ({ lane := l, pc := env.is.next, depth := env.e.depth, prio := env.e.prio } : Go))).filter
        (fun g => g.pc == env.is.next && g.depth == env.e.depth) = ls.map (fun l =>
      ({ lane := l, pc := env.is.next, depth := env.e.depth, prio := env.e.prio } : Go)) := by
    intro ls
    rw [List.filter_eq_self]
    intro g hg
    obtain ⟨l, -, rfl⟩ := List.mem_map.mp hg
    simp
  have hf2 := hf (a :: t)
  simp only [List.map_cons] at hf2
  rw [hf2]
  simp only [List.map_cons, List.map_map, Function.comp_def, List.map_id', List.foldl_cons, Nat.zero_max, prios,
    Env.fallEntry, hat, true_and]

/-- The fall-through of a wave that may go on (R338). -/
theorem Env.fall_ok {env : Env} {s : State} {w : Wave} (hw : s.wave? env.w.id = some w)
    (hf : w.frontier = passOver env env.w.frontier) (he : env.e ∈ env.w.frontier)
    (ha : env.e.isAt env.is.pc env.is.depth = true) (hm : env.e.mask ≠ 0)
    (hn : (!env.is.last || env.headers.contains env.is.next) = true)
    (hh : w.heldEntries = env.w.heldEntries)
    (hl : env.w.frontier.length + env.w.heldEntries.length ≤ env.w.maxEntries) :
    ∃ es, env.fall s = .ok (s.updWave env.w.id (fun w => { w with frontier := es })) ∧
      ∀ l ∈ lanesOf env.e.mask, stands es l env.is.next env.e.depth env.e.prio = true := by
  have hbad : env.badTargets (env.falls env.e.mask) = [] := by
    unfold Env.badTargets Env.falls
    rw [List.map_eq_nil_iff, List.filter_eq_nil_iff]
    intro g hg
    obtain ⟨l, -, rfl⟩ := List.mem_map.mp hg
    simp only [beq_self_eq_true, Bool.true_and, hn]
    decide
  have hrest := rest_length w.frontier env.is.pc env.is.depth (by
    rw [hf]; exact passOver_isAt env env.e _ _ _ he ha)
  have hlen := arrive_length (w.frontier.filter (fun e => !(e.isAt env.is.pc env.is.depth))) env.fallEntry
  have hpl := passOver_length env env.w.frontier
  refine ⟨arrive (w.frontier.filter (fun e => !(e.isAt env.is.pc env.is.depth))) env.fallEntry, ?_, fun l hl2 => ?_⟩
  · unfold Env.fall Env.go
    rw [hbad, formEntries_falls env hm]
    simp only [List.isEmpty_nil, if_true]
    unfold Env.replace
    rw [hw]
    simp only [Option.getD_some, List.foldl_cons, List.foldl_nil]
    refine if_neg ?_
    rw [hh]
    rw [hf] at hrest hlen ⊢
    omega
  · exact stands_arrive_self _ env.fallEntry rfl l _ (by
      simp only [Env.fallEntry, maskOf_lanesOf]; exact mem_lanesOf.mp hl2) le_rfl

/-- Active lanes are lanes of the entry. -/
theorem Env.mask_ne_zero {env : Env} {p : Nat} {n : Bool} (h : env.act = guardMask env.w env.e.mask p n)
    (ha : env.act ≠ 0) : env.e.mask ≠ 0 := by
  intro e
  apply ha
  rw [h, guardMask, e]
  exact BitVec.zero_and

/-- AN EFFECT OF REGISTERS: an effect that changes the issuing wave alone, in what `kept` lets differ and not its
frontier, and falls through. -/
theorem State.wrote_of_fall {s s2 : State} {F : Form} {env : Env} {w : Wave} {lanes : Nat → Lane}
    (he : s.env? F.pidx F.pneg = some env) (hc : F.completes env = true) (ho : s.onlyWave env s2)
    (hw : s2.wave? env.w.id = some w) (hk : env.w.kept w) (hf : w.frontier = passOver env env.w.frontier)
    (hl : ∀ l ∈ laneList, w.lane l = lanes l) :
    ∃ t, env.fall s2 = .ok t ∧ s.wrote env lanes (.next t) := by
  obtain ⟨h1, h2, h3, h4⟩ := State.env?_wave he
  obtain ⟨-, -, c3, -, -, c6, -, c8⟩ := Form.completes_iff.mp hc
  obtain ⟨es, e1, e2⟩ := Env.fall_ok hw hf h2 h3 (Env.mask_ne_zero h4 c3) c6 (by rw [hk]) c8
  refine ⟨_, e1, _, { w with frontier := es }, rfl, ho.updWave fun w => Wave.kept_frontier w es,
    State.wave?_updWave_self (fun _ => rfl) hw, hk.trans (Wave.kept_frontier w es), e2, hl⟩

/-! ## The two shapes of a computation -/

theorem Wave.writeAll_frontier (w : Wave) (lt : Bool) (rs : List (Nat × Slot × List PWord)) :
    (w.writeAll lt rs).frontier = w.frontier := by
  unfold Wave.writeAll
  induction rs generalizing w with
  | nil => rfl
  | cons r t ih =>
    rw [List.foldl_cons, ih]
    have hf : ∀ (w : Wave) (l : Nat) (s : Slot) (n : Nat), (w.touched l s n).frontier = w.frontier := by
      intro w l s n
      cases s <;> simp only [Wave.touched, Wave.touchedA] <;> split <;> (try split) <;> rfl
    dsimp only
    split
    · exact hf _ _ _ _
    · exact hf _ _ _ _

theorem Wave.writeAll_lane (w : Wave) (lt : Bool) (ls : List Nat) (hn : ls.Nodup) (hb : ∀ l ∈ ls, l < w.lanes.length)
    (sl : Nat → Slot) (ws : Nat → List PWord) (k : Nat) :
    (w.writeAll lt (ls.map (fun l => (l, sl l, ws l)))).lane k =
      if k ∈ ls then (if lt then ((w.lane k).put (sl k) (ws k)).latched (ws k) else (w.lane k).put (sl k) (ws k))
      else w.lane k := by
  have key := Wave.lane_foldl_updLane (fun r : Nat × Slot × List PWord => r.1)
    (fun r lane => if lt then (lane.put r.2.1 r.2.2).latched r.2.2 else lane.put r.2.1 r.2.2)
    (fun w r =>
      let w := w.land r.1 r.2.1 r.2.2
      if lt then w.updLane r.1 (fun lane => { lane with lt := { lo := wordAt r.2.2 0, hi := wordAt r.2.2 1 } }) else w)
    (fun w r k => by
      cases lt
      · exact Wave.lane_land _ _ _ _ _
      · simp only [if_true, Wave.lane_updLane, Wave.lane_land, Wave.land_lanes_length, Lane.latched]
        by_cases h : r.1 = k ∧ r.1 < w.lanes.length
        · rw [if_pos h, if_pos h, if_pos ⟨trivial, h.2⟩]
        · rw [if_neg h, if_neg h, if_neg h])
    (fun w r => by cases lt <;> simp)
    (ls.map (fun l => (l, sl l, ws l))) (by simpa [List.map_map, Function.comp_def] using hn) w
    (by intro r hr; obtain ⟨l, hl, rfl⟩ := List.mem_map.mp hr; exact hb l hl) k
  by_cases hk : k ∈ ls
  · rw [if_pos hk]
    exact key.1 _ (List.mem_map_of_mem hk) rfl
  · rw [if_neg hk]
    exact key.2 (by simpa [List.map_map, Function.comp_def] using hk)

theorem Env.lanes_lt {env : Env} {l : Nat} (h : l ∈ env.lanes) : l < 32 := hasLane_lt (mem_lanesOf.mp h)

/-- A computation of registers completes (R216 to R218): every active lane holds its words in D and, where the form does
so, in lt. -/
theorem State.run_vec {s : State} {F : Form} {lt checked : Bool} {g : Env → Nat → Lane → Try (List PWord)} {env : Env}
    {sl : Nat → Slot} {ws : Nat → List PWord} (he : s.env? F.pidx F.pneg = some env) (hc : F.completes env = true)
    (hs : ∀ l ∈ env.lanes, F.d.slot env.w.regs (env.w.lane l) = .ok (sl l))
    (hg : ∀ l ∈ env.lanes, g env l (env.w.lane l) = .ok (ws l)) :
    s.wrote env (if lt then env.results F sl ws else env.plainResults F sl ws)
      (s.run F (fun env => env.vec F lt checked (g env))) := by
  obtain ⟨h1, -, -, -⟩ := State.env?_wave he
  obtain ⟨-, -, -, -, c5, -, c7, -⟩ := Form.completes_iff.mp hc
  have hvec : ∀ s1 : State, env.vec F lt checked (g env) s1 =
      env.fall (s1.updWave env.w.id (fun w => w.writeAll lt (env.lanes.map (fun l => (l, sl l, ws l))))) := by
    intro s1
    unfold Env.vec
    rw [Env.compute_ok hs hg]
    simp only [bind, Except.bind, Env.residueLanes_nil c5, List.foldl_nil, List.contains_nil, Bool.false_eq_true,
      if_false, List.map_id']
  obtain ⟨t, ht, hr⟩ := State.wrote_of_fall (s2 := (s.begin_ env F).updWave env.w.id (fun w => w.writeAll lt
      (env.lanes.map (fun l => (l, sl l, ws l))))) (w := (env.begun F).writeAll lt (env.lanes.map (fun l => (l, sl l, ws l))))
    (lanes := if lt then env.results F sl ws else env.plainResults F sl ws) he hc
    ((State.begin_onlyWave s env F).updWave fun w => Wave.kept_writeAll w lt _)
    (State.wave?_updWave_self (fun w => (Wave.kept_writeAll w lt _).id) (State.begin_wave h1))
    ((Env.begun_kept env F).trans (Wave.kept_writeAll _ _ _))
    (by rw [Wave.writeAll_frontier, Env.begun_frontier])
    (fun l hl => by
      have hlt : l < (env.begun F).lanes.length := by rw [Env.begun_length, c7]; exact mem_laneList.mp hl
      rw [Wave.writeAll_lane _ _ env.lanes (lanesOf_nodup _) (fun k hk => by
        rw [Env.begun_length, c7]; exact Env.lanes_lt hk), Env.begun_lane env F (by rw [c7]; exact mem_laneList.mp hl)]
      have hm : l ∈ env.lanes ↔ hasLane env.act l = true := mem_lanesOf
      by_cases ha : hasLane env.act l = true
      · cases lt <;> simp [hm, ha, Env.results, Env.plainResults, Lane.took]
      · cases lt <;> simp [hm, ha, Env.results, Env.plainResults])
  obtain ⟨t', w', ht', rest⟩ := hr
  cases ht'
  exact ⟨_, w', State.run_next he (Form.completes.issues hc) (by rw [hvec]; exact ht), rest⟩

/-- A computation of a predicate completes (R364, R368, R389). -/
theorem State.run_vecPred {s : State} {F : Form} {checked : Bool} {pd : Nat} {g : Env → Nat → Lane → Try Bool} {env : Env}
    {b : Nat → Bool} (he : s.env? F.pidx F.pneg = some env) (hc : F.completes env = true)
    (hg : ∀ l ∈ env.lanes, g env l (env.w.lane l) = .ok (b l)) :
    s.wrote env (env.predicates F pd b) (s.run F (fun env => env.vecPred pd checked (g env))) := by
  obtain ⟨h1, -, -, -⟩ := State.env?_wave he
  obtain ⟨-, -, -, -, c5, -, c7, -⟩ := Form.completes_iff.mp hc
  let upd (w : Wave) : Wave := (env.lanes.map (fun l => (l, b l))).foldl
    (fun w r => w.updLane r.1 (fun l => l.setPred pd r.2)) w
  have hk : ∀ w : Wave, w.kept (upd w) := fun w => Wave.kept_foldl _ (fun w r => Wave.kept_updLane w _ _) _ w
  have hfr : ∀ (rs : List (Nat × Bool)) (w : Wave),
      (rs.foldl (fun w r => w.updLane r.1 (fun l => l.setPred pd r.2)) w).frontier = w.frontier := by
    intro rs
    induction rs with
    | nil => intro w; rfl
    | cons r t ih => intro w; rw [List.foldl_cons, ih]; rfl
  have hvec : ∀ s1 : State, env.vecPred pd checked (g env) s1 = env.fall (s1.updWave env.w.id upd) := by
    intro s1
    unfold Env.vecPred
    rw [Env.each_ok hg]
    simp only [bind, Except.bind, Env.residueLanes_nil c5, List.foldl_nil, upd]
  obtain ⟨t, ht, hr⟩ := State.wrote_of_fall (s2 := (s.begin_ env F).updWave env.w.id upd) (w := upd (env.begun F))
    (lanes := env.predicates F pd b) he hc
    ((State.begin_onlyWave s env F).updWave hk)
    (State.wave?_updWave_self (fun w => (hk w).id) (State.begin_wave h1))
    ((Env.begun_kept env F).trans (hk _))
    (by rw [hfr, Env.begun_frontier])
    (fun l hl => by
      have hlt : l < (env.begun F).lanes.length := by rw [Env.begun_length, c7]; exact mem_laneList.mp hl
      have key := Wave.lane_foldl_updLane (fun r : Nat × Bool => r.1) (fun r lane => lane.setPred pd r.2)
        (fun w r => w.updLane r.1 (fun l => l.setPred pd r.2)) (fun w r k => Wave.lane_updLane _ _ _ _)
        (fun w r => Wave.updLane_lanes_length _ _ _) (env.lanes.map (fun l => (l, b l)))
        (by simpa [List.map_map, Function.comp_def, Env.lanes] using lanesOf_nodup env.act) (env.begun F)
        (by intro r hr; obtain ⟨k, hk, rfl⟩ := List.mem_map.mp hr; rw [Env.begun_length, c7]; exact Env.lanes_lt hk) l
      have hm : l ∈ env.lanes ↔ hasLane env.act l = true := mem_lanesOf
      by_cases ha : hasLane env.act l = true
      · have := key.1 _ (List.mem_map_of_mem (hm.mpr ha)) rfl
        dsimp only [upd]
        rw [this, Env.begun_lane env F (by rw [c7]; exact mem_laneList.mp hl)]
        simp [ha, Env.predicates]
      · have := key.2 (by simpa [List.map_map, Function.comp_def, hm] using ha)
        dsimp only [upd]
        rw [this, Env.begun_lane env F (by rw [c7]; exact mem_laneList.mp hl)]
        simp [ha, Env.predicates])
  obtain ⟨t', w', ht', rest⟩ := hr
  cases ht'
  exact ⟨_, w', State.run_next he (Form.completes.issues hc) (by rw [hvec]; exact ht), rest⟩

/-- A plain arithmetic instruction completes (R218, R353). -/
theorem State.arith_wrote {s : State} {F : Form} {checked : Bool} {f : Args → Nat} {env : Env} {x : Nat → Args}
    {sl : Nat → Slot} (he : s.env? F.pidx F.pneg = some env) (hc : F.completes env = true) (hr : env.readable F x sl) :
    s.wrote env (env.results F sl (fun l => wordsOf F.resultWords (f (x l)))) (s.arith F checked f) := by
  have := State.run_vec (lt := true) (checked := checked) (g := fun env _ lane =>
    (F.args env.w lane).map (fun x => wordsOf F.resultWords (f x))) (ws := fun l => wordsOf F.resultWords (f (x l)))
    he hc (fun l hl => (hr l hl).2) (fun l hl => by rw [(hr l hl).1]; rfl)
  rw [if_pos rfl] at this
  exact this

end Sys2Proof.Machine
end

