-- ==== Sys2Proof/Laws/Branch.lean ====
section
/-! SUPPORT. Laws of moving lanes: the entries that destinations form, and what every branch form leaves. -/

namespace Sys2Proof.Machine

/-- The key a lane goes to. -/
def Go.key (g : Go) : Nat × Nat := (g.pc, g.depth)

/-- One representative for each key. -/
def keyReps (gos : List Go) : List Go :=
  gos.foldl (fun ks g => if ks.any (fun k => k.pc == g.pc && k.depth == g.depth) then ks else ks ++ [g]) []

theorem key_beq (k g : Go) : (k.pc == g.pc && k.depth == g.depth) = true ↔ k.key = g.key := by
  simp [Go.key, Prod.ext_iff]

theorem keyReps_aux (gos ks : List Go) (hn : (ks.map Go.key).Nodup) :
    let r := gos.foldl (fun ks g => if ks.any (fun k => k.pc == g.pc && k.depth == g.depth) then ks else ks ++ [g]) ks
    (r.map Go.key).Nodup ∧ (∀ k ∈ ks, k ∈ r) ∧ (∀ k ∈ r, k ∈ ks ∨ k ∈ gos) ∧ ∀ g ∈ gos, ∃ k ∈ r, k.key = g.key := by
  induction gos generalizing ks with
  | nil => exact ⟨hn, fun _ h => h, fun _ h => .inl h, fun _ h => absurd h List.not_mem_nil⟩
  | cons g t ih =>
    dsimp only [List.foldl_cons]
    split
    · next h =>
      obtain ⟨k, hk, he⟩ := List.any_eq_true.mp h
      obtain ⟨i1, i2, i3, i4⟩ := ih ks hn
      refine ⟨i1, i2, fun k hk => (i3 k hk).imp_right (.tail _), fun x hx => ?_⟩
      rcases List.mem_cons.mp hx with e | e
      · exact ⟨k, i2 k hk, e ▸ (key_beq k g).mp he⟩
      · exact i4 x e
    · next h =>
      obtain ⟨i1, i2, i3, i4⟩ := ih (ks ++ [g]) (by
        rw [List.map_append, List.nodup_append]
        refine ⟨hn, by simp, fun a ha b hb => ?_⟩
        obtain ⟨k, hk, rfl⟩ := List.mem_map.mp ha
        simp only [List.map_cons, List.map_nil, List.mem_singleton] at hb
        intro e
        exact h (List.any_eq_true.mpr ⟨k, hk, (key_beq k g).mpr (e.trans hb)⟩))
      refine ⟨i1, fun k hk => i2 k (by simp [hk]), fun k hk => ?_, fun x hx => ?_⟩
      · rcases i3 k hk with e | e
        · rcases List.mem_append.mp e with e | e
          · exact .inl e
          · exact .inr (by rw [List.mem_singleton.mp e]; exact .head _)
        · exact .inr (.tail _ e)
      · rcases List.mem_cons.mp hx with e | e
        · exact ⟨g, i2 g (by simp), by rw [e]⟩
        · exact i4 x e

theorem keyReps_spec (gos : List Go) : ((keyReps gos).map Go.key).Nodup ∧ (∀ k ∈ keyReps gos, k ∈ gos) ∧
    ∀ g ∈ gos, ∃ k ∈ keyReps gos, k.key = g.key := by
  obtain ⟨h1, -, h3, h4⟩ := keyReps_aux gos [] (by simp)
  exact ⟨h1, fun k hk => (h3 k hk).resolve_left List.not_mem_nil, h4⟩

theorem keyReps_length (gos : List Go) : (keyReps gos).length ≤ ((gos.map Go.key).dedup).length := by
  obtain ⟨h1, h2, -⟩ := keyReps_spec gos
  rw [← List.length_map (f := Go.key)]
  refine (h1.subperm fun k hk => ?_).length_le
  obtain ⟨g, hg, rfl⟩ := List.mem_map.mp hk
  exact List.mem_dedup.mpr (List.mem_map_of_mem (h2 g hg))

theorem le_foldl_max (l : List Nat) (a b : Nat) (h : b ≤ a ∨ b ∈ l) : b ≤ l.foldl max a := by
  induction l generalizing a with
  | nil => exact h.resolve_right List.not_mem_nil
  | cons x t ih =>
    rw [List.foldl_cons]
    apply ih
    rcases h with h | h
    · exact .inl (le_max_of_le_left h)
    · rcases List.mem_cons.mp h with e | e
      · exact .inl (e ▸ le_max_right _ _)
      · exact .inr e

theorem formEntries_length (env : Env) (gos : List Go) :
    (formEntries env gos).length ≤ ((gos.map Go.key).dedup).length := by
  have : (formEntries env gos).length = (keyReps gos).length := by simp [formEntries, keyReps]
  rw [this]
  exact keyReps_length gos

/-- Every lane has an entry of its key. -/
theorem formEntries_mem (env : Env) (gos : List Go) (hl : ∀ g ∈ gos, g.lane < 32) {g : Go} (hg : g ∈ gos) :
    ∃ n ∈ formEntries env gos, n.pc = g.pc ∧ n.depth = g.depth ∧ n.block = .none ∧ hasLane n.mask g.lane = true ∧
      g.prio ≤ n.prio := by
  obtain ⟨-, -, h3⟩ := keyReps_spec gos
  obtain ⟨k, hk, he⟩ := h3 g hg
  simp only [Go.key, Prod.mk.injEq] at he
  have hm : g ∈ gos.filter (fun g => g.pc == k.pc && g.depth == k.depth) :=
    List.mem_filter.mpr ⟨hg, by simp [he.1, he.2]⟩
  refine ⟨_, List.mem_map.mpr ⟨k, hk, rfl⟩, he.1, he.2, rfl, ?_, ?_⟩
  · dsimp only
    rw [hasLane_maskOf]
    · exact decide_eq_true (List.mem_map_of_mem hm)
    · intro l hl'
      obtain ⟨x, hx, rfl⟩ := List.mem_map.mp hl'
      exact hl x (List.mem_filter.mp hx).1
  · exact le_foldl_max _ _ _ (.inr (List.mem_map_of_mem hm))

theorem foldl_arrive_length (ns es : List Entry) : (ns.foldl arrive es).length ≤ es.length + ns.length := by
  induction ns generalizing es with
  | nil => simp
  | cons n t ih =>
    have := arrive_length es n
    have := ih (arrive es n)
    simp only [List.foldl_cons, List.length_cons]
    omega

theorem stands_foldl_mono (ns es : List Entry) {l pc depth prio : Nat} (h : stands es l pc depth prio = true) :
    stands (ns.foldl arrive es) l pc depth prio = true := by
  induction ns generalizing es with
  | nil => exact h
  | cons n t ih => exact ih _ (stands_arrive_mono _ _ _ _ _ _ h)

theorem stands_foldl (ns es : List Entry) {n : Entry} (hn : n ∈ ns) (hb : n.block = .none) {l prio : Nat}
    (h : hasLane n.mask l = true) (hp : prio ≤ n.prio) : stands (ns.foldl arrive es) l n.pc n.depth prio = true := by
  induction ns generalizing es with
  | nil => exact absurd hn List.not_mem_nil
  | cons m t ih =>
    rw [List.foldl_cons]
    rcases List.mem_cons.mp hn with e | e
    · subst e
      exact stands_foldl_mono _ _ (stands_arrive_self _ _ hb _ _ h hp)
    · exact ih _ e

/-- A wave that keeps what an instruction keeps holds the same entries. -/
theorem Wave.kept.held {w t : Wave} (h : w.kept t) : t.heldEntries = w.heldEntries := by rw [h]

/-- Lanes go where they are sent when there is room (R193, R195). -/
theorem Env.replace_ok {env : Env} {s : State} {w : Wave} {gos : List Go} (hw : s.wave? env.w.id = some w)
    (hf : w.frontier = passOver env env.w.frontier) (he : env.e ∈ env.w.frontier)
    (ha : env.e.isAt env.is.pc env.is.depth = true) (hl : ∀ g ∈ gos, g.lane < 32)
    (hh : w.heldEntries = env.w.heldEntries)
    (hr : ((gos.map Go.key).dedup).length + env.w.frontier.length + env.w.heldEntries.length ≤ env.w.maxEntries + 1) :
    ∃ es, env.replace s (formEntries env gos) [] = .ok (s.updWave env.w.id (fun w => { w with frontier := es })) ∧
      ∀ g ∈ gos, stands es g.lane g.pc g.depth g.prio = true := by
  have hrest := rest_length w.frontier env.is.pc env.is.depth (by
    rw [hf]; exact passOver_isAt env env.e _ _ _ he ha)
  have hlen := foldl_arrive_length (formEntries env gos)
    (w.frontier.filter (fun e => !(e.isAt env.is.pc env.is.depth)))
  have hpl := passOver_length env env.w.frontier
  have hfl := formEntries_length env gos
  refine ⟨(formEntries env gos).foldl arrive (w.frontier.filter (fun e => !(e.isAt env.is.pc env.is.depth))), ?_,
    fun g hg => ?_⟩
  · unfold Env.replace
    rw [hw]
    simp only [Option.getD_some, List.foldl_nil]
    refine if_neg ?_
    rw [hh]
    rw [hf] at hrest hlen ⊢
    omega
  · obtain ⟨n, hn, h1, h2, h3, h4, h5⟩ := formEntries_mem env gos hl hg
    rw [← h1, ← h2]
    exact stands_foldl _ _ hn h3 h4 h5

theorem hasLane_and (a b : Mask) (l : Nat) : hasLane (a &&& b) l = (hasLane a l && hasLane b l) := by simp [hasLane]

theorem hasLane_not (a : Mask) {l : Nat} (h : l < 32) : hasLane (~~~ a) l = !hasLane a l := by
  simp [hasLane, h]

/-- Active lanes are lanes of the entry. -/
theorem Env.act_sub {env : Env} {p : Nat} {n : Bool} (h : env.act = guardMask env.w env.e.mask p n) {l : Nat}
    (hl : hasLane env.act l = true) : hasLane env.e.mask l = true := by
  rw [h, guardMask, hasLane_and, Bool.and_eq_true] at hl
  exact hl.1

theorem each_const {env : Env} {α : Type} (go : Nat → Try α) (v : Nat → α) (h : ∀ l ∈ env.lanes, go l = .ok (v l)) :
    env.each (fun l _ => go l) = .ok (env.lanes.map (fun l => (l, v l))) := Env.each_ok h

theorem jumpCauses_nil {env : Env} (go : Nat → Try Jump) (v : Nat → Jump) (h : ∀ l ∈ env.lanes, go l = .ok (v l)) :
    env.jumpCauses go = [] := by
  rw [Env.jumpCauses, List.filterMap_eq_nil_iff]
  intro l hl
  simp only [h l hl]

/-- A blocked entry keeps its lanes at their instruction. -/
theorem joinWait_mem (es : List Entry) (n : Entry) (hm : n.mask ≠ 0) :
    ∃ e ∈ joinWait es n, e.pc = n.pc ∧ e.depth = n.depth ∧ (∀ l, hasLane n.mask l = true → hasLane e.mask l = true) ∧
      (e.block = n.block ∨ ∃ x ∈ es, x.block.sameKind n.block = true ∧ e.block = x.block.merge n.block) := by
  unfold joinWait
  rw [if_neg hm]
  dsimp only
  split
  · next h =>
    obtain ⟨x, hx, hf⟩ := List.any_eq_true.mp h
    refine ⟨_, List.mem_map_of_mem hx, ?_⟩
    rw [if_pos hf]
    simp only [Bool.and_eq_true, beq_iff_eq] at hf
    exact ⟨hf.1.1, hf.1.2, fun l hl => by rw [hasLane_or, hl, Bool.or_true], .inr ⟨x, hx, hf.2, rfl⟩⟩
  · exact ⟨n, by simp, rfl, rfl, fun _ h => h, .inl rfl⟩

theorem joinWait_length (es : List Entry) (n : Entry) : (joinWait es n).length ≤ es.length + 1 := by
  unfold joinWait
  split
  · omega
  · dsimp only; split <;> simp

/-- The issuing entry stays, blocked (R191): every lane of it waits there. -/
theorem Env.stay_ok {env : Env} {s : State} {w : Wave} {b : Block} {p : Nat} {n : Bool} {s0 : State}
    (h0 : s0.env? p n = some env) (hw : s.wave? env.w.id = some w) (hf : w.frontier = passOver env env.w.frontier)
    (ha : env.act ≠ 0) (hh : w.heldEntries = env.w.heldEntries)
    (hl : env.w.frontier.length + env.w.heldEntries.length ≤ env.w.maxEntries) :
    ∃ es, env.stay b s = .ok (s.updWave env.w.id (fun w => { w with frontier := es })) ∧
      ∃ e ∈ es, e.pc = env.is.pc ∧ e.depth = env.is.depth ∧
        (∀ l, hasLane env.e.mask l = true → hasLane e.mask l = true) ∧
        (e.block = b ∨ ∃ x ∈ w.frontier, x.block.sameKind b = true ∧ e.block = x.block.merge b) := by
  obtain ⟨-, h2, h3, h4⟩ := State.env?_wave h0
  have hrest := rest_length w.frontier env.is.pc env.is.depth (by
    rw [hf]; exact passOver_isAt env env.e _ _ _ h2 h3)
  have hpl := passOver_length env env.w.frontier
  obtain ⟨e, e1, e2, e3, e4, e5⟩ := joinWait_mem (w.frontier.filter (fun e => !(e.isAt env.is.pc env.is.depth)))
    { env.e with block := b, passed := 0 } (Env.mask_ne_zero h4 ha)
  have hlen := joinWait_length (w.frontier.filter (fun e => !(e.isAt env.is.pc env.is.depth)))
    { env.e with block := b, passed := 0 }
  have hat : env.e.pc = env.is.pc ∧ env.e.depth = env.is.depth := by
    simp only [Entry.isAt, Bool.and_eq_true, beq_iff_eq] at h3
    exact ⟨h3.1.1, h3.1.2⟩
  refine ⟨joinWait (w.frontier.filter (fun e => !(e.isAt env.is.pc env.is.depth)))
    { env.e with block := b, passed := 0 }, ?_, e, e1, e2.trans hat.1, e3.trans hat.2, e4, ?_⟩
  · unfold Env.stay Env.replace
    rw [hw]
    simp only [Option.getD_some, List.foldl_nil, List.foldl_cons]
    refine if_neg ?_
    rw [hh]
    rw [hf] at hrest hlen ⊢
    dsimp only at hlen ⊢
    omega
  · rcases e5 with h | ⟨x, hx, h⟩
    · exact .inl h
    · exact .inr ⟨x, (List.mem_filter.mp hx).1, h⟩

/-- EVERY BRANCH FORM (R374): active lanes go where they jump, the others to the next instruction with priority pf; the
active lanes' destination registers hold the return word. -/
theorem State.run_branch {s : State} {F : Form} {pf : Nat} {g : Env → Nat → Lane → Try Jump} {env : Env} {j : Nat → Jump}
    (he : s.env? F.pidx F.pneg = some env) (hc : F.issues env = true)
    (hg : ∀ l ∈ env.lanes, g env l (env.w.lane l) = .ok (j l) ∧ env.headers.contains (j l).pc = true)
    (hn : env.act = env.e.mask ∨ env.nextOk = true)
    (hr : (((lanesOf env.e.mask).map (fun l => if hasLane env.act l then ((j l).pc, (j l).depth)
      else (env.is.next, env.e.depth))).dedup).length + env.w.frontier.length + env.w.heldEntries.length ≤ env.w.maxEntries + 1) :
    s.jumped env (fun l => if hasLane env.act l
        then (env.w.lane l).took F (j l).slot (wordsOf 2 (env.is.next + 2 ^ 56 * pf)) else env.w.lane l)
      (fun l => if hasLane env.act l then ⟨l, (j l).pc, (j l).depth, (j l).prio⟩
        else ⟨l, env.is.next, env.e.depth, pf⟩)
      (s.run F (fun env => env.branch pf (g env))) := by
  obtain ⟨h1, h2, h3, h4⟩ := State.env?_wave he
  obtain ⟨-, -, -, -, -, c7, -⟩ := Form.issues_iff.mp hc
  let word := wordsOf 2 (env.is.next + 2 ^ 56 * pf)
  let rest := lanesOf (env.e.mask &&& ~~~ env.act)
  let js : List (Nat × Jump) := env.lanes.map (fun l => (l, j l))
  let gos : List Go := js.map (fun j => ⟨j.1, j.2.pc, j.2.depth, j.2.prio⟩) ++
      rest.map (fun l => ⟨l, env.is.next, env.e.depth, pf⟩)
  have hrest : ∀ l, l ∈ rest ↔ hasLane env.e.mask l = true ∧ hasLane env.act l = false := by
    intro l
    rw [mem_lanesOf, hasLane_and, Bool.and_eq_true]
    constructor
    · rintro ⟨a, b⟩
      rw [hasLane_not _ (hasLane_lt a)] at b
      exact ⟨a, by simpa using b⟩
    · rintro ⟨a, b⟩
      exact ⟨a, by rw [hasLane_not _ (hasLane_lt a), b]; rfl⟩
  have hgo : ∀ l ∈ env.lanes, env.jumpTry (g env) l = .ok (j l) := by
    intro l hl
    obtain ⟨a, b⟩ := hg l hl
    simp only [Env.jumpTry, a, Env.headerTry, b, if_true]
  have hb : env.restCauses rest = [] := by
    unfold Env.restCauses
    rcases hn with hn | hn
    · have : rest = [] := by
        rw [List.eq_nil_iff_forall_not_mem]
        intro l hl
        rw [hrest, hn] at hl
        rw [hl.1] at hl
        exact Bool.noConfusion hl.2
      rw [this]
      split <;> rfl
    · rw [Env.nextOk] at hn
      unfold Env.restTry
      rw [hn]
      rfl
  have hbranch : ∀ s1 : State, env.branch pf (g env) s1 =
      env.replace (s1.updWave env.w.id (fun w => js.foldl (fun w j => w.land j.1 j.2.slot word) w))
        (formEntries env gos) [] := by
    intro s1
    unfold Env.branch
    dsimp only
    rw [jumpCauses_nil _ j hgo, hb, each_const _ j hgo]
    rfl
  let upd (w : Wave) : Wave := js.foldl (fun w j => w.land j.1 j.2.slot word) w
  have hk : ∀ w : Wave, w.kept (upd w) := fun w => Wave.kept_foldl _ (fun w r => Wave.kept_land w _ _ _) _ w
  have hfr : ∀ (rs : List (Nat × Jump)) (w : Wave),
      (rs.foldl (fun w j => w.land j.1 j.2.slot word) w).frontier = w.frontier := by
    intro rs
    induction rs with
    | nil => intro w; rfl
    | cons r t ih =>
      intro w
      rw [List.foldl_cons, ih]
      cases h : r.2.slot <;> simp only [Wave.land, Wave.touched, Wave.touchedA] <;> split <;> (try split) <;> rfl
  have hlanes : ∀ l ∈ laneList, (upd (env.begun F)).lane l = if hasLane env.act l
      then (env.w.lane l).took F (j l).slot word else env.w.lane l := by
    intro l hl
    have key := Wave.lane_foldl_updLane (fun r : Nat × Jump => r.1) (fun r lane => lane.put r.2.slot word)
      (fun w r => w.land r.1 r.2.slot word) (fun w r k => Wave.lane_land _ _ _ _ _)
      (fun w r => Wave.land_lanes_length _ _ _ _) js
      (by simpa [js, List.map_map, Function.comp_def, Env.lanes] using lanesOf_nodup env.act) (env.begun F)
      (by intro r hr; obtain ⟨k, hk, rfl⟩ := List.mem_map.mp hr; rw [Env.begun_length, c7]; exact Env.lanes_lt hk) l
    have hm : l ∈ env.lanes ↔ hasLane env.act l = true := mem_lanesOf
    dsimp only [upd]
    by_cases ha : hasLane env.act l = true
    · rw [key.1 _ (List.mem_map_of_mem (hm.mpr ha)) rfl, Env.begun_lane env F (by rw [c7]; exact mem_laneList.mp hl)]
      simp [ha, Lane.took]
    · rw [key.2 (by simpa [js, List.map_map, Function.comp_def, hm] using ha),
        Env.begun_lane env F (by rw [c7]; exact mem_laneList.mp hl)]
      simp [ha]
  have hlt : ∀ x ∈ gos, x.lane < 32 := by
    intro x hx
    rcases List.mem_append.mp hx with hx | hx
    · obtain ⟨y, hy, rfl⟩ := List.mem_map.mp hx
      obtain ⟨l, hl, rfl⟩ := List.mem_map.mp hy
      exact Env.lanes_lt hl
    · obtain ⟨l, hl, rfl⟩ := List.mem_map.mp hx
      exact hasLane_lt ((hrest l).mp hl).1
  have hkeys : ((gos.map Go.key).dedup).length + env.w.frontier.length + env.w.heldEntries.length ≤ env.w.maxEntries + 1 := by
    refine le_trans (Nat.add_le_add_right (Nat.add_le_add_right ?_ _) _) hr
    refine ((List.nodup_dedup _).subperm fun k hk => ?_).length_le
    rw [List.mem_dedup] at hk ⊢
    obtain ⟨x, hx, rfl⟩ := List.mem_map.mp hk
    rcases List.mem_append.mp hx with hx | hx
    · obtain ⟨y, hy, rfl⟩ := List.mem_map.mp hx
      obtain ⟨l, hl, rfl⟩ := List.mem_map.mp hy
      have hl' : hasLane env.act l = true := mem_lanesOf.mp hl
      exact List.mem_map.mpr ⟨l, mem_lanesOf.mpr (Env.act_sub h4 hl'), by rw [if_pos hl']; rfl⟩
    · obtain ⟨l, hl, rfl⟩ := List.mem_map.mp hx
      have hl' := (hrest l).mp hl
      exact List.mem_map.mpr ⟨l, mem_lanesOf.mpr hl'.1, by rw [hl'.2]; rfl⟩
  obtain ⟨es, e1, e2⟩ := Env.replace_ok (env := env) (gos := gos) (s := (s.begin_ env F).updWave env.w.id upd)
    (w := upd (env.begun F)) (State.wave?_updWave_self (fun w => (hk w).id) (State.begin_wave h1))
    (by rw [hfr, Env.begun_frontier]) h2 h3 hlt
    ((hk _).held.trans (Env.begun_kept env F).held) hkeys
  refine ⟨_, { upd (env.begun F) with frontier := es }, State.run_next he hc (by rw [hbranch]; exact e1),
    ((State.begin_onlyWave s env F).updWave hk).updWave fun w => Wave.kept_frontier w es,
    State.wave?_updWave_self (fun _ => rfl) (State.wave?_updWave_self (fun w => (hk w).id) (State.begin_wave h1)),
    ((Env.begun_kept env F).trans (hk _)).trans (Wave.kept_frontier _ es), fun l hl => ?_, hlanes⟩
  have hl' := mem_lanesOf.mp hl
  by_cases ha : hasLane env.act l = true
  · have : (⟨l, (j l).pc, (j l).depth, (j l).prio⟩ : Go) ∈ gos :=
      List.mem_append.mpr (.inl (List.mem_map.mpr ⟨_, List.mem_map.mpr ⟨l, mem_lanesOf.mpr ha, rfl⟩, rfl⟩))
    simp only [ha, if_true]
    exact e2 _ this
  · have : (⟨l, env.is.next, env.e.depth, pf⟩ : Go) ∈ gos :=
      List.mem_append.mpr (.inr (List.mem_map.mpr ⟨l, (hrest l).mpr ⟨hl', by simpa using ha⟩, rfl⟩))
    simp only [ha, if_false, Bool.false_eq_true]
    exact e2 _ this

end Sys2Proof.Machine
end

