-- ==== Sys2Proof/Laws/Memory.lean ====
section
/-! SUPPORT. The memory's canonical form is kept by the operations that write it, and what writes none leaves it. -/

namespace Sys2Proof.Machine

theorem reset_memWf : State.reset.memWf := by decide

/-! ## Operations that leave memory as it is -/

@[simp] theorem State.unwatch_mem (s : State) (by_ : Option Nat) (page : Nat) : (s.unwatch by_ page).mem = s.mem := by
  cases by_ <;> rfl

@[simp] theorem State.touchPage_mem (s : State) (by_ : Option Nat) (page : Nat) : (s.touchPage by_ page).mem = s.mem := by
  simp [State.touchPage]

@[simp] theorem State.touchPages_mem (s : State) (by_ : Option Nat) (ps : List Put) :
    (s.touchPages by_ ps).mem = s.mem := by
  unfold State.touchPages
  generalize keysOf (fun p => p.pa / pageBytes) ps = ks
  induction ks generalizing s with
  | nil => rfl
  | cons k t ih => rw [List.foldl_cons, ih, State.touchPage_mem]

@[simp] theorem State.complete_mem (s : State) (c t a d v : Nat) : (s.complete c t a d v).mem = s.mem := State.emit_mem _ _

@[simp] theorem State.event_mem (s : State) (c e a g i : Nat) : (s.event c e a g i).mem = s.mem := State.emit_mem _ _

@[simp] theorem State.publish_mem (s : State) (c d : Nat) (f : RMap → RMap) : (s.publish c d f).mem = s.mem := by
  unfold State.publish; dsimp only; split
  · rfl
  · rw [State.emit_mem]

/-! ## Operations that write it -/

theorem layPuts_wf (ps : List Put) {m : List Host.Cell} (h : cellsWf m = true) :
    cellsWf (ps.foldl (fun m p => writeByte m p.pa p.byte) m) = true := by
  induction ps generalizing m with
  | nil => exact h
  | cons p t ih => exact ih (writeByte_wf h _ _)

@[simp] theorem State.rewritePartial_mem (s : State) (ps : List Put) : (s.rewritePartial ps).mem = s.mem := rfl

theorem State.layHome_mem (s : State) (ps : List Put) :
    (s.layHome ps).mem = ps.foldl (fun m p => writeByte m p.pa p.byte) s.mem := by
  unfold State.layHome; dsimp only; split <;> rfl

theorem State.layHome_memWf {s : State} (h : s.memWf) (ps : List Put) : (s.layHome ps).memWf := by
  unfold State.memWf; rw [State.layHome_mem]; exact layPuts_wf ps h

theorem State.zeroAt_memWf {s : State} (h : s.memWf) (pa n : Nat) : (s.zeroAt pa n).memWf := clearBytes_wf h pa n

theorem State.writeHome_memWf {s : State} (h : s.memWf) (by_ : Option Nat) (ps : List Put) : (s.writeHome by_ ps).memWf := by
  unfold State.memWf State.writeHome; rw [State.touchPages_mem]; exact State.layHome_memWf h ps

theorem State.recallFrom_memWf {s : State} (h : s.memWf) (core : Nat) (lines : List Nat) : (s.recallFrom core lines).memWf := by
  unfold State.memWf State.recallFrom
  dsimp only
  generalize (List.map _ _).flatten = puts
  have : cellsWf (if puts.isEmpty = true then s else s.layHome puts).mem = true := by
    split
    · exact h
    · exact State.layHome_memWf h puts
  split
  · exact this
  · rw [State.updCore_mem]; exact this

theorem State.recall_memWf {s : State} (h : s.memWf) (keep : Option Nat) (lines : List Nat) : (s.recall keep lines).memWf := by
  unfold State.recall
  dsimp only
  generalize List.map _ _ = owners
  induction owners generalizing s with
  | nil => exact h
  | cons c t ih => exact ih (State.recallFrom_memWf h c lines)

theorem State.writeMem_memWf {s : State} (h : s.memWf) (by_ : Option Nat) (ps : List Put) : (s.writeMem by_ ps).memWf :=
  State.writeHome_memWf (State.recall_memWf h _ _) by_ ps

end Sys2Proof.Machine
end

