-- ==== Sys2Proof/Laws/Start.lean ====
section
/-! SUPPORT. Laws of instructions with an effect outside their wave: those that start an operation, and those that change
the machine and go on. -/

namespace Sys2Proof.Machine

/-- AN EFFECT ON THE MACHINE: an effect that leaves `base` but for the issuing wave and the count, and falls through. -/
theorem State.did_of_fall {s s2 base : State} {F : Form} {env : Env} {w w0 : Wave} {lanes : Nat → Lane}
    (he : s.env? F.pidx F.pneg = some env) (hc : F.completes env = true)
    (hb : s2 = { base with waves := s2.waves, gangs := (base.counted env).gangs })
    (hne : ∀ j, j ≠ env.w.id → s2.wave? j = base.wave? j) (hw : s2.wave? env.w.id = some w) (hk : w0.kept w)
    (hh : w0.heldEntries = env.w.heldEntries)
    (hf : w.frontier = passOver env env.w.frontier) (hl : ∀ l ∈ laneList, w.lane l = lanes l) :
    ∃ t, env.fall s2 = .ok t ∧ base.did env w0 lanes (.next t) := by
  obtain ⟨h1, h2, h3, h4⟩ := State.env?_wave he
  obtain ⟨-, -, c3, -, -, c6, -, c8⟩ := Form.completes_iff.mp hc
  obtain ⟨es, e1, e2⟩ := Env.fall_ok hw hf h2 h3 (Env.mask_ne_zero h4 c3) c6 (by rw [hk, hh]) c8
  refine ⟨_, e1, _, { w with frontier := es }, rfl, ?_, fun j hj => ?_, State.wave?_updWave_self (fun _ => rfl) hw,
    hk.trans (Wave.kept_frontier w es), e2, hl⟩
  · rw [State.updWave, hb]
  · rw [State.wave?_updWave_ne (fun w => (Wave.kept_frontier w es).id) hj, hne j hj]

/-- With nobody to park the instruction falls through. -/
theorem Env.parkAnd_nil {env : Env} {c : Nat} {r : Reached} {s : State} (h : r.parked = []) :
    env.parkAnd c r s = env.fall s := by
  have hm : env.e.mask &&& ~~~ maskOf ([].map (fun x : Nat × Nat => x.1)) = env.e.mask := by
    apply BitVec.eq_of_getLsbD_eq
    intro i hi
    have : (~~~ (0 : Mask)).getLsbD i = true := by interval_cases i <;> rfl
    rw [BitVec.getLsbD_and]
    show (env.e.mask.getLsbD i && (~~~ (0 : Mask)).getLsbD i) = _
    rw [this, Bool.and_true]
  unfold Env.parkAnd Env.parkLanes Env.fall Env.go
  rw [h]
  simp only [List.foldl_nil, hm]
  rfl

/-- Every active lane goes on. -/
theorem Env.reach_ok {env : Env} {extra : Nat → Lane → Try Unit} {addr : Nat → Lane → Try Nat} {check : Lane → Nat → LaneTo}
    {a : Nat → Acc} (h : ∀ l ∈ env.lanes, extra l (env.w.lane l) = .ok () ∧ addr l (env.w.lane l) = .ok (a l).va ∧
      check (env.w.lane l) (a l).va = .go (a l).loc (a l).pt ∧ (a l).lane = l) :
    env.reach extra addr check = .ok { accs := env.lanes.map a, parked := [] } := by
  have hm : (env.lanes.map (fun l =>
      let lane := env.w.lane l
      (l, match both (extra l lane) (addr l lane) with
        | .error c => (match addr l lane with | .ok a => a | .error _ => 0, LaneTo.cause c)
        | .ok (_, a) => (a, check lane a)))) = env.lanes.map (fun l => (l, (a l).va, LaneTo.go (a l).loc (a l).pt)) := by
    apply List.map_congr_left
    intro l hl
    obtain ⟨h1, h2, h3, -⟩ := h l hl
    dsimp only
    rw [h1, h2, both_ok]
    dsimp only
    rw [h3]
  have hacc : ∀ ls : List Nat, (∀ l ∈ ls, (a l).lane = l) →
      ls.map (fun l => ({ lane := l, va := (a l).va, loc := (a l).loc, pt := (a l).pt } : Acc)) = ls.map a := by
    intro ls h
    apply List.map_congr_left
    intro l hl
    have := h l hl
    cases ha : a l
    rw [ha] at this
    simp_all
  unfold Env.reach
  erw [hm]
  simp only [List.filterMap_map, Function.comp_def, List.map_map]
  simp only [List.filterMap_none, List.isEmpty_nil, if_true]
  have := List.filterMap_eq_map (f := fun x => ({ lane := x, va := (a x).va, loc := (a x).loc, pt := (a x).pt } : Acc))
  simp only [Function.comp_def] at this
  rw [this]
  congr 2
  exact hacc env.lanes fun l hl => (h l hl).2.2.2

/-- A virtual address that may be accessed has a place. -/
theorem State.checkVa_go {s : State} {env : Env} {lane : Lane} {asks : Asks} {va : Nat} {loc : Loc} {pt : Bool}
    (h : s.checkVa env lane asks va = .go loc pt) : ∃ wr, s.xlate env.cx asks.kind va = .ok loc pt wr := by
  unfold State.checkVa at h
  dsimp only at h
  split at h
  · cases h
  · split at h
    · cases h
    · split at h <;> cases h
  · next hx =>
    split at h
    · cases h
    · cases h
      exact ⟨_, hx⟩

/-- A hint fits where it is none or no address is remote (R434). -/
theorem Env.hintFits_ok {env : Env} {s : State} {f : F2} {k : Access} {addr : Nat → Lane → Try Nat} {a : Nat → Acc}
    (ha : f.hint ≠ 0 → ∀ l ∈ env.lanes, addr l (env.w.lane l) = .ok (a l).va ∧
      ∃ pt wr, s.xlate env.cx k (a l).va = .ok (a l).loc pt wr)
    (h : f.hint = 0 ∨ ∀ l ∈ env.lanes, (a l).loc.isRemote = false) : env.hintFits s f k addr = .ok () := by
  unfold Env.hintFits
  split
  · next hb =>
    exfalso
    rw [Bool.and_eq_true, bne_iff_ne] at hb
    obtain ⟨l, hl, hr⟩ := List.any_eq_true.mp hb.2
    obtain ⟨h1, pt, wr, h2⟩ := ha hb.1 l hl
    rw [Env.far, h1] at hr
    dsimp only at hr
    rw [h2] at hr
    rcases h with h | h
    · exact hb.1 h
    · dsimp only at hr
      rw [h l hl] at hr
      cases hr
  · rfl

/-- With no upset at the issue no lane's address is counted (R243). -/
theorem Env.residues_eq {env : Env} (h : env.is.residue = 0) (s : State) : env.residues s = s := by
  rw [Env.residues, Env.residueLanes_nil h, List.foldl_nil]

/-- Every lane's reading succeeds. -/
theorem Env.eachAt_ok {α : Type} {env : Env} {addr : Nat → Lane → Option Nat} {waits : α → Bool}
    {g : Nat → Lane → Try α} {v : Nat → α} (h : ∀ l ∈ env.lanes, g l (env.w.lane l) = .ok (v l)) :
    env.eachAt addr waits g = .ok (env.lanes.map (fun l => (l, v l))) := by
  rw [Env.eachAt, Env.each_ok h]

/-- Requests change what the device has sent, and nothing else depends on the waves. -/
theorem State.ask_waves (o : Op) (l : List Acc) (s : State) (ws : List Wave) :
    l.foldl (State.ask o) { s with waves := ws } = { l.foldl (State.ask o) s with waves := ws } := by
  induction l generalizing s with
  | nil => rfl
  | cons a t ih =>
    rw [List.foldl_cons, List.foldl_cons, ← ih]
    congr 1
    unfold State.ask State.sendRequest
    dsimp only
    split
    · split <;> rfl
    · rfl

theorem State.sendOp_waves (s : State) (id : Nat) (ws : List Wave) :
    State.sendOp { s with waves := ws } id = { s.sendOp id with waves := ws } := by
  unfold State.sendOp
  have ho : State.op? { s with waves := ws } id = s.op? id := rfl
  rw [ho]
  split
  · rfl
  · next o _ =>
    have hc : State.canPerform { s with waves := ws } o = s.canPerform o := rfl
    rw [hc]
    split
    · rfl
    · dsimp only
      rw [State.ask_waves]
      rfl

theorem State.sendOp_keeps (s : State) (id : Nat) : (s.sendOp id).waves = s.waves ∧ (s.sendOp id).gangs = s.gangs := by
  have h : ∀ (o : Op) (l : List Acc) (s : State),
      (l.foldl (State.ask o) s).waves = s.waves ∧ (l.foldl (State.ask o) s).gangs = s.gangs := by
    intro o l
    induction l with
    | nil => intro s; exact ⟨rfl, rfl⟩
    | cons a t ih =>
      intro s
      rw [List.foldl_cons]
      obtain ⟨i1, i2⟩ := ih (State.ask o s a)
      rw [i1, i2]
      unfold State.ask State.sendRequest
      split
      · split <;> exact ⟨rfl, rfl⟩
      · exact ⟨rfl, rfl⟩
  unfold State.sendOp
  split
  · exact ⟨rfl, rfl⟩
  · split
    · exact ⟨rfl, rfl⟩
    · exact h _ _ _

theorem State.sendOp_updWave (s : State) (i id : Nat) (f : Wave → Wave) :
    (s.updWave i f).sendOp id = (s.sendOp id).updWave i f := by
  unfold State.updWave
  rw [State.sendOp_waves, (State.sendOp_keeps s id).1]

/-- Starting an access: the operation is in flight and its counter rose. -/
theorem State.startAccess_eq (s : State) (w : Wave) (lanes : Mask) (k : Ctr) (la : Nat) (wr : Bool) (body : OpBody)
    (marked : Mask) :
    ∃ ws : Wave → Wave, (∀ w : Wave, ({ w with ctrs := w.ctrs.add k 1 } : Wave).kept (ws w)) ∧
      (∀ w : Wave, (ws w).lanes = w.lanes ∧ (ws w).frontier = w.frontier) ∧
      s.startAccess w lanes k la wr body marked = (State.inFlight s
        { id := s.nextId, wave := w.id, gang := w.gang, ctx := w.ctx, core := w.core, lanes := lanes, ctr := some k,
          body := body, at_ := s.time, pc := s.issue.elim 0 (fun i => i.pc), marked := marked
          home := w.core }).updWave w.id ws := by
  refine ⟨fun w => { w with ctrs := w.ctrs.add k 1
                            windows := if wr then w.windows ++ [Window.mk s.nextId la 0] else w.windows }, fun w => rfl,
    fun w => ⟨rfl, rfl⟩, ?_⟩
  unfold State.startAccess State.startOp State.inFlight State.fresh
  dsimp only
  split
  · exact State.sendOp_updWave _ _ _ _
  · rfl

/-- What is in flight does not depend on the waves or the counts of the gangs. -/
theorem State.ask_gangs (o : Op) (l : List Acc) (s : State) (gs : List Gang) :
    l.foldl (State.ask o) { s with gangs := gs } = { l.foldl (State.ask o) s with gangs := gs } := by
  induction l generalizing s with
  | nil => rfl
  | cons a t ih =>
    rw [List.foldl_cons, List.foldl_cons, ← ih]
    congr 1
    unfold State.ask State.sendRequest
    dsimp only
    split
    · split <;> rfl
    · rfl

theorem State.sendOp_gangs (s : State) (id : Nat) (gs : List Gang) :
    State.sendOp { s with gangs := gs } id = { s.sendOp id with gangs := gs } := by
  unfold State.sendOp
  have ho : State.op? { s with gangs := gs } id = s.op? id := rfl
  rw [ho]
  split
  · rfl
  · next o _ =>
    have hc : State.canPerform { s with gangs := gs } o = s.canPerform o := rfl
    rw [hc]
    split
    · rfl
    · dsimp only
      rw [State.ask_gangs]
      rfl

theorem State.inFlight_with (s : State) (ws : List Wave) (gs : List Gang) (o : Op) :
    State.inFlight { s with waves := ws, gangs := gs } o = { s.inFlight o with waves := ws, gangs := gs } := by
  unfold State.inFlight
  dsimp only
  split
  · exact (State.sendOp_waves { s with gangs := gs, nextId := s.nextId + 1, ops := s.ops ++ [o] } o.id ws).trans
      (congrArg (fun t : State => { t with waves := ws })
        (State.sendOp_gangs { s with nextId := s.nextId + 1, ops := s.ops ++ [o] } o.id gs))
  · rfl

theorem State.inFlight_keeps (s : State) (o : Op) : (s.inFlight o).waves = s.waves ∧ (s.inFlight o).gangs = s.gangs := by
  unfold State.inFlight
  dsimp only
  split
  · exact State.sendOp_keeps _ _
  · exact ⟨rfl, rfl⟩

/-- The issuing state is the one the environment names. -/
theorem State.env?_issue {s : State} {p : Nat} {n : Bool} {env : Env} (h : s.env? p n = some env) :
    s.issue = some env.is := by
  unfold State.env? at h
  split at h
  · cases h
  · split at h
    · cases h
    · split at h
      · cases h; assumption
      · cases h

/-- AN ACCESS STARTS from a state that is the issue's but for waves and what `base` changes: the operation is in flight,
its counter rose, and the wave falls through. -/
theorem State.started_of_fall {s s2 base : State} {F : Form} {env : Env} {w : Wave} {lanes : Nat → Lane} {mask : Mask}
    {k : Ctr} {la : Nat} {wr : Bool} {body : OpBody} (he : s.env? F.pidx F.pneg = some env) (hc : F.completes env = true)
    (hb : s2 = { base with waves := s2.waves, gangs := (base.counted env).gangs }) (hi : base.issue = s.issue)
    (hne : ∀ j, j ≠ env.w.id → s2.wave? j = base.wave? j) (hw : s2.wave? env.w.id = some w) (hk : env.w.kept w)
    (hf : w.frontier = passOver env env.w.frontier) (hl : ∀ l ∈ laneList, w.lane l = lanes l) :
    ∃ t, env.fall (s2.startAccess env.w mask k la wr body (env.act &&& env.is.residue)) = .ok t ∧
      base.started env lanes mask k body (.next t) := by
  obtain ⟨-, -, -, -, c5, -, -, -⟩ := Form.completes_iff.mp hc
  rw [show env.act &&& env.is.residue = 0 by rw [c5]; exact BitVec.and_zero]
  obtain ⟨ws, k1, k2, k3⟩ := State.startAccess_eq s2 env.w mask k la wr body 0
  have hid : ∀ w, (ws w).id = w.id := fun w => (k1 w).id
  obtain ⟨f1, f2⟩ := State.inFlight_keeps s2 { id := s2.nextId, wave := env.w.id, gang := env.w.gang, ctx := env.w.ctx
                                               core := env.w.core, lanes := mask, ctr := some k, body := body, at_ := s2.time
                                               pc := s2.issue.elim 0 (fun i => i.pc), marked := 0, home := env.w.core }
  have hw2 := State.wave?_updWave_self hid ((State.wave?_congr f1 env.w.id).trans hw)
  have ho : ({ id := s2.nextId, wave := env.w.id, gang := env.w.gang, ctx := env.w.ctx, core := env.w.core, lanes := mask,
               ctr := some k, body := body, at_ := s2.time, pc := s2.issue.elim 0 (fun i => i.pc)
               marked := 0, home := env.w.core } : Op) =
      env.starts base mask (some k) body := by
    rw [hb]
    simp only [hi, State.env?_issue he, Env.starts, Option.elim]
  obtain ⟨t, h1, h2⟩ := State.did_of_fall (s2 := s2.startAccess env.w mask k la wr body 0) (w := ws w)
    (base := base.inFlight (env.starts base mask (some k) body)) (w0 := env.ticked k) (lanes := lanes) he hc
    (by
      rw [k3, ho, hb, State.inFlight_with]
      simp only [State.updWave]
      congr 1
      unfold State.counted
      split
      · simp only [State.updGroup, State.updGang, (State.inFlight_keeps base _).2]
      · rw [(State.inFlight_keeps base _).2])
    (fun j hj => by
      rw [k3, State.wave?_updWave_ne hid hj, State.wave?_congr f1, hne j hj,
        State.wave?_congr (State.inFlight_keeps base _).1])
    (by rw [k3]; exact hw2)
    (by
      have hkw := k1 w
      have : (env.ticked k).kept { w with ctrs := w.ctrs.add k 1 } := by
        unfold Wave.kept at hk
        have hcc : w.ctrs = env.w.ctrs := by rw [hk]
        unfold Wave.kept Env.ticked
        rw [hcc]
        conv_lhs => rw [hk]
      exact this.trans hkw)
    rfl
    (by rw [(k2 w).2, hf])
    (fun l hl' => by rw [← hl l hl', Wave.lane, Wave.lane, (k2 w).1])
  exact ⟨t, h1, h2⟩

end Sys2Proof.Machine
end

