-- ==== Sys2Proof/Tests/Slice0.lean ====
section
/-! SUPPORT. The model's own tests: well-formedness, decoding, single instructions, and for every statement with hypotheses
a state that meets them. -/

namespace Sys2Proof.Tests
set_option Elab.async false
open Sys2Proof.Machine

/-! ## Decoding (R339, R346; R61, R68) -/

def g1 : F1 := { d := 1, a := 2, b := 3 }
def g2 : F2 := { d := 1, a := 2, b := 3, pidx := 5, pneg := true, la := 6, ty := 3, mod := 0x15A, c := 0x97 }
def g3 : F3 := { w := g2, imm := 0x89ABCDEF }
def gm : Msg := { ctx := 5, len := 1, seq := 0x01020304, tag := 0x0A, body := [0x77] }

/-- Word 0, word 1 and what they decode to, word 2 being 0x89ABCDEF. -/
def decodes (l : List (Word × Word × Instr)) : Bool := l.all (fun x => decide (decodeWords x.1 x.2.1 0x89ABCDEF = .ok x.2.2))

/-- Commands in the order of their TYPEs, from one on. -/
def commands : List Instr → Nat → Bool
  | [], _ => true
  | i :: t, n =>
    decide (decodeMsg (BitVec.ofNat 8 n :: [5, 1, 0, 4, 3, 2, 1, 0x0A, 0, 0, 0, 0, 0, 0, 0, 0x77]) = .ok i) && commands t (n + 1)

/-- One-word forms: OP, D = 1, A = 2, B = 3 (R339, R346). -/
theorem test_decode_one_word :
    decodes
      [(0x00010203, 0, .iaddI32 g1), (0x01010203, 0, .isubI32 g1), (0x02010203, 0, .imulI32 g1),
       (0x03010203, 0, .iminI32 g1), (0x04010203, 0, .imaxI32 g1), (0x05010203, 0, .andB32 g1),
       (0x06010203, 0, .orB32 g1), (0x07010203, 0, .xorB32 g1), (0x08010203, 0, .andnB32 g1),
       (0x09010203, 0, .shlB32 g1), (0x0A010203, 0, .shrB32 g1), (0x0B010203, 0, .sraB32 g1),
       (0x0C010203, 0, .movB32 g1), (0x0D010203, 0, .notB32 g1), (0x0E010203, 0, .popcB32 g1),
       (0x0F010203, 0, .movi g1), (0xE6010203, 0, .brk g1), (0xE7010203, 0, .nop g1)] = true := by decide +kernel

/-- Two-word integer forms: SUB, then PIDX 5, PNEG 1, LA 6, TYPE 3, MOD 0x15A, C 0x97. -/
theorem test_decode_integer :
    decodes
      [(0x10010203, 0x0B675A97, .iadd g2), (0x11010203, 0x0B675A97, .isub g2), (0x12010203, 0x0B675A97, .imul g2),
       (0x12010203, 0x1B675A97, .imulh g2), (0x13010203, 0x0B675A97, .imad g2), (0x14010203, 0x0B675A97, .idiv g2),
       (0x14010203, 0x1B675A97, .irem g2), (0x15010203, 0x0B675A97, .imin g2), (0x15010203, 0x1B675A97, .imax g2),
       (0x16010203, 0x0B675A97, .iabs g2), (0x16010203, 0x1B675A97, .ineg g2), (0x17010203, 0x0B675A97, .and g2),
       (0x17010203, 0x1B675A97, .or g2), (0x17010203, 0x2B675A97, .xor g2), (0x17010203, 0x3B675A97, .andn g2),
       (0x17010203, 0x4B675A97, .not g2), (0x18010203, 0x0B675A97, .shl g2), (0x18010203, 0x1B675A97, .shr g2),
       (0x18010203, 0x2B675A97, .sra g2), (0x18010203, 0x3B675A97, .rol g2), (0x19010203, 0x0B675A97, .bfx g2),
       (0x19010203, 0x1B675A97, .bfi g2), (0x19010203, 0x2B675A97, .popc g2), (0x19010203, 0x3B675A97, .clz g2),
       (0x19010203, 0x4B675A97, .ctz g2), (0x19010203, 0x5B675A97, .brev g2), (0x1A010203, 0x0B675A97, .icmp g2),
       (0x1B010203, 0x0B675A97, .mov g2), (0x1B010203, 0x1B675A97, .sel g2), (0x1C010203, 0x0B675A97, .lea g2),
       (0x1D010203, 0x0B675A97, .xset g2), (0x1D010203, 0x1B675A97, .xadd g2)] = true := by decide +kernel

/-- Predicate and wave forms. -/
theorem test_decode_predicate :
    decodes
      [(0x20010203, 0x0B675A97, .pand g2), (0x21010203, 0x0B675A97, .por g2), (0x22010203, 0x0B675A97, .pxor g2),
       (0x23010203, 0x0B675A97, .pnot g2), (0x24010203, 0x0B675A97, .vote g2), (0x25010203, 0x0B675A97, .ballot g2),
       (0x26010203, 0x0B675A97, .shfl g2), (0x27010203, 0x0B675A97, .redux g2)] = true := by decide +kernel

/-- Control forms. -/
theorem test_decode_control :
    decodes
      [(0x31010203, 0x0B675A97, .brx g2), (0x33010203, 0x0B675A97, .callx g2), (0x34010203, 0x0B675A97, .ret g2),
       (0x35010203, 0x0B675A97, .exit g2), (0x36010203, 0x0B675A97, .rgive g2), (0x37010203, 0x0B675A97, .rclaim g2),
       (0x38010203, 0x0B675A97, .repack g2), (0x39010203, 0x0B675A97, .krnLaunch g2)] = true := by decide +kernel

/-- Floating, conversion and block forms. -/
theorem test_decode_float :
    decodes
      [(0x40010203, 0x0B675A97, .fadd g2), (0x41010203, 0x0B675A97, .fsub g2), (0x42010203, 0x0B675A97, .fmul g2),
       (0x43010203, 0x0B675A97, .fma g2), (0x44010203, 0x0B675A97, .fmin g2), (0x44010203, 0x1B675A97, .fmax g2),
       (0x45010203, 0x0B675A97, .fcmp g2), (0x46010203, 0x0B675A97, .fclass g2), (0x47010203, 0x0B675A97, .frnd g2),
       (0x48010203, 0x0B675A97, .fdiv g2), (0x49010203, 0x0B675A97, .fsqrt g2), (0x4A010203, 0x0B675A97, .frcp g2),
       (0x4A010203, 0x1B675A97, .frsq g2), (0x4B010203, 0x0B675A97, .fexp2 g2), (0x4B010203, 0x1B675A97, .flog2 g2),
       (0x4C010203, 0x0B675A97, .fsin g2), (0x4C010203, 0x1B675A97, .fcos g2), (0x4D010203, 0x0B675A97, .fscale g2),
       (0x4E010203, 0x0B675A97, .fexpo g2), (0x50010203, 0x0B675A97, .faddF64 g2),
       (0x51010203, 0x0B675A97, .fsubF64 g2), (0x52010203, 0x0B675A97, .fmulF64 g2),
       (0x53010203, 0x0B675A97, .fmaF64 g2), (0x54010203, 0x0B675A97, .fminF64 g2),
       (0x54010203, 0x1B675A97, .fmaxF64 g2), (0x55010203, 0x0B675A97, .fcmpF64 g2),
       (0x56010203, 0x0B675A97, .fclassF64 g2), (0x57010203, 0x0B675A97, .frndF64 g2),
       (0x58010203, 0x0B675A97, .fdivF64 g2), (0x59010203, 0x0B675A97, .fsqrtF64 g2),
       (0x5A010203, 0x0B675A97, .frcpF64 g2), (0x5A010203, 0x1B675A97, .frsqF64 g2),
       (0x5D010203, 0x0B675A97, .fscaleF64 g2), (0x5E010203, 0x0B675A97, .fexpoF64 g2),
       (0x60010203, 0x0B675A97, .cvt g2), (0x61010203, 0x0B675A97, .qnt g2), (0x62010203, 0x0B675A97, .dqnt g2),
       (0x63010203, 0x0B675A97, .bmax g2), (0x64010203, 0x0B675A97, .pack g2),
       (0x65010203, 0x0B675A97, .unpack g2)] = true := by decide +kernel

/-- Matrix, cache and synchronisation forms. -/
theorem test_decode_matrix_sync :
    decodes
      [(0x70010203, 0x0B675A97, .mma g2), (0x71010203, 0x0B675A97, .mmas g2), (0x72010203, 0x0B675A97, .mzero g2),
       (0x73010203, 0x0B675A97, .mdrain g2), (0x74010203, 0x0B675A97, .mdrainSp g2),
       (0x75010203, 0x0B675A97, .mmeta g2), (0x76010203, 0x0B675A97, .mstat g2), (0x8A010203, 0x0B675A97, .invL1 g2),
       (0x8B010203, 0x0B675A97, .wbL1 g2), (0xA3010203, 0x0B675A97, .wait g2), (0xA4010203, 0x0B675A97, .semInc g2),
       (0xA4010203, 0x1B675A97, .semWait g2), (0xA4010203, 0x2B675A97, .semSet g2),
       (0xA5010203, 0x0B675A97, .barArrive g2), (0xA5010203, 0x1B675A97, .barWait g2),
       (0xA5010203, 0x2B675A97, .barSync g2), (0xA6010203, 0x0B675A97, .fenceAcq g2),
       (0xA6010203, 0x1B675A97, .fenceRel g2), (0xA6010203, 0x2B675A97, .fenceAr g2),
       (0xA7010203, 0x0B675A97, .sramMode g2)] = true := by decide +kernel

/-- Task, ray, region, collective and system forms. -/
theorem test_decode_task_system :
    decodes
      [(0xB0010203, 0x0B675A97, .tskSpawn g2), (0xB1010203, 0x0B675A97, .tskSpawnp g2),
       (0xB2010203, 0x0B675A97, .tskJoin g2), (0xB3010203, 0x0B675A97, .tskPark g2),
       (0xB4010203, 0x0B675A97, .tskExit g2), (0xB5010203, 0x0B675A97, .reuInv g2),
       (0xB6010203, 0x0B675A97, .reuStat g2), (0xC0010203, 0x0B675A97, .rayCast g2),
       (0xC1010203, 0x0B675A97, .rayBeam g2), (0xC2010203, 0x0B675A97, .rayAccept g2),
       (0xC2010203, 0x1B675A97, .rayIgnore g2), (0xC2010203, 0x2B675A97, .rayTerm g2),
       (0xC3010203, 0x0B675A97, .rayRd g2), (0xD0010203, 0x0B675A97, .rgnOpen g2),
       (0xD1010203, 0x0B675A97, .rgnCommit g2), (0xD3010203, 0x0B675A97, .rgnStat g2),
       (0xD8010203, 0x0B675A97, .colStart g2), (0xD9010203, 0x0B675A97, .colReform g2),
       (0xDA010203, 0x0B675A97, .colStat g2), (0xE0010203, 0x0B675A97, .mapRd g2),
       (0xE1010203, 0x0B675A97, .mapAckInstr g2), (0xE2010203, 0x0B675A97, .srGet g2),
       (0xE3010203, 0x0B675A97, .srSet g2), (0xE4010203, 0x0B675A97, .trap g2), (0xE5010203, 0x0B675A97, .tret g2),
       (0xE8010203, 0x0B675A97, .halt g2), (0xE9010203, 0x0B675A97, .profRd g2)] = true := by decide +kernel

/-- Three-word forms: word 2 is 0x89ABCDEF. -/
theorem test_decode_three_words :
    decodes
      [(0x1E010203, 0x0B675A97, .moviImm32 g3), (0x1F010203, 0x0B675A97, .iaddImm32 g3),
       (0x30010203, 0x0B675A97, .bra g3), (0x32010203, 0x0B675A97, .call g3), (0x80010203, 0x0B675A97, .ldG g3),
       (0x81010203, 0x0B675A97, .stG g3), (0x82010203, 0x0B675A97, .ldSp g3), (0x83010203, 0x0B675A97, .stSp g3),
       (0x84010203, 0x0B675A97, .ldRo g3), (0x85010203, 0x0B675A97, .ldAcq g3), (0x86010203, 0x0B675A97, .stRel g3),
       (0x87010203, 0x0B675A97, .ldv g3), (0x88010203, 0x0B675A97, .stv g3), (0x89010203, 0x0B675A97, .pref g3),
       (0x90010203, 0x0B675A97, .atomAdd g3), (0x90010203, 0x1B675A97, .atomMin g3),
       (0x90010203, 0x2B675A97, .atomMax g3), (0x90010203, 0x3B675A97, .atomAnd g3),
       (0x90010203, 0x4B675A97, .atomOr g3), (0x90010203, 0x5B675A97, .atomXor g3),
       (0x90010203, 0x6B675A97, .atomXch g3), (0x90010203, 0x7B675A97, .atomCas g3),
       (0x91010203, 0x0B675A97, .fatomAdd g3), (0x92010203, 0x0B675A97, .redAdd g3),
       (0x92010203, 0x1B675A97, .redMin g3), (0x92010203, 0x2B675A97, .redMax g3),
       (0x92010203, 0x3B675A97, .redAnd g3), (0x92010203, 0x4B675A97, .redOr g3),
       (0x92010203, 0x5B675A97, .redXor g3), (0x93010203, 0x0B675A97, .hgat g3), (0xA0010203, 0x0B675A97, .cpy g3),
       (0xA1010203, 0x0B675A97, .cpyMx g3), (0xA2010203, 0x0B675A97, .cpyCk g3),
       (0xD2010203, 0x0B675A97, .rgnAbort g3)] = true := by decide +kernel

/-- Commands (R61, R68): TYPE, then CTX 5, LEN 1, SEQ 0x01020304, TAG 0x0A, one byte of body. -/
theorem test_decode_messages :
    commands
      [.ctxCreate gm, .ctxDestroy gm, .ctxPolicy gm, .memMap gm, .memUnmap gm, .launch gm, .ctxHalt gm, .ctxResume gm, .mapAck gm, .ckpt gm, .restore gm, .ckWindow gm, .attest gm, .mapSnap gm, .powerLimit gm, .relaySet gm, .peerClear gm, .mapRebuild gm, .geomIn gm, .fwWrite gm, .fwCommit gm] 1 = true := by decide +kernel

/-! ## One instruction at a time -/

/-- The wave of `small`: one wave on core 0 with 64 main registers and 64 scalars, all 0, its code on page 1. -/
def small : State := State.reset.withFetchWord 96 0
def me : Nat := State.reset.nextId + 2

/-- The machine with its wave issuing an instruction of a mixed clause, its registers and more set first. -/
def stand (i : Instr) (f : Wave → Wave := id) (g : State → State := id) : State :=
  { (g small).updWave me (fun w => f { w with frontier :=
      [{ pc := probePc, depth := 0, prio := 0, mask := Mask.all, clause := some { hdr := probeVa, cls := 6, left := 1 } }] }) with
    issue := some { wave := me, pc := probePc, depth := 0, next := probePc + 4 * (encodeWords i).length, last := true, cls := 6,
                    w0 := (encodeWords i).getD 0 0, w1 := (encodeWords i).getD 1 0 } }

/-- The instruction has its own effect there. -/
def ready (i : Instr) (s : State) : Bool := (s.env? i.form.pidx i.form.pneg).any (fun env => i.form.completes env)

/-- The wave after the instruction. -/
def after (i : Instr) (s : State) : Option Wave :=
  match exec i s with
  | .next t => t.wave? me
  | .fault _ | .refused _ => none

/-- It stands behind the instruction, and took no cause. -/
def goes (i : Instr) (s : State) : Bool :=
  (after i s).any (fun w => w.hold == .none && w.trap.tcause == 0 &&
    w.frontier.any (fun e => e.pc == probePc + 4 * (encodeWords i).length))

/-! ## States that meet the statements' hypotheses -/

def q1 : F1 := { d := 1, a := 2, b := 3 }
def q2 (d a b c : Byte) (ty : BitVec 3) (mod : BitVec 9) : F2 :=
  { d := d, a := a, b := b, pidx := 0, pneg := false, la := 0, ty := ty, mod := mod, c := c }
def q3 (d a b c : Byte) (ty : BitVec 3) (mod : BitVec 9) (imm : Word) : F3 := { w := q2 d a b c ty mod, imm := imm }

/-- Main register n of every lane, and pairs. -/
def setV (n : Nat) (v : Word) (w : Wave) : Wave := { w with lanes := w.lanes.map (fun l => l.put (.v n) [{ val := v }]) }

/-- Page 2 of the context is mapped writable to page 4, and v2:v3 points to it. -/
def mapped (s : State) : State := { s with mem := writeBytes s.mem (2 * pageBytes + 16) (toBytes 8 (pteOf 1 4 0 false false true)) }
def data (w : Wave) : Wave := setV 2 0x40000 w

/-- Some lanes of the entry are active: the predicate p1 is true in lanes 0 to k - 1 alone. -/
def part (k : Nat) (w : Wave) : Wave :=
  { w with lanes := (indexed w.lanes).map (fun x => x.2.setPred 1 (decide (x.1 < k))) }
def inData (i : Instr) : State := stand i (fun w => part 1 (data w)) mapped

/-- A memory form that only lane 0 takes. -/
def m3 (d a b c : Byte) (ty : BitVec 3) (mod : BitVec 9) (imm : Word) : F3 :=
  { w := { q2 d a b c ty mod with pidx := 1 }, imm := imm }

def done (i : Instr) : Bool := ready i (stand i) && goes i (stand i)
def doneIn (i : Instr) : Bool := ready i (inData i) && goes i (inData i)

theorem witness_IntegerTypes : (0 : Nat) < 8 ∧ tyWidth 7 = 64 := by decide +kernel

theorem witness_OneWordIntegerResults :
    [Instr.iaddI32 q1, .isubI32 q1, .imulI32 q1, .iminI32 q1, .imaxI32 q1, .andB32 q1, .orB32 q1, .xorB32 q1, .andnB32 q1,
     .shlB32 q1, .shrB32 q1, .sraB32 q1, .notB32 { q1 with b := 0 }, .popcB32 { q1 with b := 0 }, .movi q1].all done = true := by
  decide +kernel

theorem witness_IntegerArithmeticResults :
    [Instr.iadd (q2 1 2 4 0 2 0), .isub (q2 1 2 4 0 2 0), .imul (q2 1 2 4 0 2 0), .imulh (q2 1 2 4 0 2 0), .imad (q2 1 2 4 6 2 0),
     .idiv (q2 1 2 4 0 2 0), .irem (q2 1 2 4 0 2 0), .imin (q2 1 2 4 0 2 0), .imax (q2 1 2 4 0 2 0), .iabs (q2 1 2 0 0 2 0),
     .ineg (q2 1 2 0 0 2 0), .lea (q2 0 2 4 0 2 0), .moviImm32 (q3 1 0 0 0 2 0 5), .iaddImm32 (q3 1 2 0 0 2 0 5)].all done = true := by
  decide +kernel

theorem witness_LogicResults :
    [Instr.and (q2 1 2 4 0 6 0), .or (q2 1 2 4 0 6 0), .xor (q2 1 2 4 0 6 0), .andn (q2 1 2 4 0 6 0), .not (q2 1 2 0 0 6 0),
     .shl (q2 1 2 4 0 6 0), .shr (q2 1 2 4 0 6 0), .sra (q2 1 2 4 0 6 0), .rol (q2 1 2 4 0 6 0), .bfx (q2 1 2 4 0 2 0),
     .bfi (q2 1 2 4 6 6 0), .popc (q2 1 2 0 0 6 0), .clz (q2 1 2 0 0 6 0), .ctz (q2 1 2 0 0 6 0), .brev (q2 1 2 0 0 6 0)].all done
      = true := by decide +kernel

theorem witness_MoveResults :
    [Instr.movB32 { q1 with b := 0 }, .mov (q2 1 2 0 0 6 0), .sel (q2 1 2 4 3 6 0), .xset (q2 1 2 0 0 2 0),
     .xset (q2 7 2 0 0 2 3), .xadd (q2 1 2 0 0 2 0)].all done = true := by decide +kernel

theorem witness_PredicateResults :
    [Instr.icmp (q2 1 2 4 0 2 0), .pand (q2 1 2 4 0 2 3), .por (q2 1 2 4 0 2 0), .pxor (q2 1 2 4 0 2 0), .pnot (q2 7 2 0 0 2 0),
     .fcmp (q2 1 2 4 0 0 0), .fcmpF64 (q2 1 2 4 0 0 0)].all done = true := by decide +kernel

theorem witness_WaveResults :
    [Instr.vote (q2 1 2 0 0 2 0), .vote (q2 1 2 0 0 2 2), .ballot (q2 1 2 0 0 2 0), .shfl (q2 1 2 4 0 6 0), .shfl (q2 1 2 4 0 6 3),
     .redux (q2 1 2 0 0 2 0), .redux (q2 1 2 0 0 6 5)].all done = true := by decide +kernel

theorem witness_FloatArithmeticResults :
    [Instr.fadd (q2 1 2 4 0 0 0), .fsub (q2 1 2 4 0 0 0), .fmul (q2 1 2 4 0 0 0), .fma (q2 1 2 4 6 0 0), .fmin (q2 1 2 4 0 0 0),
     .fmax (q2 1 2 4 0 0 0), .fdiv (q2 1 2 4 0 0 0), .fscale (q2 1 2 4 0 0 0), .faddF64 (q2 0 2 4 0 0 0), .fsubF64 (q2 0 2 4 0 0 0),
     .fmulF64 (q2 0 2 4 0 0 0), .fmaF64 (q2 0 2 4 6 0 0), .fminF64 (q2 0 2 4 0 0 0), .fmaxF64 (q2 0 2 4 0 0 0),
     .fdivF64 (q2 0 2 4 0 0 0), .fscaleF64 (q2 0 2 4 0 0 0)].all done = true := by decide +kernel

theorem witness_FloatFunctionResults :
    [Instr.fsqrt (q2 1 2 0 0 0 0), .frcp (q2 1 2 0 0 0 0), .frsq (q2 1 2 0 0 0 0), .frnd (q2 1 2 0 0 0 0), .fclass (q2 1 2 0 0 0 0),
     .fexpo (q2 1 2 0 0 0 0), .fexp2 (q2 1 2 0 0 0 0), .flog2 (q2 1 2 0 0 0 0), .fsin (q2 1 2 0 0 0 0), .fcos (q2 1 2 0 0 0 0),
     .cvt (q2 1 2 0 6 0 0), .fsqrtF64 (q2 0 2 0 0 0 0), .frcpF64 (q2 0 2 0 0 0 0), .frsqF64 (q2 0 2 0 0 0 0),
     .frndF64 (q2 0 2 0 0 0 0), .fclassF64 (q2 1 2 0 0 0 0), .fexpoF64 (q2 1 2 0 0 0 0)].all done = true := by decide +kernel

/-- The wave stands at an address, and took no cause. -/
def goesTo (i : Instr) (s : State) (pc depth : Nat) : Bool :=
  (after i s).any (fun w => w.trap.tcause == 0 && w.frontier.any (fun e => e.pc == pc && e.depth == depth && e.mask == Mask.all))

def aimed (i : Instr) (depth : Nat := 0) : State :=
  let s := stand i (fun w => setV 2 (BitVec.ofNat 32 (probePc + 12)) { w with frontier := w.frontier.map (fun e => { e with depth := depth }) })
  { s with issue := s.issue.map (fun x => { x with depth := depth })
           waves := s.waves.map (fun w => { w with frontier := w.frontier.map (fun e => { e with depth := depth }) }) }

theorem witness_BranchResults :
    goesTo (.bra (q3 0 0 0 0 0 0 12)) (aimed (.bra (q3 0 0 0 0 0 0 12))) (probePc + 12) 0 = true ∧
    goesTo (.brx (q2 0 2 0 0 0 0)) (aimed (.brx (q2 0 2 0 0 0 0))) (probePc + 12) 0 = true ∧
    goesTo (.call (q3 6 0 0 0 0 0 12)) (aimed (.call (q3 6 0 0 0 0 0 12))) (probePc + 12) 1 = true ∧
    goesTo (.callx (q2 6 2 0 0 0 0)) (aimed (.callx (q2 6 2 0 0 0 0)) 254) (probePc + 12) 255 = true ∧
    goesTo (.ret (q2 0 2 0 0 0 0)) (aimed (.ret (q2 0 2 0 0 0 0)) 1) (probePc + 12) 0 = true := by decide +kernel

/-- One clause of a statement about registers given and taken: the wave, its entry and its pool meet it. -/
def sized (n : Nat) (w : Wave) : Wave :=
  { w with regs := n, lanes := w.lanes.map (fun l => { l with v := List.replicate n {} }) }

/-- The pool of the wave's group on its partition. -/
def pooled (p : Pool) (s : State) : State :=
  s.updGang (State.reset.nextId + 1) (fun g => { g with groups := g.groups.map (fun r => { r with pools := [p] }) })

theorem witness_RegisterPools :
    (ready (.rgive (q2 0 0 0 16 0 0)) (stand (.rgive (q2 0 0 0 16 0 0)) (sized 24)) &&
      goes (.rgive (q2 0 0 0 16 0 0)) (stand (.rgive (q2 0 0 0 16 0 0)) (sized 24))) = true ∧
    (after (.rgive (q2 0 0 0 16 0 0)) (stand (.rgive (q2 0 0 0 16 0 0)) (sized 24))).map (fun w => w.regs) = some 8 ∧
    (after (.rclaim (q2 0 0 0 8 0 0)) (stand (.rclaim (q2 0 0 0 8 0 0)) (sized 184)
      (pooled { core := 0, partition := 0, free := 8 }))).map (fun w => w.regs) = some 192 ∧
    (after (.rclaim (q2 0 0 0 16 0 0)) (stand (.rclaim (q2 0 0 0 16 0 0)) (sized 24)
      (pooled { core := 0, partition := 0, free := 8 }))).map (fun w => w.frontier.map (fun e => e.block)) = some [.rclaim 16] ∧
    (after (.repack (q2 0 2 0 0 0 0)) (stand (.repack (q2 0 2 0 0 0 0)) id (fun s => s.updLaunch State.reset.nextId
        (fun l => { l with headers := [probeVa, probePc + 8] })))).map
      (fun w => w.frontier.map (fun e => e.block == .repack (laneList.map (fun l => (l, 0))))) = some [true] := by decide +kernel

theorem witness_ExitEndsThreads :
    (let i : Instr := .exit { q2 0 0 0 0 0 0 with pidx := 1 }
     let s := stand i (part 3)
     ready i s && (after i s).any (fun w => w.frontier.map (fun e => e.mask) == [0xFFFFFFF8] && !w.ended)) = true ∧
    (let i : Instr := .exit (q2 0 0 0 0 0 0)
     let s := stand i
     (s.env? 0 false).any (fun env => i.form.issues env && env.w.frontier == [env.e] && env.w.heldEntries == [] && env.w.resident) &&
       (after i s).all (fun w => w.ended)) = true := by decide +kernel

/-- The page mapped read-only. -/
def mappedRo (s : State) : State := { s with mem := writeBytes s.mem (2 * pageBytes + 16) (toBytes 8 (pteOf 1 4 0 false false false)) }

theorem witness_LoadsStart :
    [Instr.ldG (m3 1 2 0 0 2 0 0), .ldAcq (m3 1 2 0 0 2 0 0), .ldv (m3 1 240 4 0 2 0 0x40000),
     .hgat (m3 1 240 4 0 2 0 0x40000)].all (fun i => doneIn i && (after i (inData i)).any (fun w => w.ctrs.ld == 1)) = true ∧
    done (.ldSp (q3 1 2 0 0 2 0 0)) = true ∧
    (let i : Instr := .ldRo (m3 1 2 0 0 2 0 0)
     let s := stand i (fun w => part 1 (data w)) mappedRo
     ready i s && goes i s) = true := by decide +kernel

theorem witness_StoresStart :
    [Instr.stG (m3 0 2 4 0 2 0 0), .stRel (m3 0 2 4 0 2 0 0), .stv (m3 0 240 4 6 2 0 0x40000)].all (fun i =>
      doneIn i && (after i (inData i)).any (fun w => w.ctrs.st == 1)) = true ∧ done (.stSp (q3 0 2 4 0 2 0 0)) = true := by decide +kernel

/-- The gang inside a region that was just opened. -/
def inside (s : State) : State :=
  s.updGang (State.reset.nextId + 1) (fun g => { g with region := { g.region with st := 2 } })

theorem witness_buffered_store :
    (let i : Instr := .stG (q3 0 2 4 0 2 0 0)
     let s := stand i data (fun s => inside (mapped s))
     ready i s && goes i s && (s.env? 0 false).any (fun env => env.buffering)) = true := by decide +kernel

/-- The wave's group has a FIFO bank of that many entries in FIFO 0. -/
def fifo (n : Nat) (s : State) : State :=
  s.updGang (State.reset.nextId + 1) (fun g => { g with groups := g.groups.map (fun r => { r with places := r.places.map (fun p =>
    { p with fifoBanks := [31], fifos := [List.replicate n (List.replicate 32 {})] }) }) })

theorem witness_FifoForms :
    (let i : Instr := .ldSp (q3 1 240 0 0 2 0x008 0)
     let s := stand i id (fifo 1)
     ready i s && goes i s) = true ∧
    (let i : Instr := .stSp (q3 0 240 4 0 2 0x008 0)
     let s := stand i id (fifo 0)
     ready i s && goes i s) = true := by decide +kernel

theorem witness_AtomicsStart :
    [Instr.atomAdd (m3 1 2 4 0 2 0 0), .atomMin (m3 1 2 4 0 2 0 0), .atomMax (m3 1 2 4 0 2 0 0), .atomAnd (m3 1 2 4 0 2 0 0),
     .atomOr (m3 1 2 4 0 2 0 0), .atomXor (m3 1 2 4 0 2 0 0), .atomXch (m3 1 2 4 0 2 0 0), .atomCas (m3 1 2 4 6 2 0 0),
     .fatomAdd (m3 1 2 4 0 0 0 0)].all (fun i => doneIn i && (after i (inData i)).any (fun w => w.ctrs.ld == 1)) = true ∧
    [Instr.redAdd (m3 0 2 4 0 2 0 0), .redMin (m3 0 2 4 0 2 0 0), .redMax (m3 0 2 4 0 2 0 0), .redAnd (m3 0 2 4 0 2 0 0),
     .redOr (m3 0 2 4 0 2 0 0), .redXor (m3 0 2 4 0 2 0 0)].all (fun i =>
       doneIn i && (after i (inData i)).any (fun w => w.ctrs.st == 1)) = true := by decide +kernel

theorem witness_AtomicsAtHome :
    (let s := mapped small
     let r := s.atomicHome none 0x40000 32 (fun n => n + 5)
     s.memWf ∧ (∀ d ∈ s.directory, d.1 / 32 ≠ 0x40000 / 128) ∧ s.unitBad 0x40000 = false ∧ r.1 = some 0 ∧
       readNat r.2.mem 0x40000 4 = 5) ∧
    (let s : State := { small with poison := [0x40000 / 64] }; s.unitBad 0x40000 = true) := by decide +kernel

theorem witness_CacheForms :
    done (.invL1 (q2 0 0 0 0 0 0)) = true ∧ done (.wbL1 (q2 0 0 0 0 0 0)) = true ∧ doneIn (.pref (m3 0 2 0 0 0 0 0)) = true := by
  decide +kernel

theorem witness_LanesPark :
    [Instr.ldG (q3 1 2 0 0 2 0 0), .stG (q3 0 2 4 0 2 0 0)].all (fun i =>
      let s := stand i data
      ready i s && (after i s).any (fun w => w.frontier.map (fun e => e.block) ==
        [.park 0 (laneList.map (fun l => (l, 0x40000)))])) = true := by decide +kernel

/-- The state with an operation of the wave in flight. -/
def flying (body : OpBody) (s : State) : State :=
  { s with ops := [{ id := 9, wave := me, gang := some (State.reset.nextId + 1), ctx := 0, core := 0, lanes := Mask.all, ctr := some .ld,
                     body := body, at_ := 0 }] }

def oneLane : Dst := { lanes := [(0, .v 1)], words := 1 }
def oneAcc : Acc := { lane := 0, va := 0x40000, loc := .home 0x40000 }
def landed (i : Instr) (s : State) : Bool :=
  match exec i s with
  | .next t => t.ops.all (fun o => o.id != 9)
  | .fault _ | .refused _ => false

theorem witness_AccessesComplete :
    [(OpBody.load oneLane 4 false false false false false [oneAcc], Instr.loadDataLands 9 false),
     (.deliver oneLane [(0, word1 7)], .loadDataLands 9 false),
     (.fifoPop oneLane (State.reset.nextId + 1) 0 0 false, .loadDataLands 9 false),
     (.load { lanes := [(0, .q 1)], words := 1 } 4 false false false false false [oneAcc], .queueDeliveryPush 9),
     (.store 4 false false [(oneAcc, word1 3)], .storePerformed 9),
     (.buffered, .storePerformed 9), (.writeBack 0, .storePerformed 9),
     (.fifoPush (State.reset.nextId + 1) 0 0 [List.replicate 32 {}], .storePerformed 9),
     (.atom .add 32 true (some oneLane) [{ acc := oneAcc, b := 1, c := 0 }] [], .atomicAtHome 9)].all (fun x =>
       let s := flying x.1 (fifo 1 (mapped small))
       s.ops.all (fun o => s.canPerform o && !o.body.isRemote) && landed x.2 s) = true := by decide +kernel

theorem witness_OperationEnds :
    (let s := flying (.deliver oneLane [(0, word1 7)]) small
     s.ops.all (fun o => (s.wave? o.wave).any (fun w => w.frontier != [] && w.lanes.length == 32 && w.frontier.any (fun e => e.block == .none)) &&
       (s.ctx? o.ctx).all (fun c => c.parked.isEmpty)) && !s.ops.isEmpty) = true := by decide +kernel

theorem witness_RegisterReadBack :
    (let lane : Lane := { v := List.replicate 8 {}, o := List.replicate 8 {} }
     (7 : Nat) + (word1 9).length ≤ lane.v.length ∧ (7 : Nat) + (word1 9).length ≤ lane.o.length ∧ 7 < lane.q.length ∧
       3 < lane.x.length ∧ (lane.put (.v 7) (word1 9)).main 7 1 = word1 9) := by decide +kernel

theorem witness_WordsMoved :
    (let s := mapped small
     let ws : List (Nat × PWord) := [(0x40000, { val := 9 })]
     let t := s.register 0 0 true ws
     (∀ d ∈ s.directory, d.2 ≠ 0 → ∀ x ∈ ws, d.1 / 32 ≠ x.1 / 128) ∧ t.ownerOf 0x40000 = some 0 ∧
       (t.current 0x40000).val = 9 ∧ (t.coreAt 0).l1? 0x40000 = some { pa := 0x40000, val := 9, dirty := true, owned := true, ro := false } ∧
       s.ownerOf 0x40000 = none ∧ s.pinnedWord none 0 0x40000 = none ∧ s.ops.all (fun o => o.core != 0) = true ∧
       (s.mergeStores 1 [({ oneAcc with loc := .home 0x40003 }, word1 0x1FF)]).length = 1) := by decide +kernel

theorem witness_MemoryStaysCanonical : small.memWf ∧ (mapped small).memWf := by decide +kernel

/-- Encodings the rules do not accept are illegal here. -/
def illegal (i : Instr) : Bool :=
  ((stand i).env? i.form.pidx i.form.pneg).any (fun env => !i.form.legal env) &&
    (after i (stand i)).any (fun w => w.trap.tcause == 1)

theorem witness_Refusals :
    [Instr.iabs (q2 1 2 0 0 6 0), .iabs (q2 1 2 4 0 2 0), .ineg (q2 1 2 4 0 2 0), .imulh (q2 1 2 4 0 2 0x20), .idiv (q2 1 2 4 0 2 0x20),
     .irem (q2 1 2 4 0 2 0x20), .moviImm32 (q3 1 2 0 0 2 0 5), .iaddImm32 (q3 1 2 0 0 2 0x10 5), .lea (q2 1 2 4 0 2 0),
     .lea (q2 0 2 4 0 4 0), .and (q2 1 2 4 0 2 0), .rol (q2 1 2 4 0 3 0), .bfi (q2 1 2 4 6 6 0x10), .mov (q2 1 2 0 0 2 0),
     .sel (q2 1 2 4 8 6 0), .icmp (q2 1 2 4 0 2 6), .icmp (q2 8 2 4 0 2 0), .pand (q2 1 2 4 0 2 0x100), .pnot (q2 1 2 4 0 2 0),
     .vote (q2 1 2 0 0 2 3), .ballot (q2 1 2 0 0 6 0), .shfl (q2 1 2 4 0 6 4), .shfl (q2 1 2 4 0 2 0), .redux (q2 1 2 0 0 2 6),
     .redux (q2 1 2 0 0 4 0)].all illegal = true := by decide +kernel

/-! ### Blocks and the matrix engines -/

/-- Slot 0 describes BFP8 elements (kind 5), slot 1 .bf16 or another kind. -/
def slotted (a b : Dword) (w : Wave) : Wave := { w with slots := a :: b :: List.replicate 6 0 }

def b8 : Dword := 0x0805

theorem witness_BlockResults :
    [Instr.qnt (q2 1 2 0 0 0 0), .bmax (q2 1 2 0 0 0 0), .dqnt (q2 1 2 0 0 0 0), .pack (q2 1 2 0 0 0 0), .unpack (q2 1 2 0 0 0 0)].all
      (fun i => ready i (stand i (slotted b8 0)) && goes i (stand i (slotted b8 0))) = true ∧
    (∀ x ∈ [0x40400000], f32.isNan x = false ∧ f32.isInf x = false) ∧ f32.val (maxMag [0x40400000]) = .fin false 12582912 (-22) := by
  decide +kernel

/-- Tile 0 carries a tag. -/
def tagged (kind : Nat) (s : State) : State := s.updTile 0 0 0 (fun t => { t with kind := kind })

theorem witness_MatrixStarts :
    (let i : Instr := .mma (q2 0 8 0xF0 1 0 0)
     let s := stand i (slotted 0x1002 0x1002) (tagged 1)
     ready i s && goes i s && (after i s).any (fun w => w.ctrs.mx == 1)) = true ∧
    (let i : Instr := .mmas (q2 0 8 0xF0 1 0 0)
     let s := stand i (slotted 0x1002 0x1002) (tagged 1)
     ready i s && goes i s) = true ∧
    (let i : Instr := .mzero (q2 1 0 0 0 0 0)
     ready i (stand i (slotted 0x1002 0)) && goes i (stand i (slotted 0x1002 0))) = true ∧
    (let i : Instr := .mdrain (q2 8 0 0 0 0 0)
     ready i (stand i (slotted 0x1002 0) (tagged 1)) && goes i (stand i (slotted 0x1002 0) (tagged 1))) = true ∧
    (let i : Instr := .mdrainSp (q2 0 0 0xF0 0 0 0)
     ready i (stand i (slotted 0x1002 0) (tagged 1)) && goes i (stand i (slotted 0x1002 0) (tagged 1))) = true ∧
    (let i : Instr := .mmeta (q2 8 16 0 0 0 0)
     ready i (stand i (slotted 0x1002 0)) && goes i (stand i (slotted 0x1002 0))) = true ∧
    done (.mstat (q2 1 2 0 0 0 0)) = true := by decide +kernel

theorem witness_MatrixElements :
    (let rows : List (List Term) := [[], []]
     rows.length ≤ 64 ∧ (slotOf 0x1002).isBlock = false) := by decide +kernel

/-- A command of tile 0 in the queue of its engine, or running, with the operation that counts it. -/
def engaged (running : Bool) (s : State) : State :=
  flying .matrix (s.updCore 0 (fun c => { c with engines := [if running then { running := some (.zero 9 me 0) }
    else { queue := [.zero 9 me 0] }, {}] }))

theorem witness_MatrixEvents :
    (let s := engaged false small
     s.ops.all (fun o => s.canPerform o && !o.body.isRemote) = true ∧
       (match exec (.matrixCmdStart 0 0) s with | .next t => ((t.coreAt 0).engines.getD 0 {}).running.isSome | _ => false) = true) ∧
    landed (.matrixCmdComplete 0 0) (engaged true small) = true ∧
    (let s := flying (.follow none 5 0 Mask.all (State.reset.nextId + 1) 0 0 false) small
     s.ops.all (fun o => (s.ctxFor o.gang o.ctx).isSome && (s.op? 5).isNone) = true ∧
       (match exec (.cpyMxFollowOn 9) s with | .next t => ((t.coreAt 0).engines.getD 0 {}).queue.length | _ => 0) = 1) := by
  decide +kernel

/-! ### Copies and synchronisation -/

theorem witness_CopiesStart :
    (let i : Instr := .cpy (q3 0 2 4 6 0 0 8)
     let s := stand i (fun w => setV 4 0x40040 (data w)) mapped
     ready i s && goes i s && (after i s).any (fun w => w.ctrs.cp == 1)) = true ∧
    (let i : Instr := .cpyCk (q3 0 2 4 6 0 0 64)
     let s := stand i data (fun s => (mapped s).updCtx 0 (fun c => { c with window := some (1537 * 2 ^ 30, 65536) }))
     ready i s && goes i s && (after i s).any (fun w => w.ctrs.cp == 1)) = true ∧
    (let i : Instr := .cpyMx (q3 0 2 4 6 0 0 0)
     let s := stand i (fun w => slotted 0x1002 0x1002 (data w)) (fun s => tagged 1 (mapped s))
     ready i s && goes i s && (after i s).any (fun w => w.ctrs.cp == 1 && w.ctrs.mx == 1)) = true := by decide +kernel

theorem witness_CopiesRun :
    (let s := flying (.copy (.g 0x40000) (.sp (State.reset.nextId + 1) 0 0) 8 0 none false) (mapped small)
     s.ops.all (fun o => s.canPerform o && (s.ctxFor o.gang o.ctx).isSome) = true ∧ landed (.copyComplete 9) s = true) ∧
    (let s := flying (.copy (.sp (State.reset.nextId + 1) 0 0) (.g 0x40000) 8 0 none false) small
     s.ctxs.all (fun cx => s.xlate cx .store 0x40000 == .invalid) = true ∧
       (match exec (.copyComplete 9) s with | .next t => t.ops.map (fun o => o.pageSince) | _ => []) = [some 0]) ∧
    (let s := flying (.copy (.sp (State.reset.nextId + 1) 0 0) (.g 0x40000) 8 0 none false) small
     let t : State := { s with ops := s.ops.map (fun o => { o with pageSince := some 0 }), time := 100000000 }
     landed (.enginePageTimeout 9) t = true) ∧
    (small.gang? (State.reset.nextId + 1)).any (fun g => (g.place? 0).isSome && !g.region.attempting) = true := by decide +kernel

theorem witness_Semaphores :
    (let i : Instr := .semInc (q2 0 2 0 0 0 128)
     ready i (stand i (setV 2 3)) && goes i (stand i (setV 2 3))) = true ∧
    (let i : Instr := .semSet (q2 0 2 0 0 0 128)
     ready i (stand i (setV 2 3)) && goes i (stand i (setV 2 3))) = true ∧
    (let i : Instr := .semWait (q2 0 2 0 0 0 128)
     ready i (stand i) && goes i (stand i)) = true ∧
    (let i : Instr := .semWait (q2 0 2 0 0 0 128)
     ready i (stand i (setV 2 3)) && (after i (stand i (setV 2 3))).any (fun w => w.frontier.map (fun e => e.block) == [.sem 0 3])) = true ∧
    (let s := (small.setSem 0 0 2 7).updCtxCore 0 0 (fun c => { c with waiters := [(2, { wave := me, pc := 0, depth := 0, v := 5 })] })
     s.waitersOn 0 0 2 ≠ [] ∧ (match exec (.semWaitPass 0 0 2) s with | .next t => t.sem 0 0 2 | _ => 0) = 2) := by decide +kernel

/-- The wave's arrived flag at the gang barrier, and at its named barrier 0. -/
def arrived (s : State) : State :=
  s.updGang (State.reset.nextId + 1) (fun g => { g with
    bar := { arrived := [me] }, groups := g.groups.map (fun r => { r with bars := { arrived := [me] } :: r.bars.drop 1 }) })

def waitsAt (i : Instr) (s : State) (b : Block) : Bool :=
  ready i s && (after i s).any (fun w => w.frontier.map (fun e => e.block) == [b])

theorem witness_Barriers :
    done (.barArrive (q2 0 0 0 64 0 0)) = true ∧ done (.barArrive (q2 0 0 0 3 0 0)) = true ∧
    done (.barWait (q2 0 0 0 64 0 0)) = true ∧ done (.barWait (q2 0 0 0 0 0 0)) = true ∧
    waitsAt (.barWait (q2 0 0 0 64 0 0)) (stand (.barWait (q2 0 0 0 64 0 0)) id arrived) (.barrier .gang) = true ∧
    waitsAt (.barSync (q2 0 0 0 64 0 0)) (stand (.barSync (q2 0 0 0 64 0 0))) (.barrier .gang) = true ∧
    waitsAt (.barSync (q2 0 0 0 7 0 0)) (stand (.barSync (q2 0 0 0 7 0 0))) (.barrier (.named 0 7)) = true ∧
    (let s := arrived small
     (s.participants (State.reset.nextId + 1) .gang).map (fun w => w.id) = [me] ∧
       (match exec (.barrierRelease (State.reset.nextId + 1) .gang) s with
        | .next t => t.gangs.map (fun g => g.bar.arrived) | _ => []) = [[]]) := by decide +kernel

theorem witness_WaitAndFences :
    [Instr.wait (q2 0 0 4 6 0 0), .fenceAcq (q2 0 0 0 0 0 0), .fenceRel (q2 0 0 0 0 0 0), .fenceAr (q2 0 0 0 0 0 0),
     .sramMode (q2 1 0 0 0 0 0)].all done = true ∧
    (let i : Instr := .wait (q2 0 0 4 6 0 0)
     ((stand i).env? 0 false).any (fun env => (stand i).formReady env i.form)) = true ∧
    landed (.sramModeChangeDone 9) (flying (.sramMode oneLane 0) small) = true := by decide +kernel

/-! ### Tasks, reuse and rays -/

/-- A kernel whose header has some flags, the wave's next instruction a header. -/
def flagged (flags : Nat) (s : State) : State :=
  s.updLaunch State.reset.nextId (fun l => { l with hdr := { l.hdr with flags := flags } })

/-- A memory word of the page at 0x40000. -/
def word (a v : Nat) (s : State) : State := { s with mem := writeBytes s.mem (4 * pageBytes + a) (toBytes 4 v) }

/-- The task area in the same page, its first free pool slot 1. -/
def area (s : State) : State := word 0x8018 1 (s.updCtx 0 (fun c => { c with taskArea := 0x48000 }))

/-- A form whose predicate is p1. -/
def f1st (f : F2) : F2 := { f with pidx := 1 }

theorem witness_TaskForms :
    (let i : Instr := .tskSpawn (f1st (q2 8 2 6 4 0 2))
     let s := stand i (fun w => part 2 (setV 2 (BitVec.ofNat 32 probeVa) w))
     ready i s && goes i s) = true ∧
    (let i : Instr := .tskSpawnp (f1st (q2 8 2 6 16 0 0))
     let s := stand i (fun w => part 1 (setV 2 (BitVec.ofNat 32 probeVa) (setV 16 0x40000 (setV 22 0x40 w)))) (fun s => flagged 2 (mapped s))
     ready i s && goes i s) = true ∧
    (let i : Instr := .tskJoin (f1st (q2 8 2 0 4 0 1))
     let s := stand i (fun w => part 1 (data w)) mapped
     ready i s && goes i s) = true ∧
    (let i : Instr := .tskJoin (f1st (q2 8 2 0 4 0 1))
     let s := stand i (fun w => part 1 (data w)) (fun s => word 0 3 (area (mapped s)))
     ready i s && (after i s).any (fun w => w.frontier.map (fun e => e.mask) == [0xFFFFFFFE]) &&
       (match exec i s with | .next t => readNat t.mem (4 * pageBytes + 4) 4 | _ => 0) != 0) = true ∧
    (let i : Instr := .tskPark (f1st (q2 1 0 4 6 0 2))
     let s := stand i (part 1) (fun s => area (mapped s))
     ready i s && (after i s).any (fun w => w.frontier.map (fun e => e.mask) == [0xFFFFFFFE])) = true ∧
    (let i : Instr := .tskExit (q2 0 0 0 0 0 0)
     let s := stand i (fun w => { w with task := true, gang := none })
     (s.env? 0 false).any (fun env => env.w.task) && (after i s).all (fun w => w.ended)) = true := by decide +kernel

theorem witness_ReuseForms :
    done (.reuInv (q2 0 2 0 0 0 0)) = true ∧ done (.reuStat (q2 0 0 0 6 0 0)) = true := by decide +kernel

theorem witness_RayForms :
    [Instr.rayCast (f1st (q2 1 8 4 0 0 0)), .rayBeam (f1st (q2 1 8 4 0 0 0)), .rayAccept (f1st (q2 0 2 0 0 0 0)),
     .rayIgnore (f1st (q2 0 2 0 0 0 0)), .rayTerm (f1st (q2 0 2 0 0 0 0)), .rayRd (f1st (q2 1 0 0 6 0 0))].all (fun i =>
       let s := stand i (fun w => part 1 (setV 4 0x40000 w))
       ready i s && goes i s) = true ∧
    landed (.rayAppendComplete 9) (flying (.ray oneLane [(0, word1 1)]) small) = true := by decide +kernel

/-! ### Regions and what follows them -/

def gid : Nat := State.reset.nextId + 1

/-- The region of the gang. -/
def region (r : Region) (s : State) : State := s.updGang gid (fun g => { g with region := r, logBase := 0x40000 })

theorem witness_RegionForms :
    (let i : Instr := .rgnOpen (q2 0 0 0 64 0 0)
     let s := stand i id (flagged 1)
     ready i s && (after i s).any (fun w => w.frontier.map (fun e => e.block) == [.regionOpen]) &&
       (match exec i s with | .next t => t.gangs.map (fun g => g.region.st) == [1] | _ => false)) = true ∧
    (let i : Instr := .rgnCommit (q2 0 0 0 0 0 0)
     let s := stand i id (fun s => region { st := 2 } (flagged 1 s))
     ready i s && (after i s).any (fun w => w.frontier.map (fun e => e.block) == [.regionCommit]) &&
       (match exec i s with | .next t => t.gangs.map (fun g => g.region.st) == [4] | _ => false)) = true ∧
    (let i : Instr := .rgnAbort (q3 0 0 0 0 0 0 12)
     let s := stand i id (fun s => region { st := 2 } (flagged 1 s))
     ready i s && (match exec i s with | .next t => t.gangs.map (fun g => g.region.abort.isSome) == [true] | _ => false)) = true ∧
    (let i : Instr := .rgnAbort (q3 0 0 0 0 0 0 12)
     let s := stand i id (fun s => region { st := 2, overflow := true } (flagged 1 s))
     ready i s && (match exec i s with | .next t => t.gangs.map (fun g => g.doom.isSome) == [true] | _ => false)) = true ∧
    done (.rgnStat (q2 1 0 0 0 0 0)) = true ∧ done (.rgnStat (q2 1 0 0 1 0 0)) = true := by decide +kernel

/-- The gang's wave waits in a block. -/
def blocked (b : Block) (s : State) : State :=
  s.updWave me (fun w => { w with frontier := [{ pc := probePc, depth := 0, prio := 0, mask := Mask.all, block := b }] })

def stAfter (i : Instr) (s : State) : List Nat :=
  match exec i s with
  | .next t => t.gangs.map (fun g => g.region.st)
  | .fault _ | .refused _ => []

def snapOf (n : Nat) : Snap :=
  { wave := me, n := n, scalars := List.replicate 64 {}, lanes := List.replicate 32 { v := List.replicate 64 {}, o := List.replicate 8 {} },
    entry := { pc := probePc + 8, depth := 0, prio := 0, mask := Mask.all } }

theorem witness_RegionsCommit :
    stAfter (.regionOpenRelease gid) (blocked .regionOpen (region { st := 1 } small)) = [2] ∧
    (((region { st := 2, snapDone := false } small).updGang gid (fun g => { g with logPages := 1 })).logOf gid).isSome = true ∧
    stAfter (.commitPoint gid) (blocked .regionCommit (region { st := 4 } small)) = [5] ∧
    (match exec (.commitTokenReturn gid 0) (region { st := 5, token := true } small) with
      | .next t => t.gangs.map (fun g => (g.region.token, g.region.drained)) | _ => []) = [(false, [0])] ∧
    stAfter (.commitDrainDone gid) (blocked .regionCommit (region { st := 5, drained := [0] } small)) = [0] ∧
    ((snapOf 3).n ≤ 192 ∧ (snapOf 3).lanes.length = 32 ∧ (snapOf 3).scalars.length = 64 ∧
      ∀ l ∈ (snapOf 3).lanes, (snapOf 3).n ≤ l.v.length) := by decide +kernel

/-- The gang's doom. -/
def doomed (d : Doom) (s : State) : State := s.updGang gid (fun g => { g with doom := some d })
def slip (core : Option Nat) : Doom := { source := 1, core := core, cause := 0, reason := 0, kill := false }

theorem witness_RegionsRollBack :
    stAfter (.rollback gid) (doomed (slip none) (region { st := 2, snaps := [snapOf 3] } small)) = [6] ∧
    (match exec (.rollback gid) (doomed (slip none) (region { st := 4, attempt := 3, snaps := [snapOf 3] } small)) with
      | .next t => t.gangs.map (fun g => g.doom.map (fun d => d.reason)) | _ => []) = [some 2] ∧
    stAfter (.rollback gid) (region { st := 2, snaps := [snapOf 3], abort := some (probeVa, 0, 0) } small) = [6] ∧
    stAfter (.rollback gid) (region { st := 2, snaps := [snapOf 3], forced := true } small) = [6] := by decide +kernel

def dooms (i : Instr) (s : State) : List (GangSt × Bool) :=
  match exec i s with
  | .next t => t.gangs.map (fun g => (g.st, g.doom.isSome))
  | .fault _ | .refused _ => []

theorem witness_GangsEnd :
    stAfter (.remountReplayStart gid) (doomed (slip none) (region { st := 6, snaps := [snapOf 3] } small)) = [2] ∧
    stAfter (.remountReplayStart gid) (doomed (slip (some 0)) (region { st := 6, snaps := [snapOf 3] } small)) = [2] ∧
    dooms (.gangKill gid) (doomed { slip none with kill := true } small) = [(.dying, true)] ∧
    (let s := (doomed { slip none with kill := true } small).updGang gid (fun g => { g with st := .dying })
     dooms (.gangRelaunch gid) s = [(.done, false)] ∧
     dooms (.gangRelaunch gid) ((s.updGang gid (fun g => { g with policy := { g.policy with relaunchCeil := 2 } })).updLaunch State.reset.nextId
       (fun l => { l with record := { l.record with relaunch := 2, flags := 2 } })) = [(.pending, false)]) ∧
    (let s := (small.updGang gid (fun g => { g with st := .done })).updLaunch State.reset.nextId (fun l => { l with doneGangs := 1 })
     s.launches.all (fun l => l.ended && l.detOps.isEmpty && l.detPages.isEmpty && l.record.done == 0) = true ∧
       (match exec (.launchComplete State.reset.nextId) s with | .next t => t.launches.length | _ => 9) = 0) := by decide +kernel

/-! ### Collectives -/

/-- The state an instruction leads to has a property. -/
def leads (i : Instr) (s : State) (p : State → Bool) : Bool :=
  match exec i s with
  | .next t => p t
  | .fault _ | .refused _ => false

def desc1 : ColDesc :=
  { kind := 0, fold := 0, ty := 2, rank := 0, round := 0, count := 1, root := 0, setId := 7, seq := 1, src := 0x40000, dst := 0x40000,
    members := [0, 9] }

def col1 : Col :=
  { id := 5, gang := State.reset.nextId + 1, ctx := 0, tenant := 1, at_ := 0x40000, reform := false, ops := [(9, me)],
    desc := some desc1, arrivedAt := some 0 }

def colMsg (payload : List Byte) (crc : Word) : ColMsg :=
  { pkg := 9, flags := 0, tenant := 1, from_ := 1, setId := 7, seq := 1, offset := 0, dest := 0, nelem := 1, payload := payload,
    crc := crc }

def collecting (s : State) : State := { s with cols := [col1] }

theorem witness_CollectiveForms :
    [Instr.colStart (f1st (q2 1 2 0 0 0 0)), .colReform (f1st (q2 1 2 0 0 0 0))].all (fun i =>
      let s := stand i (fun w => part 1 (data w)) mapped
      ready i s && goes i s && (after i s).any (fun w => w.ctrs.co == 1)) = true ∧
    done (.colStat (q2 1 0 0 0 0 0)) = true ∧ done (.colStat (q2 1 0 0 4 0 0)) = true ∧
    landed (.collectiveComplete 9) (flying (.col oneLane 5) { small with cols := [{ col1 with status := some 0 }] }) = true := by
  decide +kernel

theorem witness_CollectiveMessages :
    (let x := colData 2 [{ val := 5, mark := true }]
     colElems 2 { colMsg x.2.1 x.2.2 with flags := x.1 } = [{ val := 5, mark := true }]) ∧
    (let m := colMsg desc1.common (crc32c desc1.common)
     let s := collecting small
     (((s.ackCol m).hearers m).map (fun c => c.id)) = [5] ∧
       leads (.colMsgStart m) s (fun t => t.cols.any (fun c => (c.rankOf 1).started)) = true) ∧
    leads (.colMsgAbort (colMsg [4, 0, 0, 0] (crc32c [4, 0, 0, 0]))) (collecting small) (fun t => t.cols.all (fun c => c.status.isSome)) = true ∧
    leads (.colMsgAbort (colMsg [4, 0, 0, 0] 0)) (collecting small) (fun t => t.cols.all (fun c => c.status.isNone)) = true ∧
    leads (.colMsgData (colMsg [] 0)) ((collecting small).updDev (fun d => { d with powered := false })) (fun t => t.sentCols.isEmpty) = true ∧
    (let x : SentCol := { id := 3, dest := 9, at_ := 0, round := 200000, mtype := 2, msg := { colMsg [] (crc32c []) with pkg := 0, from_ := 0 } }
     let s := { collecting small with sentCols := [x] }
     leads (.colMsgAck (colMsg [] (crc32c []))) s (fun t => t.sentCols.isEmpty) = true ∧
     leads (.colAckTimeout 3) { s with time := 200000 } (fun t => t.cols.all (fun c => c.status.isSome)) = true) ∧
    leads (.colStartTimeout 9) (flying (.col oneLane 5) { collecting small with time := 200000 })
      (fun t => t.cols.all (fun c => c.status == some 2)) = true ∧
    leads (.abortRecordExpiry 1 7 1) { small with time := 1000000000, aborted := [{ tenant := 1, setId := 7, seq := 1, status := 0, at_ := 0 }] }
      (fun t => t.aborted.isEmpty) = true := by decide +kernel

/-! ### System instructions, traps and debug -/

def setSr (c : Byte) (v : Word) (f : Ctx → Ctx := id) : Bool :=
  let i : Instr := .srSet (q2 0 2 0 c 0 0)
  let s := stand i (setV 2 v) (fun s => s.updCtx 0 f)
  ready i s && goes i s

theorem witness_SystemForms :
    [Instr.mapRd (q2 0 2 0 0 0 0), .mapAckInstr (q2 0 2 0 0 0 0), .srGet (q2 1 0 0 6 0 0), .srGet (q2 1 0 0 2 0 0),
     .nop { d := 0, a := 0, b := 0 }].all done = true ∧
    (let i : Instr := .srGet (q2 1 0 0 2 0 0)
     let s := stand i (fun w => { w with task := true })
     ready i s && goes i s) = true ∧
    (let i : Instr := .profRd (f1st (q2 2 2 0 0 0 0))
     let s := stand i (fun w => part 1 (setV 2 0x4000 w))
     ready i s && goes i s && (s.env? 1 false).any (fun env => decide (s.profTry env 0x4000 = .ok (some 0)))) = true ∧
    [setSr 0x40 0x20000, setSr 0x49 0, setSr 0x60 5, setSr 0x61 0, setSr 0x64 0, setSr 0x62 7, setSr 0x62 4, setSr 0x63 0].all id = true ∧
    (let i : Instr := .halt (q2 0 0 0 6 0 0)
     let s := stand i
     ready i s && (after i s).any (fun w => w.hold == .halted)) = true ∧
    ((({} : TrapRegs).set 0x42 5).get 0x42 = 5 ∧ ({} : TrapRegs).tlm.length = 16) := by decide +kernel

/-- A wave with a handler, and one in its handler. -/
def handled (w : Wave) : Wave := { w with trap := { w.trap with tvec := BitVec.ofNat 64 probeVa } }
def trapped (w : Wave) : Wave :=
  { handled w with trapMode := true, trapped := w.frontier.head?, trap := { (handled w).trap with
      tpc := BitVec.ofNat 64 (probePc + 8), tentry := 0xFFFFFFFF } }

theorem witness_Traps :
    (let i : Instr := .trap (q2 0 0 0 6 0 0)
     let s := stand i handled
     (s.env? 0 false).any (fun env => i.form.issues env && env.w.trapMode == false && decide (env.w.skid ≤ 8)) &&
       (after i s).any (fun w => w.trapMode && w.trap.tcause == 0x0B && w.frontier.map (fun e => e.pc) == [probeVa])) = true ∧
    (let i : Instr := .trap (q2 0 0 0 6 0 0)
     (after i (stand i)).any (fun w => w.hold == .contained)) = true ∧
    (let i : Instr := .brk { d := 0, a := 0, b := 7 }
     (after i (stand i handled)).any (fun w => w.trap.tcause == 0x0C)) = true ∧
    (let i : Instr := .tret (q2 0 0 0 0 0 0)
     let s := stand i trapped
     (s.env? 0 false).any (fun env => i.form.issues env && env.w.trapped.isSome) &&
       (after i s).any (fun w => !w.trapMode && w.frontier.map (fun e => e.pc) == [probePc + 8])) = true ∧
    leads (.siblingStop me) (small.updWave me (fun w => { w with hold := .skid 3 false }))
      (fun t => t.waves.map (fun w => w.hold) == [.stopped]) = true ∧
    leads (.trapEntry me) (small.updWave me (fun w => { handled w with
        hold := .stopped, ownCause := true, trap := { (handled w).trap with tpc := BitVec.ofNat 64 probeVa } }))
      (fun t => t.waves.map (fun w => w.trapMode) == [true]) = true ∧
    leads (.poisonContainment me) (small.updWave me (fun w => { w with
        hold := .contained, trap := { w.trap with tlm := [0, 0, 0, 0, 0, 0, 0, 0, 0, 1, 0, 0, 0, 0, 0, 0] } }))
      (fun t => t.gangs.map (fun g => g.doom.isSome) == [true]) = true := by decide +kernel

/-- An order posted by the wave. -/
def posted (code : Nat) (target : Word) (buf : Dword) (s : State) : State :=
  s.updCtx 0 (fun c => { c with posted := [{ wave := me, code := code, target := target, buf := buf }] })

/-- The partition beside the wave's own. -/
def beside : Word := 2 ^ 17

theorem witness_DebugOrders :
    leads (.debugAttach me) (posted 1 0 0 small) (fun t => t.ctxs.map (fun c => c.debugger) == [some 0]) = true ∧
    leads (.debugDetach me) (posted 2 0 0 small) (fun t => t.ctxs.map (fun c => c.debugger) == [none]) = true ∧
    (let s := posted 3 beside 0 small
     s.frozen 0 1 = false ∧ (s.posted? me 3).isSome = true ∧ (targetOf beside).isSome = true ∧
       s.ctxs.all (fun c => (s.wave? me).any (fun w => s.orderStatus w c 3 beside == 0)) = true) ∧
    leads (.debugThaw me) (posted 4 beside 0 (small.updCore 0 (fun c => { c with frozen := [(1, 0)] }))) (fun t => !t.frozen 0 1) = true ∧
    leads (.debugResume me) (posted 5 0 0 (small.updWave me (fun w => { w with hold := .debug false })))
      (fun t => t.waves.map (fun w => w.hold) == [.none]) = true ∧
    leads (.debugStep me) (posted 6 0 0 (small.updWave me (fun w => { w with hold := .debug false })))
      (fun t => t.waves.map (fun w => w.hold) == [.debug true]) = true ∧
    leads (.debugHaltGroup me) (posted 7 0 0 small) (fun t => t.waves.all (fun w => w.hold != .none)) = true ∧
    leads (.freezeTimeout 0 1) { small.updCore 0 (fun c => { c with frozen := [(1, 0)] }) with time := 10000000 }
      (fun t => !t.frozen 0 1) = true ∧
    leads (.monitorConfigure me 0x0B00) (posted 8 0 0x0B00 small) (fun t => t.dev.monitors.length == 1) = true ∧
    leads (.monitorClear me 0x0B00) (posted 9 0 0x0B00 small) (fun t => t.monitorItem 0 0 16 == 0) = true ∧
    (let s := small.updDev (fun d => { d with monitors := [{ die := 0, idx := 0, source := 11, shift := 0, base := 0 }] })
     leads .monitorSample s (fun t => t.dev.monitors.map (fun m => m.count) == [64]) = true) := by decide +kernel

/-! ### Launches, pre-emption and waits -/

/-- Pages 2 to 5 of the context mapped writable, the task area the first three, a kernel header in the last. -/
def launchable (s : State) : State :=
  let m := [2, 3, 4, 5].foldl (fun m k => writeBytes m (2 * pageBytes + 8 * k) (toBytes 8 (pteOf 1 (k + 2) 0 false false true))) s.mem
  let hdr := toBytes 4 0x53584B48 ++ toBytes 2 1 ++ toBytes 2 0 ++ toBytes 8 probeVa ++ toBytes 4 8 ++ toBytes 2 32 ++ toBytes 1 1 ++
    toBytes 1 8 ++ toBytes 1 64 ++ toBytes 1 8 ++ toBytes 1 1 ++ toBytes 1 0 ++ toBytes 2 0 ++ toBytes 2 1 ++ toBytes 8 0 ++
    toBytes 2 0x140
  { s.updCtx 0 (fun c => { c with taskArea := 2 * pageBytes, areaReady := true }) with mem := writeBytes m (7 * pageBytes) hdr
                                                                                       pool := { s.pool with used := [0, 1, 2, 3, 4, 5, 6, 7] } }

def launchRec : List Byte :=
  toBytes 8 (5 * pageBytes) ++ toBytes 8 0 ++ toBytes 4 1 ++ toBytes 4 1 ++ toBytes 4 1 ++ toBytes 100 0

def cmd (ctx : Nat) (seq : Nat) (body : List Byte) : Msg := { ctx := ctx, len := body.length, seq := seq, tag := 0, body := body }

/-- A gang of the launch that is waiting for its place. -/
def waiting (s : State) : State :=
  { s with waves := [], gangs := s.gangs.map (fun g => { g with st := .pending, groups := [] }), cores := [] }

theorem witness_LaunchesPlace :
    (let s := launchable small
     let m := cmd 0 0 launchRec
     s.accepts 0x06 false m (m.len == 128) = true ∧ (s.acceptLaunch 0 launchRec 0 false).1 = (0, 0) ∧
       (s.acceptLaunch 0 (toBytes 128 1) 0 false).1 = (4, 0)) ∧
    (let i : Instr := .krnLaunch (f1st (q2 1 2 0 0 0 0))
     let s := stand i (fun w => part 1 (data w)) (fun s => flagged 4 (mapped s))
     ready i s && goes i s) = true ∧
    leads .dispatcherStep (waiting small) (fun t => t.gangs.map (fun g => g.st) == [.placed] && t.waves.length == 1) = true := by
  decide +kernel

/-- Core 0 is on the way out of use. -/
def draining (s : State) : State := s.updDev (fun d => { d with rmap := { d.rmap with
  cores := [(0, { d.rmap.coreEnt 0 with st := 3 })] } })

theorem witness_PreemptionRuns :
    (let s := draining small
     s.gangs.map (fun g => (s.mustLeave g, g.st)) = [(true, .placed)] ∧
       leads (.preemption gid) s (fun t => t.gangs.map (fun g => g.st) == [.leaving]) = true) ∧
    (let s := (draining small).updGang gid (fun g => { g with st := .leaving })
     s.swapDue 0 0 = true ∧ leads (.shadowBankSwap 0) s (fun t => (t.coreAt 0).ctx == none) = true) ∧
    (let s := small.updCore 0 (fun c => { c with shadow := .spilling 0 (bankBase + 7) })
     leads (.spillComplete 0) s (fun t => (t.coreAt 0).shadow == .empty) = true) := by decide +kernel

theorem witness_WaitsEnd :
    (let c : Claim := { wave := me, pc := probePc, depth := 0, n := 8 }
     let s := pooled { core := 0, partition := 0, free := 8, claims := [c] } (blocked (.rclaim 8) small)
     leads (.rclaimGrant gid 0 0 0) s (fun t => t.waves.map (fun w => w.regs) == [72]) = true ∧
     leads (.rclaimGrant gid 0 0 0) (pooled { core := 0, partition := 0, free := 0, claims := [c] } s) (fun t => t.waves.map (fun w =>
       w.regs) == [64]) = true) ∧
    (let s := (blocked (.repack (laneList.map (fun l => (l, 31 - l)))) small).updLaunch State.reset.nextId (fun l => { l with
       headers := [probeVa, probePc + 8] })
     leads (.repackMove me) s (fun t => t.waves.map (fun w => w.frontier.map (fun e => e.block)) == [[.none]]) = true) ∧
    (let s := { blocked (.park 0 [(0, 0x40000)]) small with time := 100000000 }
     leads (.parkTimeout me probePc 0) s (fun t => t.waves.map (fun w => w.trap.tcause) == [5]) = true) ∧
    (small.wave? me).any (fun w => (small.offer w).ready) = true ∧
    leads (.entryForced me probeVa 0) (small.updWave me (fun w => { w with frontier := w.frontier.map (fun e => { e with passed := 512 }) }))
      (fun t => t.waves.map (fun w => w.frontier.map (fun e => e.forced)) == [[true]]) = true := by decide +kernel

/-! ### Task waves, the reuse table and passes -/

def taskRec : Rec := { recOf [] with pc := probeVa, launch := State.reset.nextId, ctx := 0, tenant := 1, nreg := 0, dbase := 0 }

theorem witness_TasksDispatch :
    (let s := small.updCore 0 (fun c => { c with keys := [{ launch := State.reset.nextId, pc := probeVa, depth := 0, recs := [taskRec], since := 0 }] })
     leads (.taskWaveIssue 0 1) { s with time := 1000 } (fun t => t.waves.length == 2) = true) ∧
    (let s := small.updCtx 0 (fun c => { c with stranded := [taskRec] })
     s.ctxs.all (fun c => s.waitingRec c == some taskRec) = true) ∧
    leads (.taskGangRelease gid) { small.updGang gid (fun g => { g with taskGang := true, idleSince := some 0 }) with time := 100000 }
      (fun t => t.gangs.isEmpty) = true ∧
    ((small.coreAt 0).ctx = some 0 ∧ small.ctxs.all (fun c => c.released.isEmpty && c.stranded.isEmpty) = true) := by decide +kernel

/-- A scene of one treelet at 0x40000, its queue area in the same page, one ray waiting. -/
def sceneOne : Scene :=
  { ctx := 0, addr := 0x40000, count := 1, root := 0, ageBound := 2000000, dbase := 8, shade := probeHdr, shadeHeaders := [probeVa],
    pcHit := 0, pcAny := probeVa, pcMiss := 0, join := 0, args := 0, qBase := 0x48000, free := List.range 128, residentAt := [],
    requested := [], idleSince := none }

/-- The table's entry names an image at `va`; the queue's first segment is at 0x4A000. -/
def scened (va : Nat) (s : State) : State :=
  let s := mapped s
  let m := writeBytes s.mem (4 * pageBytes + 0x80) (toBytes 8 va ++ toBytes 4 64)
  { s with scenes := [sceneOne], mem := writeBytes m (4 * pageBytes + 0x8000) (toBytes 8 0x4A000) }

def f32s (l : List Nat) : List Byte := (l.map (toBytes 4)).flatten

/-- One box that holds one triangle, which is not opaque. -/
def image1 : List Byte :=
  f32s [0x5358544C, 0, 1, 1, 0xC0] ++ toBytes 44 0 ++
  f32s [0xBF800000, 0xBF800000, 0xBF800000, 0x3F800000, 0x3F800000, 0x3F800000] ++ toBytes 72 0 ++ f32s [0x80000000, 0, 0, 0] ++ toBytes 16 0 ++
  f32s [0xBF800000, 0xBF800000, 0, 0x3F800000, 0xBF800000, 0, 0, 0x3F800000, 0, 7, 0, 0]

/-- A ray towards it, and one that was malformed. -/
def ray1 (ctrl : Word) : RayState :=
  { idx := 0, rec_ := [0, 0, 0xC0000000, 0, 0, 0x3F800000, 0, 0x41200000, 0, ctrl, 0, 0, 0, 0, 0, 0xFFFFFFFF], side := [0, 0, 0xFFFFFFFF],
    poisoned := false }

def pass1 : Pass := { id := 4, num := 1, ctx := 0, scene := 0x40000, treelet := 0, gang := State.reset.nextId + 1, startedAt := 0 }

def passing (p : Pass) (s : State) : State :=
  { scened 0x50000 s with passes := [p], gangs := s.gangs.map (fun g => { g with pass := some 4 }) }

theorem witness_PassesRun :
    leads (.passStart 0) (scened 0x50000 small) (fun t => t.passes.length == 1 && t.gangs.length == 2) = true ∧
    leads (.treeletLoaded 4) (passing pass1 small) (fun t => t.passes.map (fun p => p.loaded) == [true]) = true ∧
    (let p := { pass1 with loaded := true, stopped := true, segs := [{ addr := 0x4A000, rays := [ray1 0x00200000] }] }
     leads (.segmentCommit 4 0) (passing p small) (fun t => t.passes.map (fun p => p.segs.length) == [0]) = true) ∧
    (let p := { pass1 with loaded := true, image := image1, segs := [{ addr := 0x4A000, rays := [ray1 0] }] }
     leads (.anyHitCandidate 4 0 0) (passing p small) (fun t => t.passes.map (fun p => p.segs.map (fun x => x.rays.map (fun r => r.slot))) ==
       [[[some 0]]]) = true) ∧
    leads (.passStreamStop 4) { passing { pass1 with loaded := true } small with time := 200000 }
      (fun t => t.passes.map (fun p => p.stopped) == [true]) = true ∧
    leads (.passClose 4) (passing { pass1 with loaded := true, stopped := true } small) (fun t => t.passes.isEmpty) = true ∧
    leads (.sceneRelease 0 0x40000) { small with scenes := [{ sceneOne with idleSince := some 0 }], time := 10000000 }
      (fun t => t.scenes.isEmpty && t.oldScenes.length == 1) = true ∧
    leads (.geomPageRequest 0 0x40000 0) (scened 0x80000 small) (fun t => t.dev.out.length == 1) = true := by decide +kernel

/-! ### Commands -/

/-- The status of the last completion the device sent. -/
def status (s : State) : Option Nat :=
  s.dev.out.getLast?.bind (fun x => match x with | .frame _ _ (.host 0x80 _ _ _ b) => some (numAt b 0 2) | _ => none)

def answers (i : Msg → Instr) (m : Msg) (n : Nat) (s : State) : Bool := leads (i m) s (fun t => status t == some n)

def createBody : List Byte := toBytes 1 3 ++ toBytes 1 0 ++ toBytes 2 0 ++ toBytes 2 5 ++ toBytes 2 2 ++ toBytes 8 (2 * pageBytes) ++ toBytes 4 4 ++
  toBytes 12 0 ++ toBytes 32 1

theorem witness_ContextCommands :
    (let m := cmd 1 0 createBody
     small.accepts 0x01 true m (m.len == 64) = true ∧ (small.advanceSeq 0x01 1).createFails 1 createBody = none ∧
       answers .ctxCreate m 0 small = true ∧ answers .ctxCreate (cmd 1 0 (toBytes 64 (2 ^ 512 - 1))) 4 small = true) ∧
    (answers .ctxDestroy (cmd 0 0 []) 0 small = true ∧
      leads (.ctxDestroy (cmd 0 0 [])) (flying .buffered small) (fun t => t.dev.inbox.length == 1) = true) ∧
    (answers .ctxPolicy (cmd 0 0 [8, 0, 0, 0, 7, 0, 0, 0]) 0 small = true ∧
      answers .ctxPolicy (cmd 0 0 [2, 2, 0, 0, 0, 0, 0, 0]) 6 small = true) ∧
    answers .ctxHalt (cmd 0 0 []) 0 small = true ∧ answers .ctxResume (cmd 0 0 []) 0 small = true ∧
    answers .mapAck (cmd 0 0 (toBytes 8 1)) 0 small = true ∧
    (answers .ckWindow (cmd 0 0 (toBytes 16 1)) 4 small = true ∧
      answers .ckWindow (cmd 0 0 (toBytes 8 0 ++ toBytes 8 pageBytes)) 5 small = true ∧
      answers .ckWindow (cmd 0 0 (toBytes 8 (1537 * 2 ^ 30) ++ toBytes 8 pageBytes)) 0 small = true ∧
      answers .ckWindow (cmd 0 0 (toBytes 8 (1537 * 2 ^ 30) ++ toBytes 8 pageBytes)) 6 (flying (.copy (.ck 0) (.ck 0) 0 0 none false) small) = true) ∧
    (answers .geomIn (cmd 0 0 (toBytes 8 0x40000 ++ toBytes 12 0 ++ toBytes 4 2)) 4 (mapped small) = true ∧
      answers .geomIn (cmd 0 0 (toBytes 8 0x60000 ++ toBytes 16 0 ++ toBytes 8 5)) 5 (mapped small) = true ∧
      answers .geomIn (cmd 0 0 (toBytes 8 0x40000 ++ toBytes 16 0 ++ toBytes 8 5)) 0 (mapped small) = true) ∧
    (answers .ctxHalt (cmd 0 1 []) 3 small = true ∧ answers .ctxHalt (cmd 64 0 []) 4 small = true ∧
      answers .ctxHalt (cmd 9 0 []) 2 small = true ∧ answers .ctxHalt { cmd 0 0 [] with len := 8 } 4 small = true) := by decide +kernel

def mapBody (va count flags pa : Nat) : List Byte := toBytes 8 va ++ toBytes 4 count ++ toBytes 4 flags ++ toBytes 8 pa ++ toBytes 8 0

/-- The task area lies apart from what the tests map. -/
def elsewhere (s : State) : State := s.updCtx 0 (fun c => { c with taskArea := 2 ^ 40 })

def unpublished (s : State) : State := s.updDev (fun d => { d with rmap := { d.rmap with published := false } })

theorem witness_DeviceCommands :
    (answers .memMap (cmd 0 0 (mapBody 1 1 4 0)) 4 small = true ∧ answers .memMap (cmd 0 0 (mapBody 0x60000 0 4 0)) 5 small = true ∧
      answers .memMap (cmd 0 0 (mapBody 0x40000 1 4 0)) 5 (mapped small) = true ∧
      answers .memMap (cmd 0 0 (mapBody 0x40000 1 8 0x100000)) 6 small = true ∧
      answers .memMap (cmd 0 0 (mapBody 0x40000 1 0xC 0)) 0 small = true ∧
      answers .memMap (cmd 0 0 (mapBody 0x40000 1 0x80 0)) 0 (elsewhere (mapped small)) = true ∧
      leads (.memMap (cmd 0 0 (mapBody 0x40000 1 0x80 0))) (flying (.store 4 false false [({ oneAcc with loc := .home 0x80000 }, word1 3)])
        (elsewhere (mapped small))) (fun t => t.dev.inbox.length == 1) = true) ∧
    (answers .memUnmap (cmd 0 0 (toBytes 8 0x40000 ++ toBytes 4 1 ++ toBytes 4 0)) 0 (elsewhere (mapped small)) = true ∧
      answers .memUnmap (cmd 0 0 (toBytes 8 0x40000 ++ toBytes 4 1 ++ toBytes 4 0)) 5 small = true ∧
      answers .memUnmap (cmd 0 0 (toBytes 8 0x40000 ++ toBytes 4 1 ++ toBytes 4 4)) 4 small = true) ∧
    (answers .ckpt (cmd 0xFF 0 (toBytes 8 2 ++ toBytes 4 0 ++ toBytes 4 5)) 2 small = true ∧
      leads (.ckpt (cmd 0xFF 0 (toBytes 8 1 ++ toBytes 4 0 ++ toBytes 4 5))) small (fun t => t.dev.ckpt.isSome) = true) ∧
    answers .restore (cmd 0xFF 0 (toBytes 8 3)) 7 small = true ∧
    small.accepts 0x0D true (cmd 0xFF 0 (toBytes 32 0)) true = true ∧
    (answers .mapSnap (cmd 0xFF 0 []) 6 (unpublished small) = true ∧ small.accepts 0x0E true (cmd 0xFF 0 []) true = true) ∧
    (answers .powerLimit (cmd 0xFF 0 (toBytes 2 1199 ++ toBytes 6 0)) 5 small = true ∧
      answers .powerLimit (cmd 0xFF 0 (toBytes 2 1200 ++ toBytes 6 1)) 4 small = true ∧
      answers .powerLimit (cmd 0xFF 0 (toBytes 2 3200 ++ toBytes 6 0)) 0 small = true ∧
      answers .powerLimit (cmd 0xFF 0 (toBytes 2 3200 ++ toBytes 6 0)) 6 (unpublished small) = true) ∧
    answers .relaySet (cmd 0xFF 0 (toBytes 4 15 ++ toBytes 4 1 ++ toBytes 8 (1023 + 2 ^ 16 * 0xFFFF) ++ toBytes 8 3)) 0 small = true ∧
    (answers .peerClear (cmd 0xFF 0 (toBytes 8 9)) 5 small = true ∧
      answers .peerClear (cmd 0xFF 0 (toBytes 8 9)) 0 (small.updDev (fun d => { d with rmap := { d.rmap with peers := [(0, 9)] } })) = true) ∧
    answers .mapRebuild (cmd 0xFF 0 []) 0 small = true ∧ answers .mapRebuild (cmd 0xFF 0 []) 0 (unpublished small) = true ∧
    (answers .fwWrite (cmd 0xFF 0 (toBytes 8 0 ++ toBytes 8 0)) 6 small = true ∧
      answers .fwWrite (cmd 0xFF 0 (toBytes 8 1 ++ toBytes 8 0 ++ toBytes 8 7)) 0 small = true ∧
      answers .fwWrite (cmd 0xFF 0 (toBytes 8 2 ++ toBytes 8 0)) 5 small = true ∧
      answers .fwWrite (cmd 0xFF 0 (toBytes 8 256 ++ toBytes 8 0)) 4 small = true) ∧
    (answers .fwCommit (cmd 0xFF 0 (toBytes 8 0)) 0 small = true ∧ answers .fwCommit (cmd 0xFF 0 (toBytes 8 1)) 0x0B small = true ∧
      answers .fwCommit (cmd 0xFF 0 (toBytes 8 2)) 5 small = true ∧ answers .fwCommit (cmd 0xFF 0 (toBytes 8 256)) 4 small = true) := by
  decide +kernel

/-! ### Power, ports and the Farrier -/

def survey0 : Survey := { spareQuad := [16, 16, 16, 16], absent := [], portsUp := [], lanes := 3, stacksLost := [], mhz := 2700 }

/-- The operation waits for another package since the start. -/
def away (body : OpBody) (s : State) : State :=
  let s := flying body s
  { s with ops := s.ops.map (fun o => { o with waitSince := some 0 }) }

def farLoad : OpBody := .load oneLane 4 false false false false false [{ oneAcc with loc := .remote 9 0x40000 }]

theorem witness_PowerAndLinks :
    leads .mainInputOutOfRange small (fun t => !t.dev.powered && t.ctxs.isEmpty) = true ∧
    leads (.moduleReset survey0) small (fun t => t.dev.powered && t.dev.rmap.published) = true ∧
    leads (.clockLower 2600) small (fun t => t.dev.rmap.mhz == 2600 && t.dev.rmap.version == 2) = true ∧
    leads (.clockRaise 2700) { small.updDev (fun d => { d with rmap := { d.rmap with mhz := 2600 } }) with time := 10000000 }
      (fun t => t.dev.rmap.mhz == 2700) = true ∧
    leads (.telemetry 100 (List.replicate 17 0)) { small with time := 100000000 } (fun t => t.dev.out.length == 1) = true ∧
    leads .timestampSyncSend { small with time := 1000000 } (fun t => t.dev.out.length == 1) = true ∧
    leads (.timestampSync { from_ := 1, count := 7, joining := true }) small (fun t => t.stamp == 7 && t.time == 0) = true ∧
    leads (.portDown 23) small (fun t => !t.portUp 23) = true ∧
    leads (.portUp 23) (small.updDev (fun d => { d with rmap := { d.rmap with ports := [(23, { up := false })] } })) (fun t => t.portUp 23) = true ∧
    leads (.flitCrcFail 0 5) small (fun t => t.dev.flits == [(0, 5, 1)] && t.portUp 0) = true ∧
    leads (.flitCrcFail 0 5) (small.updDev (fun d => { d with flits := [(0, 5, 8)] })) (fun t => !t.portUp 0) = true ∧
    leads (.unsupportedRequest 0 5) small (fun t => t.dev.out.length == 1) = true ∧
    leads (.unknownVendorMessage 0 5) small (fun t => t.dev.portErrors == [(0, 1)]) = true ∧
    landed (.remoteResponse 9 [{ val := 5, mark := false }]) (away farLoad small) = true ∧
    (let s := { away farLoad small with time := 50000 }
     s.ops.all (fun o => s.canPerform o && o.body.isRemote && !o.body.isCopy) = true ∧ landed (.remoteTimeout 9) s = true) ∧
    leads (.peerRequest { src := 9, tag := 1, pa := 16, kind := .read 16 }) small (fun t => t.dev.out.length == 1) = true ∧
    leads (.peerRequest { src := 9, tag := 1, pa := 17, kind := .read 16 }) small (fun t => t.dev.out.length == 1) = true ∧
    leads (.peerRequest { src := 9, tag := 1, pa := 16, kind := .write 4 [{ val := 5, mark := false }] }) small (fun t => readNat t.mem 16 4 == 5) = true ∧
    leads (.peerRequest { src := 9, tag := 1, pa := 0x40000, kind := .atomic .add 32 false 5 0 }) small (fun t => readNat t.mem 0x40000 4 == 5) = true ∧
    leads (.relayForward { src := 9, dst := 1025, tag := 1, response := false }) small (fun t => t.dev.out.isEmpty) = true ∧
    leads (.relayForward { src := 9, dst := 1025, tag := 1, response := false }) (small.updDev (fun d => { d with rmap := { d.rmap with
      ports := [(0, { relay := true })] } })) (fun t => t.dev.out.length == 1) = true ∧
    leads (.utenaurnFrame { seq := 0, crc := frameCrc 0 [1], msgs := [[1]], again := none }) small (fun t => t.dev.inbox == [[1]] && t.dev.rxSeq == 1) = true ∧
    leads (.utenaurnFrame { seq := 1, crc := frameCrc 1 [1], msgs := [[1]], again := none }) small (fun t => t.dev.inbox == [] && t.dev.out.length == 1) = true ∧
    leads (.utenaurnLaneDown 1 false) small (fun t => t.dev.rmap.lanes == 1) = true := by decide +kernel

/-- Errors of a unit. -/
def erring (u : HwUnit) (n : Nat) (s : State) : State := s.updDev (fun d => { d with errors := List.replicate n (u, true, 0) })

/-- The map's entry of core 1. -/
def ent1 (s : State) : CoreEnt := s.dev.rmap.coreEnt 1

theorem witness_FarrierEvents :
    leads (.farrierLaneSwap 1 7 14) (erring (.lane 1 7 14) 3 small) (fun t => (ent1 t).st == 3 && t.heldFor 1 (some (7, 14))) = true ∧
    leads (.farrierLaneSwap 1 7 14) ((erring (.lane 1 7 14) 3 small).updDev (fun d => { d with held := [(1, some (7, 14))] }))
      (fun t => (ent1 t).st == 1 && (ent1 t).lanes.getD 7 15 == 14) = true ∧
    leads (.farrierCoreRetire 1) (erring (.core 1) 8 small) (fun t => (ent1 t).st == 3 && t.heldFor 1 none) = true ∧
    leads (.farrierCoreRetire 1) ((erring (.core 1) 8 small).updDev (fun d => { d with held := [(1, none)] })) (fun t => (ent1 t).st == 4) = true ∧
    leads (.farrierUnitRetire (.bank 1 31)) (erring (.bank 1 31) 2 small) (fun t => (ent1 t).banksOut.getLsbD 31) = true ∧
    leads (.farrierUnitRetire (.quarter 1 3 3)) (erring (.quarter 1 3 3) 2 small) (fun t => (ent1 t).regsOut.getLsbD 15) = true ∧
    leads (.farrierUnitRetire (.way 3 63 11)) (erring (.way 3 63 11) 2 small) (fun t => (t.dev.rmap.sliceEnt 255).ways.getLsbD 11) = true ∧
    leads (.errorWindowExpiry (.core 1)) { erring (.core 1) 8 small with time := 3600000000000 } (fun t => t.dev.errors.isEmpty) = true ∧
    leads .rowScoreHalve { small.updDev (fun d => { d with rowScores := [(3, 5)] }) with time := 86400000000000 }
      (fun t => t.dev.rowScores == [(3, 2)]) = true ∧
    (let s := { small with pool := { small.pool with clearing := [9] } }
     leads (.groomClearPage .clean) s (fun t => t.pool.clearing.isEmpty) = true ∧
       leads (.groomClearPage .failing) s (fun t => t.pool.withheld == [9]) = true) ∧
    leads (.stackLost 11) small (fun t => (t.stackEnt 11).st == 4) = true ∧
    leads (.dieLost 0) small (fun t => t.dev.rmap.diesLost == [0] && t.gangs.all (fun g => g.doom.isSome)) = true ∧
    (let s := { small.updCtx 0 (fun c => { c with owed := [{ version := 2, deadline := 5, grace := 5 }] }) with time := 5 }
     leads (.mapAckDeadline 0) s (fun t => t.ctxs.map (fun c => c.overdue) == [true]) = true) ∧
    (let s := { (region { st := 2 } small).updCtx 0 (fun c => { c with overdue := true, owed := [{ version := 2, deadline := 5, grace := 5 }] }) with
       time := 5 + 10000000 }
     leads (.mapStaleForcedRollback gid) s (fun t => t.gangs.map (fun g => g.region.forced) == [true]) = true) ∧
    (let o : CkptOrder := { mask := 1, kind := 0, limit := 1, startedAt := 0, msgCtx := 0xFF, tag := 0 }
     let s := { small.updDev (fun d => { d with ckpt := some o }) with time := 1000000 }
     leads .ckptQuiesceTimeout (region { st := 2 } s) (fun t => t.gangs.map (fun g => g.region.forced) == [true]) = true ∧
     leads .ckptQuiesceTimeout (region { st := 2, overflow := true } s) (fun t => status t == some 0x0A) = true ∧
     State.quiesced { s with waves := [], gangs := [], launches := [], cores := [] } o = true ∧
     s.quiesced o = false) := by decide +kernel

/-! ### Further clauses of the statements -/

/-- Die 0 has no spare core. -/
def spareless (s : State) : State := s.updDev (fun d => { d with rmap := { d.rmap with
  cores := [64, 65, 66, 67].map (fun c => (c, { d.rmap.coreEnt c with st := 4 })) } })

/-- An operation of the gang's region that goes to another package. -/
def outgoing (s : State) : State :=
  let s := flying (.store 4 false false [({ oneAcc with loc := .remote 9 0x40000 }, word1 3)]) s
  { s with ops := s.ops.map (fun o => { o with wave := 0 }) }

/-- Every stack is lost: no page is free. -/
def stackless (s : State) : State := s.updDev (fun d => { d with rmap := { d.rmap with
  stackEnts := (List.range 12).map (fun k => (k, { st := 4 })) } })

/-- A pure task that a lookup is to decide, its result to go to 0x40000. -/
def pureSpawn (r : Rec) : Spawn :=
  { id := 5, core := 0, ctx := 0, launch := State.reset.nextId, rec_ := r, pages := [], ok := true, stale := false, hit := none }

theorem witness_commit_clauses :
    leads (.regionSnapshotDone gid) ((region { st := 2, snapDone := false } small).updGang gid (fun g =>
      { g with logPages := 1 })) (fun t => t.gangs.map (fun g => g.region.snapDone) == [true]) = true ∧
    (let s := blocked .regionCommit (region { st := 4 } small)
     let s := { s with gangs := s.gangs ++ s.gangs.map (fun g => { g with id := 99, region := { g.region with ticket := some 3 } }) }
     leads (.commitPoint gid) s (fun t => (t.gang? gid).any (fun g => g.region.st == 4 && g.region.ticket == some s.nextId)) = true ∧
     leads (.commitPoint 99) s (fun t => (t.gang? 99).any (fun g => g.region.st == 5 && g.region.ticket == none)) = true) ∧
    stAfter (.commitDrainDone gid) (outgoing (blocked .regionCommit (region { st := 5, drained := [0] } small))) = [5] := by decide +kernel

theorem witness_rollback_clauses :
    leads (.rollback gid) (doomed (slip none) (region { st := 6, snaps := [snapOf 3], abort := some (probeVa, 0, 0) } small))
      (fun t => t.gangs.map (fun g => (g.region.st, g.region.attempt, g.region.abort)) == [(6, 1, none)]) = true ∧
    leads (.rollback gid) (doomed (slip none) (region { st := 4, attempt := 2, snaps := [snapOf 3] } small))
      (fun t => t.gangs.map (fun g => g.region.attempt) == [3]) = true ∧
    stAfter (.remountReplayStart gid) (region { st := 6, abort := some (probeVa, 0, 0) } small) = [0] ∧
    leads (.remountReplayStart gid) (spareless (doomed (slip (some 0)) (region { st := 6, snaps := [snapOf 3] } small)))
      (fun t => t.gangs.map (fun g => g.doom.map (fun d => (d.kill, d.reason))) == [some (true, 3)]) = true ∧
    (State.reset.spareFor 0 1, State.reset.spareFor 0 2, (spareless State.reset).spareFor 0 1) = (some [64], some [64, 65], none) ∧
    (let s := (small.updGang gid (fun g => { g with st := .done })).updLaunch State.reset.nextId (fun l => { l with doneGangs := 1 })
     leads (.launchComplete State.reset.nextId) (flying .buffered s) (fun t => t.launches.length == 1) = true) := by decide +kernel

theorem witness_trap_clauses :
    (let i : Instr := .trap (q2 0 0 0 6 0 0)
     let s := stand i handled (fun s => s.updGang gid (fun g => { g with groups := g.groups.map (fun r => { r with handler := some 99 }) }))
     (after i s).any (fun w => w.hold == .stopped && w.ownCause && w.trap.tcause == 0x1000B)) = true ∧
    (let i : Instr := .trap (q2 0 0 0 6 0 0)
     (after i (stand i (fun w => { handled w with hold := .debug true }))).any (fun w => w.trapMode && w.hold == .debug false)) = true ∧
    leads (.siblingStop me) (small.updWave me (fun w => { w with hold := .skid 3 true }))
      (fun t => t.waves.map (fun w => (w.hold, w.trap.tcause)) == [(.debug false, 16)]) = true ∧
    leads (.debugResume me) (posted 5 0 0 ((small.updGang gid (fun g => { g with groups := g.groups.map (fun r => { r with
        handler := some 99 }) })).updWave me (fun w => { w with hold := .debug false })))
      (fun t => t.waves.map (fun w => w.hold) == [.stopped]) = true := by decide +kernel

theorem witness_preemption_clauses :
    (let s := (small.updGang gid (fun g => { g with st := .leaving })).updCore 0 (fun c => { c with
       shadow := .incoming 7 (bankBase + 3) })
     s.swapDue 0 0 = true ∧ leads (.shadowBankSwap 0) s (fun t => (t.coreAt 0).ctx == some 7) = true) ∧
    (let s := small.updGang gid (fun g => { g with groups := g.groups.map (fun r => { r with places := r.places.map (fun p =>
       { p with core := bankBase + 7 }) }) })
     let s := { s.updCore 0 (fun c => { c with shadow := .spilling 0 (bankBase + 7) }) with
       pool := { s.pool with saveFree := 0, used := [0, 1, 2, 3, 4, 5, 6, 7], withheld := [] } }
     (s.inBank (bankBase + 7)).length = 1 ∧ leads (.spillComplete 0) s (fun t => (t.coreAt 0).shadow == .empty) = true) ∧
    leads (.restorePlacement gid) ((waiting small).updGang gid (fun g => { g with st := .saved }))
      (fun t => t.gangs.map (fun g => g.st) == [.placed]) = true := by decide +kernel

theorem witness_wait_clauses :
    (let c : Claim := { wave := me, pc := probePc, depth := 0, n := 8 }
     let s := blocked (.rclaim 8) small
     leads (.rclaimGrant gid 0 0 0) (pooled { core := 0, partition := 0, free := 0, claims := [c] } s) (fun t => t.waves.map (fun w =>
       w.trap.tcause) == [14]) = true ∧
     leads (.rclaimGrant gid 0 0 0) (pooled { core := 0, partition := 0, free := 7, claims := [c] } (small.updWave me (fun w => { w with
       frontier := w.frontier ++ [{ pc := probePc + 4, depth := 0, prio := 0, mask := 1, block := .rclaim 8 }] })))
       (fun t => t.waves.map (fun w => w.trap.tcause) == [0]) = true) ∧
    (let s := blocked (.repack (laneList.map (fun l => (l, 31 - l)))) small
     leads (.repackMove me) (s.updWave me (fun w => { w with core := bankBase + 1 }))
       (fun t => t.waves.all (fun w => w.frontier.all (fun e => e.block != .none))) = true) ∧
    (let s := { blocked (.park 0 [(0, 0x40000)]) small with time := 99999999 }
     leads (.parkTimeout me probePc 0) s (fun t => t.waves.map (fun w => w.trap.tcause) == [0]) = true) ∧
    leads (.entryForced me probeVa 0) (small.updWave me (fun w => { w with frontier := w.frontier.map (fun e => { e with passed := 511 }) }))
      (fun t => t.waves.map (fun w => w.frontier.map (fun e => e.forced)) == [[false]]) = true := by decide +kernel

theorem witness_link_clauses :
    landed (.remoteResponse 9 [{ val := 5, mark := false }]) { away farLoad small with time := 49999 } = true ∧
    landed (.remoteResponse 9 [{ val := 5, mark := false }]) { away farLoad small with time := 50000 } = false ∧
    landed (.remoteTimeout 9) { away farLoad small with time := 49999 } = false ∧
    (let s := small.updDev (fun d => { d with joinedBy := some 4 })
     leads (.timestampSync { from_ := 5, count := 7, joining := true }) s (fun t => t.stamp == 0) = true ∧
     leads (.timestampSync { from_ := 3, count := 7, joining := true }) s (fun t => t.stamp == 7 && t.dev.joinedBy == some 3) = true) ∧
    leads (.timestampSync { from_ := 3, count := 7, joining := true }) { small with time := 9 } (fun t => t.stamp == 9 && t.dev.slew == -2)
      = true ∧
    leads (.portDown 3) (small.updDev (fun d => { d with rmap := { d.rmap with lanes := 0 } }))
      (fun t => t.dev.out.isEmpty && t.dev.heldOut.length == 1) = true ∧
    leads (.utenaurnFrame { seq := 0, crc := frameCrc 0 ([1] ++ toBytes 4 0), msgs := [[1]], again := some 0 }) small
      (fun t => t.dev.inbox == [[1]]) = true ∧
    leads (.utenaurnFrame { seq := 0, crc := 0, msgs := [[1]], again := none }) small (fun t => t.dev.inbox.isEmpty) = true := by decide +kernel

/-- Reports of one cycle are applied in the order of their causes: 0x0F before 0x11. -/
theorem witness_same_cycle :
    (match step { small with agenda := [.together 0 [.utenaurnLaneDown 1 false, .portDown 3]] } with
      | .next t => t.agenda == [.event 0 (.portDown 3), .event 0 (.utenaurnLaneDown 1 false)]
      | _ => false) = true := by decide +kernel

/-- R237, R400, R401: a NaN, an infinity and zeros. -/
theorem witness_block_corners :
    (let q := quantize (slotOf b8) [0x7FC00000, 0x3F800000]
     (q.poisoned, q.scale, q.codes) = (true, 0, [0, 0])) ∧
    (let q := quantize (slotOf b8) [0xFF800000, 0]
     (q.poisoned == !(slotOf b8).sat, q.scale == (slotOf b8).smax, q.codes == [-(qmaxOf (slotOf b8).mbits : Int), 0]) = (true, true, true)) ∧
    (let q := quantize (slotOf b8) [0, 0x80000000]
     (q.poisoned, q.scale, q.codes) = (false, 0, [0, 0])) := by decide +kernel

theorem witness_save_space :
    (let s := small.updGang gid (fun g => { g with groups := g.groups.map (fun r => { r with places := r.places.map (fun p =>
       { p with core := bankBase + 7 }) }) })
     let s := stackless { s with pool := { s.pool with saveFree := 8 } }
     leads (.saveSpaceExhausted 0) (s.updCore 0 (fun c => { c with shadow := .spilling 0 (bankBase + 7) }))
       (fun t => (t.coreAt 0).shadow == .waiting 0 (bankBase + 7) 0 && t.dev.out.length == 1) = true ∧
     leads (.saveSpaceExhausted 0) { s.updCore 0 (fun c => { c with shadow := .waiting 0 (bankBase + 7) 0 }) with time := 99999999 }
       (fun t => t.dev.out.isEmpty) = true) := by decide +kernel

theorem witness_task_clauses :
    (let s := { small.updCtx 0 (fun c => { c with stranded := [taskRec] }) with cores := [] }
     leads (.taskGangQueue 0) s (fun t => t.ctxs.map (fun c => c.starved) == [some 0] && t.gangs.length == 1) = true ∧
     leads (.taskGangQueue 0) { s.updCtx 0 (fun c => { c with starved := some 0 }) with time := 10000 } (fun t => t.gangs.length == 2) = true) ∧
    (let s := { area (mapped small) with spawns := [pureSpawn { taskRec with kind := 1, nreg := 1, poison := 1 }] }
     leads (.reuseLookup 5) s (fun t => t.spawns.isEmpty) = true) ∧
    (let e : Reuse := { die := 1, set := 2, way := 3, digest := [], resPa := 0x90000, resLen := 256, tenant := 1, st := 1, age := 0, hits := 0,
                        created := 0, ctx := 0, watch := [] }
     let s := { mapped small with spawns := [{ pureSpawn { taskRec with kind := 1, tail := [0x40000, 0, 0, 0, 0, 0, 1, 0] } with hit := some (1, 2, 3) }], reuse := [e] }
     leads (.reuseHitCopyDone 5) { s with mem := writeBytes s.mem 0x90000 [7] } (fun t => t.spawns.isEmpty && readNat t.mem (4 * pageBytes + 0x40000 % pageBytes) 4 == 7) = true) := by
  decide +kernel

/-- A parity error's poison is its core's, other poison only the gang's (R307). -/
theorem witness_consumed_parity :
    [false, true].map (fun core =>
      let tlm : List Mask := [0, 0, 0, 0, 0, 0, 0, 0, 0, 1, 0, 0, 0, 0, 0, 0]
      let s := small.updWave me (fun w => { w with consumed := core, hold := .contained, trap := { w.trap with tlm := tlm } })
      match exec (.poisonContainment me) s with
      | .next t => t.gangs.map (fun g => g.doom.map (fun d => (d.source, d.core)))
      | _ => []) = [[some (3, none)], [some (2, some 0)]] := by decide +kernel

/-! ## Effects (expected values are the spec's own) -/

/-- Register n of lane 0 after the instruction. -/
def reg (n : Nat) (i : Instr) (f : Wave → Wave) : Option Word :=
  (after i (stand i f)).map (fun w => (wordAt (w.lane 0).v n).val)

/-- R359's table: idiv and irem v1, v2, v4 on .i32. -/
def quot (a b q r : Word) : Bool :=
  reg 1 (.idiv (q2 1 2 4 0 2 0)) (fun w => setV 2 a (setV 4 b w)) == some q && reg 1 (.irem (q2 1 2 4 0 2 0)) (fun w => setV 2 a (setV 4 b w)) == some r

theorem test_idiv_rounds_to_zero : quot (-7) 2 (-3) (-1) = true ∧ quot 7 (-2) (-3) 1 = true := by decide +kernel
theorem test_idiv_corners : quot 9 0 0xFFFFFFFF 9 = true ∧ quot 0x80000000 0xFFFFFFFF 0x80000000 0 = true := by decide +kernel

/-- iadd.sat saturates at the type's bounds (R355). -/
theorem test_iadd_saturates :
    reg 1 (.iadd (q2 1 2 4 0 2 0x20)) (fun w => setV 2 0x7FFFFFFF (setV 4 1 w)) = some 0x7FFFFFFF ∧
    reg 1 (.iadd (q2 1 2 4 0 2 0)) (fun w => setV 2 0x7FFFFFFF (setV 4 1 w)) = some 0x80000000 := by decide +kernel

/-- An example of the spec's operand chapter: with a = b = 0x3F800001 and c = 0, .rp rounds the product up. -/
theorem test_fma_rounding :
    reg 4 (.fma (q2 4 1 2 3 0 0x180)) (fun w => setV 1 0x3F800001 (setV 2 0x3F800001 w)) = some 0x3F800003 ∧
    reg 4 (.fma (q2 4 1 2 3 0 0)) (fun w => setV 1 0x3F800001 (setV 2 0x3F800001 w)) = some 0x3F800002 := by decide +kernel

/-- Rows of R399, by the conversion's own functions. -/
theorem test_cvt_corners :
    cvtVal 2 9 0 false false 0x40200000 = 2 ∧ cvtVal 2 9 0 false false 0xC0200000 = 0xFFFFFFFE ∧
    cvtVal 11 9 0 false false 0x477FF000 = 0x7C00 ∧ cvtVal 11 9 0 true false 0x477FF000 = 0x7BFF ∧
    cvtVal 9 2 0 false false 16777217 = 0x4B800000 ∧ cvtVal 9 2 2 false false 16777217 = 0x4B800001 := by decide +kernel

/-- R390: each class has its bit. -/
theorem test_fclass :
    [0x7F800001, 0x7FC00000, 0xFF800000, 0xBF800000, 0x80000001, 0x80000000, 0, 1, 0x3F800000, 0x7F800000].map (fun v => f32.classBit v) =
      [0, 1, 2, 3, 4, 5, 6, 7, 8, 9] := by decide +kernel

/-- R355: below 32 bits D holds the result sign-extended for a signed type. -/
theorem test_narrow_types :
    reg 1 (.iadd (q2 1 2 4 0 0 0)) (fun w => setV 2 0x7F (setV 4 1 w)) = some 0xFFFFFF80 ∧
    reg 1 (.iadd (q2 1 2 4 0 4 0)) (fun w => setV 2 0x7F (setV 4 1 w)) = some 0x80 := by decide +kernel

/-- R446: red combines the lanes of a word before it sends one operation. -/
theorem test_red_combines :
    (combine .add 32 false [{ acc := oneAcc, b := 3, c := 0 }, { acc := { oneAcc with lane := 1 }, b := 4, c := 0 }]).map
      (fun x => (x.acc.lane, x.b)) = [(0, 7)] := by decide +kernel

/-- A register the wave does not have: illegal instruction (R216, R311). -/
theorem test_register_bound :
    (after (.iaddI32 { d := 1, a := 64, b := 3 }) (stand (.iaddI32 { d := 1, a := 64, b := 3 }))).map (fun w => w.trap.tcause) = some 1 := by
  decide +kernel

/-- Poison in a source is consumed: the cause is 0x0A (R312, R313). -/
theorem test_poison_consumed :
    let i : Instr := .iaddI32 { d := 1, a := 2, b := 3 }
    (after i (stand i (fun w => { w with lanes := w.lanes.map (fun l => l.put (.v 2) [{ val := 1, mark := true }]) }))).map
      (fun w => (w.trap.tcause, w.hold)) = some (0x0A, .contained) := by decide +kernel

/-! ## Well-formed instructions -/

theorem test_wf_messages :
    [Instr.ctxHalt { ctx := 256, len := 0, seq := 0, tag := 0, body := [] }, .ctxHalt { ctx := 0, len := 8, seq := 0, tag := 0, body := [] },
     .ctxHalt { ctx := 0, len := 0, seq := 2 ^ 32, tag := 0, body := [] }].all (fun i => !WellFormed i) = true ∧
    WellFormed (.ctxHalt (cmd 5 9 [])) = true := by decide +kernel

theorem test_wf_units :
    [Instr.farrierCoreRetire 272, .farrierLaneSwap 272 0 0, .farrierLaneSwap 0 8 0, .farrierUnitRetire (.bank 272 0),
     .errorWindowExpiry (.bank 0 32), .stackLost 12, .dieLost 4, .portDown 24, .matrixCmdStart 0 2, .semWaitPass 64 0 0,
     .semWaitPass 0 0 32, .taskWaveIssue 0 4, .utenaurnLaneDown 2 true].all (fun i => !WellFormed i) = true := by decide +kernel

theorem test_wf_accepts :
    [Instr.farrierCoreRetire 271, .farrierLaneSwap 0 7 14, .stackLost 11, .dieLost 3, .portDown 23, .matrixCmdStart 0 1,
     .semWaitPass 63 0 31, .taskWaveIssue 0 3, .utenaurnLaneDown 1 true].all (fun i => WellFormed i) = true := by decide +kernel

/-! ## Encoding and the step -/

theorem witness_EncodeDecode :
    encodeWords (.iadd g2) ≠ [] ∧ WellFormed (.ctxHalt (cmd 5 9 [])) = true ∧ encodeMsg (.ctxHalt (cmd 5 9 [])) ≠ [] ∧
    (match decodeBytes [0x03, 0x02, 0x09, 0x00, 0x7F] with | .ok (_, rest) => rest.length | .error _ => 0) = 1 := by decide +kernel

/-- iadd v9, v2, v3 is fetched and run: the wave goes on behind it. -/
theorem witness_step_issue :
    (match step (State.reset.withFetchWord 32 0x00090203) with
      | .next t => t.waves.map (fun w => w.frontier.map (fun e => e.pc)) == [[probePc + 4]] && t.issue.isNone
      | _ => false) = true := by decide +kernel

/-- A message of the agenda, an event, an error, a message with an empty agenda, and nothing to do. -/
theorem witness_StepRunsDecoded :
    (let s := small.updDev (fun d => { d with inbox := [encodeMsg (.ctxHalt (cmd 0 0 []))] })
     (match step { s with agenda := [.command 2 0] } with | .next t => status t == some 0 && t.time == 2 | _ => false) = true ∧
     (match step { s with agenda := [], cores := [], waves := [] } with | .next t => status t == some 0 | _ => false) = true) ∧
    ((Instr.portDown 3).isEvent = true ∧
      (match step { small with agenda := [.event 0 (.portDown 3)] } with | .next t => !t.portUp 3 | _ => false) = true) ∧
    (match step { small with agenda := [.upset 0 (.hbmUncorrectable 7)] } with | .next t => t.unitBad 448 | _ => false) = true ∧
    (State.reset.turnTo = none ∧ (match step State.reset with | .next t => t.time | _ => 0) = 1) := by decide +kernel

theorem witness_StepKeepsMemory : State.reset.memWf ∧ small.memWf := by decide +kernel

end Sys2Proof.Tests
end

/-! SUPPORT. Integer, logic, predicate and wave instructions (R353 to R372): when an instruction computes, decides or
refuses, from the form it runs. -/

namespace Sys2Proof.Machine

/-! ## What a legal form says -/

theorem Form.ok_of_legal {F : Form} {env : Env} (h : F.legal env = true) : F.ok = true := by
  simp only [Form.legal, Bool.and_eq_true] at h
  tauto

theorem Form.namesOk_of_legal {F : Form} {env : Env} (h : F.legal env = true) : F.namesOk env.w = true := by
  simp only [Form.legal, Bool.and_eq_true] at h
  tauto

theorem Form.d_legal_of_legal {F : Form} {env : Env} (h : F.legal env = true) : F.d.legal env.w.regs = true := by
  have hn := Form.namesOk_of_legal h
  simp only [Form.namesOk, Bool.and_eq_true] at hn
  tauto

/-- A main register named as a pair is even (R210). -/
theorem Dest.even_of_legal_pair {regs code : Nat} {lt : Bool} (h : (Dest.sel code 2 lt).legal regs = true)
    (hc : code < 0xC0) : code % 2 = 0 := by
  have h8 : code ≠ 0xC8 := by omega
  have h9 : code ≠ 0xC9 := by omega
  simp only [Dest.legal, srcLegal, h8, h9, hc, if_true, if_false, OfNat.ofNat_ne_one, Bool.and_eq_true, beq_iff_eq] at h
  exact h.2.1

/-! ## Refusing -/

/-- An encoding that is no instruction here raises illegal instruction (R347). -/
theorem State.run_illegal {s : State} {F : Form} {k : Env → State → Res} {env : Env}
    (he : s.env? F.pidx F.pneg = some env) (hl : F.legal env = false) :
    s.run F k = .next (s.takeTrap env (env.raise cIllegal)) := by
  simp only [State.run, he, hl]
  rfl

/-- An instruction that runs a form refuses what that form's legality excludes. -/
theorem refuses_of_legal {i : Instr} {bad : Prop} (hrun : ∀ s, ∃ k, exec i s = s.run i.form k)
    (hl : ∀ env, i.form.legal env = true → ¬ bad) : Refuses i bad := by
  intro s env he hb
  obtain ⟨k, hk⟩ := hrun s
  rw [hk, State.run_illegal he (Bool.eq_false_iff.mpr fun h => hl env h hb)]
  rfl

/-- An instruction that runs a form refuses what that form's encoding checks exclude. -/
theorem refuses_of_ok {i : Instr} {bad : Prop} (hrun : ∀ s, ∃ k, exec i s = s.run i.form k)
    (hok : i.form.ok = true → ¬ bad) : Refuses i bad :=
  refuses_of_legal hrun fun _ h => hok (Form.ok_of_legal h)

/-! ## Computing -/

/-- An instruction that computes its operands' words lane by lane. -/
theorem computes_of_vec {i : Instr} {lt checked : Bool} {g : Env → Nat → Lane → Try (List PWord)}
    {v : Env → (Nat → Args) → Nat → List PWord}
    (hrun : ∀ s, exec i s = s.run i.form (fun env => env.vec i.form lt checked (g env)))
    (hg : ∀ env x, (∀ l ∈ env.lanes, i.form.args env.w (env.w.lane l) = .ok (x l)) →
      ∀ l ∈ env.lanes, g env l (env.w.lane l) = .ok (v env x l)) : Computes i lt v := by
  intro s env x sl he hc hr
  rw [hrun]
  exact State.run_vec he hc (fun l hl => (hr l hl).2) (hg env x fun l hl => (hr l hl).1)

/-- A plain arithmetic instruction computes its function of each lane's operands. -/
theorem computes_of_arith {i : Instr} {checked : Bool} {f : Args → Nat} {v : Args → List PWord}
    (hrun : ∀ s, exec i s = s.arith i.form checked f) (hv : ∀ x, wordsOf i.form.resultWords (f x) = v x) :
    Computes i true (fun _ x l => v (x l)) := by
  refine computes_of_vec hrun fun env x hx l hl => ?_
  rw [hx l hl, ← hv]
  rfl

/-- An integer form computes the exact result of its operands, as the type takes them (R355, R358). -/
theorem computes_of_intOp {i : Instr} {ty : Nat} {sat : Bool} (f : Int → Int → Int → Int)
    (hrun : ∀ s, exec i s = s.intOp i.form ty sat f) (hw : i.form.resultWords = tyWords ty) :
    Computes i true (fun _ x l => typed ty sat (f (tyVal ty (x l).a) (tyVal ty (x l).b) (tyVal ty (x l).c))) := by
  refine computes_of_arith (v := fun x => typed ty sat (f (tyVal ty x.a) (tyVal ty x.b) (tyVal ty x.c))) hrun fun x => ?_
  rw [hw, typed]

end Sys2Proof.Machine

namespace Sys2Proof
open Machine

/-! ## Encodings of the vector class (R355, R356) -/

theorem F2.aN_eq_zero {f : F2} : (f.a == 0) = true ↔ f.aN = 0 := by
  rw [beq_iff_eq, F2.aN, ← BitVec.toNat_inj]
  rfl

theorem F2.bN_eq_zero {f : F2} : (f.b == 0) = true ↔ f.bN = 0 := by
  rw [beq_iff_eq, F2.bN, ← BitVec.toNat_inj]
  rfl

theorem F2.cN_eq_zero {f : F2} : (f.c == 0) = true ↔ f.cN = 0 := by
  rw [beq_iff_eq, F2.cN, ← BitVec.toNat_inj]
  rfl

theorem F2.vecOk_iff {f : F2} {types : List Nat} {sat imm : Bool} {low : Nat} :
    f.vecOk types sat imm low = true ↔ f.tyN ∈ types ∧ (sat = true ∨ f.sat = false) ∧
      (imm = true ∨ f.isImm = false) ∧ f.modAt 14 2 = 0 ∧ f.modAt 8 4 ≤ low := by
  simp only [F2.vecOk, Bool.and_eq_true, Bool.or_eq_true, Bool.not_eq_true', List.contains_iff_mem, beq_iff_eq,
    decide_eq_true_eq, and_assoc]

theorem F2.binary_ok {f : F2} {types : List Nat} {sat : Bool} {low bw : Nat} (h : (f.binary types sat low bw).ok = true) :
    f.tyN ∈ types ∧ (sat = true ∨ f.sat = false) ∧ f.modAt 8 4 ≤ low := by
  obtain ⟨hty, hsat, -, -, hlow⟩ := F2.vecOk_iff.mp (Bool.and_eq_true _ _ ▸ h).1
  exact ⟨hty, hsat, hlow⟩

theorem F2.unary_ok {f : F2} {types : List Nat} {sat : Bool} {dw : Nat} (h : (f.unary types sat dw).ok = true) :
    f.tyN ∈ types ∧ f.bN = 0 := by
  have h' : ((f.vecOk types sat false 0 && f.b == 0) && f.c == 0) = true := h
  simp only [Bool.and_eq_true, F2.bN_eq_zero] at h'
  exact ⟨(F2.vecOk_iff.mp h'.1.1).1, h'.1.2⟩

theorem F2.leaForm_legal {f : F2} {env : Env} (h : f.leaForm.legal env = true) :
    (f.tyN = 2 ∨ f.tyN = 6) ∧ (f.dN < 0xC0 → f.dN % 2 = 0) := by
  have hok : (f.binary [2, 6] false 15 1).ok = true := Form.ok_of_legal (F := f.leaForm) h
  exact ⟨by simpa using (F2.binary_ok hok).1, Dest.even_of_legal_pair (Form.d_legal_of_legal h)⟩

theorem F3.moviForm_ok {f : F3} (h : f.moviForm.ok = true) : f.w.aN = 0 ∧ f.w.bN = 0 ∧ f.w.cN = 0 := by
  simp only [F3.moviForm, F2.form, Bool.and_eq_true, F2.aN_eq_zero, F2.bN_eq_zero, F2.cN_eq_zero] at h
  tauto

theorem F3.iaddForm_ok {f : F3} (h : f.iaddForm.ok = true) : f.w.bN = 0 ∧ f.w.cN = 0 ∧ f.w.isImm = false := by
  simp only [F3.iaddForm, F2.form, Bool.and_eq_true, F2.vecOk_iff, F2.bN_eq_zero, F2.cN_eq_zero, Bool.false_eq_true,
    false_or] at h
  tauto

end Sys2Proof

namespace Sys2Proof.Machine

/-! ## Reading and writing by the type (R353, R355) -/

theorem tyWidth_pos (ty : Nat) : 0 < tyWidth ty := Nat.mul_pos (by decide) (Nat.two_pow_pos _)

theorem toSigned_eq_toInt {w : Nat} (hw : 0 < w) (n : Nat) : toSigned w n = (BitVec.ofNat w n).toInt := by
  have h : 2 ^ w = 2 * 2 ^ (w - 1) := by rw [← pow_succ', Nat.sub_add_cancel hw]
  have hc : 2 * (n % 2 ^ w) < 2 ^ w ↔ n % 2 ^ w < 2 ^ (w - 1) := by omega
  simp only [toSigned, BitVec.toInt_eq_toNat_cond, BitVec.toNat_ofNat, hc]

theorem wrap_eq_toNat (w : Nat) (i : Int) : wrap w i = (BitVec.ofInt w i).toNat := (BitVec.toNat_ofInt i).symm

theorem wrap_natCast (w n : Nat) : wrap w (n : Int) = n % 2 ^ w := by
  rw [wrap, ← Int.natCast_mod, Int.toNat_natCast]

/-- A number read by a type keeps the bits it was read from. -/
theorem wrap_tyVal (ty n : Nat) : wrap (tyWidth ty) (tyVal ty n) = n % 2 ^ tyWidth ty := by
  unfold tyVal
  split
  · rw [toSigned_eq_toInt (tyWidth_pos ty), wrap_eq_toNat, BitVec.ofInt_toInt, BitVec.toNat_ofNat]
  · rw [wrap_natCast, Nat.mod_mod]

/-- Without saturation the low bits of an exact result are all that is written. -/
theorem typed_congr {ty : Nat} {r r' : Int} (h : wrap (tyWidth ty) r = wrap (tyWidth ty) r') :
    typed ty false r = typed ty false r' := by
  simp only [typed, tyResult, Bool.false_eq_true, if_false, h]

/-- Word 2 as the immediate of a three-word form (R360): sign-extended for .i64. -/
theorem immVal_eq (ty : Nat) (imm : Word) : immVal ty imm = if ty = 3 then imm.toInt else tyVal ty imm.toNat := by
  unfold immVal
  by_cases h : ty = 3
  · rw [if_pos h, if_pos h, h, toSigned_eq_toInt (by decide), BitVec.ofNat_toNat, BitVec.setWidth_eq, wrap_eq_toNat]
    calc toSigned 64 (imm.signExtend 64).toNat
      _ = (imm.signExtend 64).toInt := by
        rw [toSigned_eq_toInt (by decide), BitVec.ofNat_toNat, BitVec.setWidth_eq]
      _ = imm.toInt := BitVec.toInt_signExtend_of_le (by decide)
  · rw [if_neg h, if_neg h]

theorem typed_immVal (ty : Nat) (imm : Word) :
    typed ty false (immVal ty imm) = typed ty false (if ty = 3 then imm.toInt else (imm.toNat : Int)) := by
  rw [immVal_eq]
  split
  · rfl
  · exact typed_congr (by rw [wrap_tyVal, wrap_natCast])

/-- lea's sum on 64-bit words (R366). -/
theorem lea_toNat (a s : Nat) (b : Int) :
    (a + wrap 64 b * 2 ^ s) % 2 ^ 64 = (BitVec.ofNat 64 a + BitVec.ofInt 64 b <<< s).toNat := by
  rw [BitVec.toNat_add, BitVec.toNat_ofNat, BitVec.toNat_shiftLeft, ← wrap_eq_toNat, Nat.shiftLeft_eq, ← Nat.add_mod]

/-! ## Integer arithmetic (R358 to R360, R366) -/

/-- imulh's floor division by a power of two is the integers' own `/`. -/
theorem execImulh_eq (f : F2) (s : State) : exec (.imulh f) s =
    s.intOp (f.intBinary false) f.tyN false (fun a b _ => a * b / ((2 ^ tyWidth f.tyN : Nat) : Int)) := by
  have h : (fun a b _ => Int.fdiv (a * b) (2 ^ tyWidth f.tyN : Nat) : Int → Int → Int → Int) =
      fun a b _ => a * b / ((2 ^ tyWidth f.tyN : Nat) : Int) := by
    funext a b _
    exact Int.fdiv_eq_ediv_of_nonneg _ (Int.natCast_nonneg _)
  rw [← h]
  rfl

/-- Settles O3: each form is its exact function of the operands read by the type, and what its encoding checks exclude is
refused. -/
theorem integerArithmeticResults : Obligations.IntegerArithmeticResults := by
  intro f g
  refine ⟨?_, ?_, ?_, ?_, ?_, ?_, ?_, ?_, ?_, ?_, ?_, ?_, ?_, ?_, ?_, ?_, ?_, ?_, ?_, ?_, ?_, ?_⟩
  · exact computes_of_intOp (fun a b _ => a + b) (fun _ => rfl) rfl
  · exact computes_of_intOp (fun a b _ => a - b) (fun _ => rfl) rfl
  · exact computes_of_intOp (fun a b _ => a * b) (fun _ => rfl) rfl
  · exact computes_of_intOp (fun a b _ => a * b / ((2 ^ tyWidth f.tyN : Nat) : Int)) (execImulh_eq f) rfl
  · exact computes_of_intOp (fun a b c => a * b + c) (fun _ => rfl) rfl
  · exact computes_of_intOp (fun a b _ => intQuot a b) (fun _ => rfl) rfl
  · exact computes_of_intOp (fun a b _ => intRem a b) (fun _ => rfl) rfl
  · exact computes_of_intOp (fun a b _ => min a b) (fun _ => rfl) rfl
  · exact computes_of_intOp (fun a b _ => max a b) (fun _ => rfl) rfl
  · exact computes_of_intOp (fun a _ _ => (a.natAbs : Int)) (fun _ => rfl) rfl
  · exact computes_of_intOp (fun a _ _ => -a) (fun _ => rfl) rfl
  · exact computes_of_arith (v := fun _ => typed g.w.tyN false
      (if g.w.tyN = 3 then g.imm.toInt else (g.imm.toNat : Int))) (fun _ => rfl) fun _ => typed_immVal g.w.tyN g.imm
  · simpa only [immVal_eq] using
      computes_of_intOp (i := .iaddImm32 g) (fun a _ _ => a + immVal g.w.tyN g.imm) (fun _ => rfl) rfl
  · exact computes_of_arith (v := fun x => wordsOf 2
      (BitVec.ofNat 64 x.a + BitVec.ofInt 64 (tyVal f.tyN x.b) <<< f.modAt 8 4).toNat) (fun _ => rfl)
      fun x => congrArg (wordsOf 2) (lea_toNat x.a (f.modAt 8 4) (tyVal f.tyN x.b))
  · refine refuses_of_ok (fun _ => ⟨_, rfl⟩) fun h => ?_
    obtain ⟨hty, hb⟩ := F2.unary_ok h
    simp only [List.mem_cons, List.not_mem_nil, or_false] at hty
    omega
  · exact refuses_of_ok (fun _ => ⟨_, rfl⟩) fun h => not_not.mpr (F2.unary_ok h).2
  · exact refuses_of_ok (fun _ => ⟨_, rfl⟩) fun h => by simpa using (F2.binary_ok h).2.1
  · exact refuses_of_ok (fun _ => ⟨_, rfl⟩) fun h => by simpa using (F2.binary_ok h).2.1
  · exact refuses_of_ok (fun _ => ⟨_, rfl⟩) fun h => by simpa using (F2.binary_ok h).2.1
  · exact refuses_of_ok (fun _ => ⟨_, rfl⟩) fun h => by
      obtain ⟨ha, hb, hc⟩ := F3.moviForm_ok h
      simp [ha, hb, hc]
  · exact refuses_of_ok (fun _ => ⟨_, rfl⟩) fun h => by
      obtain ⟨hb, hc, himm⟩ := F3.iaddForm_ok h
      simp [hb, hc, himm]
  · exact refuses_of_legal (fun _ => ⟨_, rfl⟩) fun env h => by
      obtain ⟨hty, hd⟩ := F2.leaForm_legal h
      omega

end Sys2Proof.Machine

/-! SUPPORT. Words of an integer type's width (R361 to R363): the model's arithmetic on numbers is the operation on bit
vectors. -/

namespace Sys2Proof.Machine

theorem bv_toNat (ty n : Nat) : (bv ty n).toNat = n % 2 ^ tyWidth ty := BitVec.toNat_ofNat _ _

theorem w32_toNat (n : Nat) : (w32 n).toNat = n % 2 ^ 32 := BitVec.toNat_ofNat _ _

theorem bv_toInt (ty n : Nat) : (bv ty n).toInt = toSigned (tyWidth ty) n := (toSigned_eq_toInt (tyWidth_pos ty) n).symm

/-! ## Logic -/

theorem bv_and_toNat (ty a b : Nat) : (a &&& b) % 2 ^ tyWidth ty = (bv ty a &&& bv ty b).toNat := by
  rw [BitVec.toNat_and, bv_toNat, bv_toNat, Nat.and_mod_two_pow]

theorem bv_or_toNat (ty a b : Nat) : (a ||| b) % 2 ^ tyWidth ty = (bv ty a ||| bv ty b).toNat := by
  rw [BitVec.toNat_or, bv_toNat, bv_toNat, Nat.or_mod_two_pow]

theorem bv_xor_toNat (ty a b : Nat) : (a ^^^ b) % 2 ^ tyWidth ty = (bv ty a ^^^ bv ty b).toNat := by
  rw [BitVec.toNat_xor, bv_toNat, bv_toNat, Nat.xor_mod_two_pow]

theorem bv_not_toNat (ty a : Nat) : (~~~ bv ty a).toNat = notBits (tyWidth ty) a := by
  rw [BitVec.toNat_not, bv_toNat, notBits]

theorem notBits_lt (w a : Nat) : notBits w a < 2 ^ w := by
  have := Nat.two_pow_pos w
  rw [notBits]
  omega

theorem bv_andn_toNat (ty a b : Nat) :
    (a &&& notBits (tyWidth ty) b) % 2 ^ tyWidth ty = (bv ty a &&& ~~~ bv ty b).toNat := by
  rw [BitVec.toNat_and, bv_toNat, bv_not_toNat, Nat.and_mod_two_pow, Nat.mod_eq_of_lt (notBits_lt _ b)]

/-! ## Shifts (R361) -/

theorem bv_shl_toNat (ty a n : Nat) : shiftVal 0 (tyWidth ty) a n % 2 ^ tyWidth ty = (bv ty a <<< n).toNat := by
  rw [BitVec.toNat_shiftLeft, bv_toNat, Nat.shiftLeft_eq]
  simp only [shiftVal]
  split
  · rw [Nat.mod_mod]
  · next h =>
    rw [Nat.zero_mod, Nat.mod_eq_zero_of_dvd]
    exact Dvd.dvd.mul_left (pow_dvd_pow 2 (Nat.le_of_not_lt h)) _

theorem bv_shr_toNat (ty a n : Nat) : shiftVal 1 (tyWidth ty) a n % 2 ^ tyWidth ty = (bv ty a >>> n).toNat := by
  have hlt : a % 2 ^ tyWidth ty < 2 ^ tyWidth ty := Nat.mod_lt _ (Nat.two_pow_pos _)
  rw [BitVec.toNat_ushiftRight, bv_toNat, Nat.shiftRight_eq_div_pow]
  simp only [shiftVal]
  split
  · exact Nat.mod_eq_of_lt (lt_of_le_of_lt (Nat.div_le_self _ _) hlt)
  · next h =>
    rw [Nat.zero_mod, Nat.div_eq_of_lt]
    exact lt_of_lt_of_le hlt (Nat.pow_le_pow_right (by decide) (Nat.le_of_not_lt h))

/-- Past the sign bit an arithmetic shift leaves copies of it. -/
theorem ediv_two_pow_min {w : Nat} {t : Int} (n : Nat) (hlo : -(2 ^ (w - 1) : Nat) ≤ t) (hhi : t < (2 ^ (w - 1) : Nat)) :
    t / (2 ^ min n (w - 1) : Nat) = t / (2 ^ n : Nat) := by
  rcases Nat.le_total n (w - 1) with h | h
  · rw [min_eq_left h]
  · rw [min_eq_right h]
    have hp : ((2 ^ (w - 1) : Nat) : Int) ≤ (2 ^ n : Nat) := Int.ofNat_le.mpr (Nat.pow_le_pow_right (by decide) h)
    rcases lt_or_ge t 0 with ht | ht
    · rw [Int.ediv_eq_neg_one_of_neg_of_le ht (by omega), Int.ediv_eq_neg_one_of_neg_of_le ht (by omega)]
    · rw [Int.ediv_eq_zero_of_lt ht hhi, Int.ediv_eq_zero_of_lt ht (lt_of_lt_of_le hhi hp)]

theorem bv_sra_toNat (ty a n : Nat) : shiftVal 2 (tyWidth ty) a n % 2 ^ tyWidth ty = ((bv ty a).sshiftRight n).toNat := by
  have hlo := BitVec.le_toInt (bv ty a)
  have hhi := BitVec.toInt_lt (x := bv ty a)
  have hw : toSigned (tyWidth ty) (a % 2 ^ tyWidth ty) = (bv ty a).toInt := by
    rw [bv_toInt, toSigned, toSigned, Nat.mod_mod]
  have hs : (bv ty a).toInt / (2 ^ min n (tyWidth ty - 1) : Nat) = (bv ty a).toInt / (2 ^ n : Nat) :=
    ediv_two_pow_min n (by exact_mod_cast hlo) (by exact_mod_cast hhi)
  simp only [shiftVal, hw, hs]
  rw [wrap_eq_toNat, BitVec.sshiftRight, Int.shiftRight_eq_div_pow, Nat.mod_eq_of_lt (BitVec.isLt _)]

theorem bv_rol_toNat (ty a n : Nat) : shiftVal 3 (tyWidth ty) a n % 2 ^ tyWidth ty = ((bv ty a).rotateLeft n).toNat := by
  have hr : n % tyWidth ty < tyWidth ty := Nat.mod_lt _ (tyWidth_pos ty)
  have hlt : a % 2 ^ tyWidth ty < 2 ^ tyWidth ty := Nat.mod_lt _ (Nat.two_pow_pos _)
  have hlow : a % 2 ^ tyWidth ty / 2 ^ (tyWidth ty - n % tyWidth ty) < 2 ^ (n % tyWidth ty) := by
    rw [Nat.div_lt_iff_lt_mul (Nat.two_pow_pos _), ← pow_add, Nat.add_sub_cancel' hr.le]
    exact hlt
  rw [BitVec.toNat_rotateLeft, bv_toNat, Nat.shiftRight_eq_div_pow]
  simp only [shiftVal]
  rw [Nat.mod_mod, ← Nat.shiftLeft_eq, Nat.shiftLeft_add_eq_or_of_lt hlow, Nat.or_mod_two_pow,
    Nat.mod_eq_of_lt (lt_of_le_of_lt (Nat.div_le_self _ _) hlt)]

end Sys2Proof.Machine

/-! SUPPORT. Bit fields, counts and reversal on bit vectors (R362, R363). -/

namespace Sys2Proof.Machine

/-! ## Bit fields (R362) -/

/-- A signed field's value; a field of no bits is 0. -/
theorem signedField_eq_toInt (len : Nat) (v : BitVec len) :
    (if 0 < len then toSigned len v.toNat else (v.toNat : Int)) = v.toInt := by
  split
  · next h => rw [toSigned_eq_toInt h, BitVec.ofNat_toNat, BitVec.setWidth_eq]
  · next h =>
    obtain rfl : len = 0 := by omega
    rw [BitVec.eq_nil v]
    rfl

theorem bfxVal_eq (ty a ctl len : Nat) (hlen : len = min (field ctl 8 8) (tyWidth ty)) (v : BitVec len)
    (hv : v = (bv ty a >>> field ctl 0 8).truncate len) :
    bfxVal ty a ctl = if tySigned ty then v.toInt else (v.toNat : Int) := by
  have hn : v.toNat = a % 2 ^ tyWidth ty / 2 ^ field ctl 0 8 % 2 ^ len := by
    rw [hv, BitVec.toNat_setWidth, BitVec.toNat_ushiftRight, bv_toNat, Nat.shiftRight_eq_div_pow]
  have hval : bfxVal ty a ctl = if tySigned ty && decide (0 < len) then toSigned len v.toNat else (v.toNat : Int) := by
    rw [hn, hlen]
    rfl
  rw [hval, ← signedField_eq_toInt]
  cases tySigned ty <;> simp

theorem bfiVal_eq (ty a b ctl : Nat) :
    bfiVal (tyWidth ty) a b ctl % 2 ^ tyWidth ty =
      (bv ty a &&& ~~~ (bv ty (2 ^ min (field ctl 8 8) (tyWidth ty) - 1) <<< field ctl 0 8) |||
        bv ty b <<< field ctl 0 8 &&& bv ty (2 ^ min (field ctl 8 8) (tyWidth ty) - 1) <<< field ctl 0 8).toNat := by
  have hsh (n pos : Nat) : (bv ty n <<< pos).toNat = n * 2 ^ pos % 2 ^ tyWidth ty := by
    rw [BitVec.toNat_shiftLeft, bv_toNat, Nat.shiftLeft_eq, Nat.mod_mul_mod]
  have hval : bfiVal (tyWidth ty) a b ctl =
      (bv ty a &&& ~~~ (bv ty (2 ^ min (field ctl 8 8) (tyWidth ty) - 1) <<< field ctl 0 8) |||
        bv ty b <<< field ctl 0 8 &&& bv ty (2 ^ min (field ctl 8 8) (tyWidth ty) - 1) <<< field ctl 0 8).toNat := by
    rw [BitVec.toNat_or, BitVec.toNat_and, BitVec.toNat_and, BitVec.toNat_not, hsh, hsh, bv_toNat]
    rfl
  rw [hval, Nat.mod_eq_of_lt (BitVec.isLt _)]

/-! ## Counts (R363) -/

theorem popCount_eq_cpopNatRec {w : Nat} (x : BitVec w) (n : Nat) : popCount x.toNat n = x.cpopNatRec n 0 := by
  induction n with
  | zero => rfl
  | succ n ih =>
    rw [popCount, ih, BitVec.cpopNatRec_succ, BitVec.cpopNatRec_eq (0 + _), ← Nat.toNat_testBit, BitVec.getLsbD]
    omega

theorem popCount_eq_cpop {w : Nat} (x : BitVec w) : popCount x.toNat w = x.cpop.toNat := by
  rw [popCount_eq_cpopNatRec, BitVec.toNat_cpop]

/-- Counting from bit n of a word downwards: the bits above are taken as zeros. -/
theorem clzAuxRec_toNat {w : Nat} (x : BitVec w) {n : Nat} (hn : n < w) :
    (x.clzAuxRec n).toNat = w - 1 - n + leadingZeros x.toNat (n + 1) := by
  have hk (k : Nat) (h : k ≤ w) : k % 2 ^ w = k := Nat.mod_eq_of_lt (lt_of_le_of_lt h Nat.lt_two_pow_self)
  induction n with
  | zero =>
    rw [BitVec.clzAuxRec_zero, leadingZeros, leadingZeros, ← Nat.toNat_testBit, BitVec.getLsbD]
    cases x.toNat.testBit 0
    · simp only [Bool.false_eq_true, if_false, Bool.toNat_false, zero_ne_one, BitVec.toNat_ofNat, hk w le_rfl]
      omega
    · simp [hk (w - 1) (Nat.sub_le _ _)]
  | succ n ih =>
    rw [BitVec.clzAuxRec_succ, leadingZeros, ← Nat.toNat_testBit, BitVec.getLsbD]
    cases x.toNat.testBit (n + 1)
    · have := ih (by omega)
      simp only [Bool.false_eq_true, if_false, Bool.toNat_false, zero_ne_one]
      omega
    · simp [hk (w - 1 - (n + 1)) (by omega)]

theorem leadingZeros_eq_clz {w : Nat} (hw : 0 < w) (x : BitVec w) : leadingZeros x.toNat w = x.clz.toNat := by
  rw [BitVec.clz, clzAuxRec_toNat x (by omega), Nat.sub_add_cancel hw, Nat.sub_self, Nat.zero_add]

/-! ## Reversal -/

theorem reverseBits_lt (a n : Nat) : reverseBits a n < 2 ^ n := by
  induction n generalizing a with
  | zero => simp [reverseBits]
  | succ n ih =>
    have := ih (a / 2)
    rw [reverseBits, pow_succ]
    rcases Nat.mod_two_eq_zero_or_one a with h | h <;> rw [h] <;> omega

theorem testBit_reverseBits (a n i : Nat) : (reverseBits a n).testBit i = (decide (i < n) && a.testBit (n - 1 - i)) := by
  induction n generalizing a with
  | zero => simp [reverseBits]
  | succ n ih =>
    rw [reverseBits, mul_comm, Nat.testBit_two_pow_mul_add _ (reverseBits_lt _ n)]
    split
    · next h =>
      rw [ih, ← Nat.testBit_succ, show (n - 1 - i).succ = n + 1 - 1 - i by omega]
      simp [h, Nat.lt_succ_of_lt h]
    · next h =>
      rcases Nat.eq_or_lt_of_le (Nat.le_of_not_lt h) with rfl | h'
      · simp [Nat.testBit_zero]
      · have hlt : a % 2 < 2 ^ (i - n) := lt_of_lt_of_le (Nat.mod_lt _ (by decide)) (Nat.le_self_pow (by omega) 2)
        rw [Nat.testBit_lt_two_pow hlt]
        simp [show ¬ i < n + 1 by omega]

theorem reverseBits_eq_reverse {w : Nat} (x : BitVec w) : reverseBits x.toNat w = x.reverse.toNat := by
  apply Nat.eq_of_testBit_eq
  intro i
  rw [testBit_reverseBits, ← BitVec.getLsbD, ← BitVec.getLsbD, BitVec.getLsbD_reverse, BitVec.getMsbD]

/-- The zeros at the low end are those at the high end of the reversal. -/
theorem leadingZeros_reverseBits (a n : Nat) : leadingZeros (reverseBits a n) n = trailingZeros a n := by
  induction n generalizing a with
  | zero => rfl
  | succ n ih =>
    have htop : reverseBits a (n + 1) / 2 ^ n = a % 2 := by
      rw [reverseBits, mul_comm, Nat.mul_add_div (Nat.two_pow_pos _), Nat.div_eq_of_lt (reverseBits_lt _ n), Nat.add_zero]
    rw [leadingZeros, trailingZeros, htop, Nat.mod_mod]
    split
    · rfl
    · next h =>
      rw [reverseBits, Nat.mod_two_ne_one.mp h, Nat.zero_mul, Nat.zero_add, ih]

theorem trailingZeros_eq_ctz {w : Nat} (hw : 0 < w) (x : BitVec w) : trailingZeros x.toNat w = x.ctz.toNat := by
  rw [← leadingZeros_reverseBits, reverseBits_eq_reverse, leadingZeros_eq_clz hw, BitVec.ctz_eq_reverse_clz]

end Sys2Proof.Machine

namespace Sys2Proof
open Machine

theorem F2.ternary_ok {f : F2} {types : List Nat} {sat : Bool} (h : (f.ternary types sat).ok = true) :
    f.tyN ∈ types ∧ f.isImm = false := by
  obtain ⟨hty, -, himm, -⟩ := F2.vecOk_iff.mp (show f.vecOk types sat false 0 = true from h)
  exact ⟨hty, himm.resolve_left Bool.false_ne_true⟩

theorem not_lt_four_of_rawTypes {ty : Nat} (h : ty ∈ rawTypes) : ¬ ty < 4 := by
  simp only [rawTypes, List.mem_cons, List.not_mem_nil, or_false] at h
  omega

end Sys2Proof

namespace Sys2Proof.Machine

/-! ## Logic, shifts, bit fields and counts (R361 to R363) -/

/-- A bitwise form computes the word of the type's width that its function on numbers stands for. -/
theorem computes_of_bitOp {i : Instr} {ty : Nat} {checked : Bool} (f : Nat → Nat → Nat → Nat → Nat)
    (v : Args → BitVec (tyWidth ty)) (hrun : ∀ s, exec i s = s.bitOp i.form ty checked f)
    (hw : i.form.resultWords = tyWords ty)
    (hv : ∀ x, f (tyWidth ty) x.a x.b x.c % 2 ^ tyWidth ty = (v x).toNat) :
    Computes i true (fun _ x l => rawBits ty (v (x l))) := by
  refine computes_of_arith (v := fun x => rawBits ty (v x)) hrun fun x => ?_
  rw [hw, hv, rawBits]

/-- A count goes to one word, whatever the width of A. -/
theorem computes_of_countOp {i : Instr} {ty : Nat} (f : Nat → Nat → Nat) (v : BitVec (tyWidth ty) → Nat)
    (hrun : ∀ s, exec i s = s.countOp i.form ty f) (hw : i.form.resultWords = 1)
    (hv : ∀ x : BitVec (tyWidth ty), f x.toNat (tyWidth ty) = v x) :
    Computes i true (fun _ x l => wordsOf 1 (v (bv ty (x l).a))) := by
  refine computes_of_arith (v := fun x => wordsOf 1 (v (bv ty x.a))) hrun fun x => ?_
  rw [hw, ← hv, bv_toNat]

/-- A form of A and B that takes the raw types alone refuses the signed ones. -/
theorem refuses_signed_of_binary {i : Instr} {f : F2} {sat : Bool} {low bw : Nat}
    (hrun : ∀ s, ∃ k, exec i s = s.run i.form k) (hf : i.form = f.binary rawTypes sat low bw) :
    Refuses i (f.tyN < 4) :=
  refuses_of_ok hrun fun h => not_lt_four_of_rawTypes (F2.binary_ok (hf ▸ h)).1

/-- A form of A that takes the raw types alone refuses the signed ones. -/
theorem refuses_signed_of_unary {i : Instr} {f : F2} {sat : Bool} {dw : Nat}
    (hrun : ∀ s, ∃ k, exec i s = s.run i.form k) (hf : i.form = f.unary rawTypes sat dw) : Refuses i (f.tyN < 4) :=
  refuses_of_ok hrun fun h => not_lt_four_of_rawTypes (F2.unary_ok (hf ▸ h)).1

/-- Settles O4: every form is its operation on words of the type's width, and types other than the raw ones are refused
where R361 to R363 refuse them. -/
theorem logicResults : Obligations.LogicResults := by
  intro f
  refine ⟨?_, ?_, ?_, ?_, ?_, ?_, ?_, ?_, ?_, ?_, ?_, ?_, ?_, ?_, ?_, ?_, ?_⟩
  · exact computes_of_bitOp (fun _ a b _ => a &&& b)
      (fun x => bv f.tyN x.a &&& bv f.tyN x.b) (fun _ => rfl) rfl fun x => bv_and_toNat f.tyN x.a x.b
  · exact computes_of_bitOp (fun _ a b _ => a ||| b)
      (fun x => bv f.tyN x.a ||| bv f.tyN x.b) (fun _ => rfl) rfl fun x => bv_or_toNat f.tyN x.a x.b
  · exact computes_of_bitOp (fun _ a b _ => a ^^^ b)
      (fun x => bv f.tyN x.a ^^^ bv f.tyN x.b) (fun _ => rfl) rfl fun x => bv_xor_toNat f.tyN x.a x.b
  · exact computes_of_bitOp (fun w a b _ => a &&& notBits w b)
      (fun x => bv f.tyN x.a &&& ~~~ bv f.tyN x.b) (fun _ => rfl) rfl fun x => bv_andn_toNat f.tyN x.a x.b
  · exact computes_of_bitOp (fun w a _ _ => notBits w a) (fun x => ~~~ bv f.tyN x.a) (fun _ => rfl) rfl
      fun x => by rw [bv_not_toNat, Nat.mod_eq_of_lt (notBits_lt _ _)]
  · exact computes_of_bitOp (fun w a n _ => shiftVal 0 w a (n % 2 ^ 32))
      (fun x => bv f.tyN x.a <<< (w32 x.b).toNat) (fun _ => rfl) rfl fun x => by rw [w32_toNat, bv_shl_toNat]
  · exact computes_of_bitOp (fun w a n _ => shiftVal 1 w a (n % 2 ^ 32))
      (fun x => bv f.tyN x.a >>> (w32 x.b).toNat) (fun _ => rfl) rfl fun x => by rw [w32_toNat, bv_shr_toNat]
  · exact computes_of_bitOp (fun w a n _ => shiftVal 2 w a (n % 2 ^ 32))
      (fun x => (bv f.tyN x.a).sshiftRight (w32 x.b).toNat) (fun _ => rfl) rfl fun x => by rw [w32_toNat, bv_sra_toNat]
  · exact computes_of_bitOp (fun w a n _ => shiftVal 3 w a (n % 2 ^ 32))
      (fun x => (bv f.tyN x.a).rotateLeft (w32 x.b).toNat) (fun _ => rfl) rfl fun x => by rw [w32_toNat, bv_rol_toNat]
  · refine computes_of_arith (v := fun x => typed f.tyN false (
      let v := ((bv f.tyN x.a >>> field x.b 0 8).truncate (min (field x.b 8 8) (tyWidth f.tyN)))
      if tySigned f.tyN then v.toInt else (v.toNat : Int))) (fun _ => rfl) fun x => ?_
    rw [bfxVal_eq f.tyN x.a x.b _ rfl _ rfl]
    rfl
  · exact computes_of_bitOp bfiVal (fun x =>
      bv f.tyN x.a &&& ~~~ (bv f.tyN (2 ^ min (field x.c 8 8) (tyWidth f.tyN) - 1) <<< field x.c 0 8) |||
        bv f.tyN x.b <<< field x.c 0 8 &&& bv f.tyN (2 ^ min (field x.c 8 8) (tyWidth f.tyN) - 1) <<< field x.c 0 8)
      (fun _ => rfl) rfl fun x => bfiVal_eq f.tyN x.a x.b x.c
  · exact computes_of_countOp popCount (fun v => v.cpop.toNat) (fun _ => rfl) rfl popCount_eq_cpop
  · exact computes_of_countOp leadingZeros (fun v => v.clz.toNat) (fun _ => rfl) rfl
      (leadingZeros_eq_clz (tyWidth_pos _))
  · exact computes_of_countOp trailingZeros (fun v => v.ctz.toNat) (fun _ => rfl) rfl
      (trailingZeros_eq_ctz (tyWidth_pos _))
  · exact computes_of_bitOp (fun w a _ _ => reverseBits (a % 2 ^ w) w)
      (fun x => (bv f.tyN x.a).reverse) (fun _ => rfl) rfl fun x => by
        rw [← bv_toNat f.tyN x.a, reverseBits_eq_reverse, Nat.mod_eq_of_lt (BitVec.isLt _)]
  · simp only [List.forall_mem_cons]
    refine ⟨refuses_signed_of_binary (fun _ => ⟨_, rfl⟩) rfl, refuses_signed_of_binary (fun _ => ⟨_, rfl⟩) rfl,
      refuses_signed_of_binary (fun _ => ⟨_, rfl⟩) rfl, refuses_signed_of_binary (fun _ => ⟨_, rfl⟩) rfl,
      refuses_signed_of_unary (fun _ => ⟨_, rfl⟩) rfl, refuses_signed_of_binary (fun _ => ⟨_, rfl⟩) rfl,
      refuses_signed_of_binary (fun _ => ⟨_, rfl⟩) rfl, refuses_signed_of_binary (fun _ => ⟨_, rfl⟩) rfl,
      refuses_signed_of_binary (fun _ => ⟨_, rfl⟩) rfl, ?_, refuses_signed_of_unary (fun _ => ⟨_, rfl⟩) rfl,
      refuses_signed_of_unary (fun _ => ⟨_, rfl⟩) rfl, refuses_signed_of_unary (fun _ => ⟨_, rfl⟩) rfl, ?_⟩
    · exact refuses_of_ok (fun _ => ⟨_, rfl⟩) fun h => not_lt_four_of_rawTypes (F2.ternary_ok h).1
    · exact fun _ h => absurd h List.not_mem_nil
  · exact refuses_of_ok (fun _ => ⟨_, rfl⟩) fun h => by simpa using (F2.ternary_ok h).2

end Sys2Proof.Machine

/-! SUPPORT. mov and sel, and the forms that write index registers (R365, R367). -/

namespace Sys2Proof.Machine

/-! ## Effects on the issuing wave alone -/

theorem State.wrote_congr {s : State} {env : Env} {lanes lanes' : Nat → Lane} {o : Host.Outcome State Fault Refusal}
    (h : ∀ l ∈ laneList, lanes l = lanes' l) (hw : s.wrote env lanes o) : s.wrote env lanes' o := by
  obtain ⟨t, w, ho, hs, hwave, hk, hm, hl⟩ := hw
  exact ⟨t, w, ho, hs, hwave, hk, hm, fun l hl' => (hl l hl').trans (h l hl')⟩

/-- An effect that changes the issuing wave by `upd` and falls through: the lanes are those `upd` leaves. -/
theorem State.run_wrote {s : State} {F : Form} {k : Env → State → Res} {env : Env} {upd : Wave → Wave}
    {lanes : Nat → Lane} (he : s.env? F.pidx F.pneg = some env) (hc : F.completes env = true)
    (hk : ∀ t, k env t = env.fall (t.updWave env.w.id upd)) (hkept : ∀ w : Wave, w.kept (upd w))
    (hfr : ∀ w, (upd w).frontier = w.frontier) (hl : ∀ l ∈ laneList, (upd (env.begun F)).lane l = lanes l) :
    s.wrote env lanes (s.run F k) := by
  obtain ⟨hwave, -⟩ := State.env?_wave he
  obtain ⟨t, ht, hwrote⟩ := State.wrote_of_fall (s2 := (s.begin_ env F).updWave env.w.id upd) he hc
    ((State.begin_onlyWave s env F).updWave hkept)
    (State.wave?_updWave_self (fun w => (hkept w).id) (State.begin_wave hwave))
    ((Env.begun_kept env F).trans (hkept _)) (by rw [hfr, Env.begun_frontier]) hl
  rw [State.run_next he (Form.completes.issues hc) ((hk _).trans ht)]
  exact hwrote

/-! ## Writing an index register (R211, R218, R222, R367) -/

/-- A lane after xset or xadd wrote v to index register k: xk and lt hold its 24 bits. -/
def Lane.indexWritten (lane : Lane) (k v : Nat) : Lane :=
  { lane.setIndex k v with lt := PPair.ofNat (v % 2 ^ 24) }

/-- A reuse latch tagged through v[xk] loses its contents. -/
def Wave.dropIndexLatch (w : Wave) (k : Nat) : Wave :=
  match w.latch with
  | some t => if t.sel.toNat = 0xD0 + k then { w with latch := none } else w
  | none => w

/-- The wave after listed lanes wrote index register k. -/
def Wave.writeIndex (w : Wave) (k : Nat) (rs : List (Nat × Nat)) : Wave :=
  (rs.foldl (fun w r => w.updLane r.1 (fun l => l.indexWritten k r.2)) w).dropIndexLatch k

theorem Wave.kept_dropIndexLatch (w : Wave) (k : Nat) : w.kept (w.dropIndexLatch k) := by
  unfold Wave.dropIndexLatch
  split
  · split <;> rfl
  · rfl

@[simp] theorem Wave.dropIndexLatch_frontier (w : Wave) (k : Nat) : (w.dropIndexLatch k).frontier = w.frontier := by
  unfold Wave.dropIndexLatch
  split
  · split <;> rfl
  · rfl

@[simp] theorem Wave.dropIndexLatch_lane (w : Wave) (k l : Nat) : (w.dropIndexLatch k).lane l = w.lane l := by
  unfold Wave.dropIndexLatch
  split
  · split <;> rfl
  · rfl

theorem Wave.kept_writeIndex (w : Wave) (k : Nat) (rs : List (Nat × Nat)) : w.kept (w.writeIndex k rs) :=
  (Wave.kept_foldl _ (fun w _ => Wave.kept_updLane w _ _) rs w).trans (Wave.kept_dropIndexLatch _ k)

theorem Wave.writeIndex_frontier (w : Wave) (k : Nat) (rs : List (Nat × Nat)) :
    (w.writeIndex k rs).frontier = w.frontier := by
  rw [Wave.writeIndex, Wave.dropIndexLatch_frontier]
  induction rs generalizing w with
  | nil => rfl
  | cons r t ih => exact ih _

theorem Wave.writeIndex_lane (w : Wave) (k : Nat) (ls : List Nat) (hn : ls.Nodup) (hb : ∀ l ∈ ls, l < w.lanes.length)
    (v : Nat → Nat) (j : Nat) :
    (w.writeIndex k (ls.map (fun l => (l, v l)))).lane j =
      if j ∈ ls then (w.lane j).indexWritten k (v j) else w.lane j := by
  obtain ⟨hin, hout⟩ := Wave.lane_foldl_updLane (fun r : Nat × Nat => r.1) (fun r lane => lane.indexWritten k r.2)
    (fun w r => w.updLane r.1 (fun l => l.indexWritten k r.2)) (fun w r j => Wave.lane_updLane _ _ _ _)
    (fun w r => Wave.updLane_lanes_length _ _ _) (ls.map (fun l => (l, v l)))
    (by simpa [List.map_map, Function.comp_def] using hn) w
    (by intro r hr; obtain ⟨l, hl, rfl⟩ := List.mem_map.mp hr; exact hb l hl) j
  rw [Wave.writeIndex, Wave.dropIndexLatch_lane]
  split
  · next hj => exact hin _ (List.mem_map_of_mem hj) rfl
  · next hj => exact hout (by simpa [List.map_map, Function.comp_def] using hj)

/-- The lanes after an index form: the active ones wrote `new`. -/
def Env.indexed (env : Env) (F : Form) (k : Nat) (new : Nat → Nat) (l : Nat) : Lane :=
  if hasLane env.act l then ((env.w.lane l).pop F.pops).indexWritten k (new l) else env.w.lane l

/-- An index form completes: each active lane's register and lt hold the new value (R367). -/
theorem State.indexOp_wrote {s : State} {F : Form} {k : Nat} {checked : Bool} {f : Nat → Nat → Nat} {env : Env}
    {a : Nat → Nat} (he : s.env? F.pidx F.pneg = some env) (hc : F.completes env = true)
    (ha : ∀ l ∈ env.lanes, F.a.val env.w (env.w.lane l) = .ok (a l)) :
    s.wrote env (env.indexed F k (fun l => f (((env.w.lane l).x.getD k 0).toNat % 2 ^ 24) (a l)))
      (s.indexOp F k checked f) := by
  obtain ⟨-, -, -, -, hres, -, hlen, -⟩ := Form.completes_iff.mp hc
  have heach : env.each (fun _ lane => (F.a.val env.w lane).map (fun a => f ((lane.x.getD k 0).toNat % 2 ^ 24) a)) =
      .ok (env.lanes.map (fun l => (l, f (((env.w.lane l).x.getD k 0).toNat % 2 ^ 24) (a l)))) :=
    Env.each_ok fun l hl => by rw [ha l hl]; rfl
  refine State.run_wrote (upd := fun w => w.writeIndex k
      (env.lanes.map (fun l => (l, f (((env.w.lane l).x.getD k 0).toNat % 2 ^ 24) (a l))))) he hc (fun t => ?_)
    (fun w => Wave.kept_writeIndex w k _) (fun w => Wave.writeIndex_frontier w k _) fun l hl => ?_
  · rw [heach]
    simp only [bind, Except.bind, Env.residueLanes_nil hres, List.foldl_nil, List.contains_nil, PPair.marked,
      Bool.false_eq_true, if_false]
    rfl
  · have hl32 : l < 32 := mem_laneList.mp hl
    rw [Wave.writeIndex_lane _ k env.lanes (lanesOf_nodup _) (fun j hj => by
      rw [Env.begun_length, hlen]; exact Env.lanes_lt hj), Env.begun_lane env F (by rw [hlen]; exact hl32)]
    have hm : l ∈ env.lanes ↔ hasLane env.act l = true := mem_lanesOf
    simp only [hm, Env.indexed]
    split <;> rfl

end Sys2Proof.Machine

namespace Sys2Proof.Machine

/-! ## The values of xset and xadd -/

theorem PPair.ofNat_word {n : Nat} (h : n < 2 ^ 32) : PPair.ofNat n = { lo := { val := w32 n } } := by
  rw [PPair.ofNat, Nat.div_eq_of_lt h]
  rfl

theorem Lane.indexWritten_eq (lane : Lane) (k v : Nat) : lane.indexWritten k v =
    { lane with x := putAt lane.x k (w32 (v % 2 ^ 24)), lt := { lo := { val := w32 (v % 2 ^ 24) } } } := by
  have h : v % 2 ^ 24 < 2 ^ 32 := by omega
  rw [Lane.indexWritten, PPair.ofNat_word h]
  rfl

theorem xsetVal_eq (old a mode : Nat) : xsetVal (old % 2 ^ 24) a mode % 2 ^ 24 =
    if mode = 0 then a % 2 ^ 24
    else if mode = 1 then old / 2 ^ 8 % 2 ^ 16 * 2 ^ 8 + a % 2 ^ 8
    else if mode = 2 then old / 2 ^ 16 % 2 ^ 8 * 2 ^ 16 + a % 2 ^ 8 * 2 ^ 8 + old % 2 ^ 8
    else a % 2 ^ 8 * 2 ^ 16 + old % 2 ^ 16 := by
  rcases mode with _ | _ | _ | mode <;> simp [xsetVal] <;> omega

theorem xaddVal_eq (old a : Nat) : xsetVal (old % 2 ^ 24) ((old % 2 ^ 24 + a) % 2 ^ 8) 1 % 2 ^ 24 =
    old / 2 ^ 8 % 2 ^ 16 * 2 ^ 8 + (old + a) % 2 ^ 8 := by
  simp only [xsetVal]
  omega

/-! ## mov and sel (R225, R365) -/

/-- An instruction that writes the words a lane-by-lane function gives. -/
theorem writes_of_vec {i : Instr} {lt checked : Bool} {g : Env → Nat → Lane → Try (List PWord)}
    {ok : Env → Nat → List PWord → Prop}
    (hrun : ∀ s, exec i s = s.run i.form (fun env => env.vec i.form lt checked (g env)))
    (hg : ∀ env l ws, ok env l ws → g env l (env.w.lane l) = .ok ws) : Writes i lt ok := by
  intro s env sl ws he hc hr
  rw [hrun]
  exact State.run_vec he hc (fun l hl => (hr l hl).1) fun l hl => hg env l (ws l) (hr l hl).2

theorem Writes.mono {i : Instr} {lt : Bool} {ok ok' : Env → Nat → List PWord → Prop} (h : Writes i lt ok)
    (himp : ∀ env l ws, ok' env l ws → ok env l ws) : Writes i lt ok' :=
  fun s env sl ws he hc hr => h s env sl ws he hc fun l hl => ⟨(hr l hl).1, himp env l (ws l) (hr l hl).2⟩

/-- A move writes the words A reads, marks and all, cut to a narrow type's width. -/
theorem writes_of_moveOp {i : Instr} {ty : Nat} (hrun : ∀ s, exec i s = s.moveOp i.form ty) :
    Writes i true (fun env l ws => ∃ vs, i.form.a.read env.w (env.w.lane l) = .ok vs ∧
      ws = vs.map (fun v => if tyWidth ty < 32
        then { v with val := BitVec.ofNat 32 (v.val.toNat % 2 ^ tyWidth ty) } else v)) := by
  refine writes_of_vec hrun fun env l ws ⟨vs, hvs, hws⟩ => ?_
  rw [hvs, hws]
  by_cases h : tyWidth ty < 32 <;> simp [Except.map, h]

/-- A select reads the operand its predicate chooses, and that one alone. -/
theorem writes_of_selectOp {i : Instr} {ty k : Nat} (hrun : ∀ s, exec i s = s.selectOp i.form ty k)
    (hw : i.form.resultWords = tyWords ty) :
    Writes i true (fun env l ws => ∃ v, (if (env.w.lane l).pred k then i.form.a else i.form.b).val env.w (env.w.lane l) =
      .ok v ∧ ws = rawBits ty (bv ty v)) := by
  refine writes_of_vec hrun fun env l ws ⟨v, hv, hws⟩ => ?_
  rw [hv, hws, rawBits, bv_toNat, ← hw]
  rfl

end Sys2Proof.Machine

namespace Sys2Proof
open Machine

theorem F2.selForm_ok {f : F2} (h : f.selForm.ok = true) :
    f.tyN ∈ rawTypes ∧ f.cN < 8 ∧ f.isImm = false := by
  have h' : (f.vecOk rawTypes false false 0 && decide (f.cN < 8)) = true := h
  simp only [Bool.and_eq_true, F2.vecOk_iff, Bool.false_eq_true, false_or, decide_eq_true_eq] at h'
  tauto

end Sys2Proof

namespace Sys2Proof.Machine

/-- Settles O5: mov and sel by the words their lanes read, xset and xadd by the new value of each active lane's register. -/
theorem moveResults : Obligations.MoveResults := by
  refine ⟨fun f g => ⟨?_, ?_, ?_, ?_, ?_⟩, fun f xadd s env a => ?_⟩
  · refine (writes_of_moveOp (ty := 6) fun _ => rfl).mono fun env l ws h => ⟨ws, h, ?_⟩
    simp [tyWidth]
  · exact writes_of_moveOp fun _ => rfl
  · exact writes_of_selectOp (fun _ => rfl) rfl
  · exact refuses_signed_of_unary (fun _ => ⟨_, rfl⟩) rfl
  · refine refuses_of_ok (fun _ => ⟨_, rfl⟩) fun h => ?_
    obtain ⟨hty, hc, himm⟩ := F2.selForm_ok h
    rintro (hlow | hhigh | hset)
    · exact not_lt_four_of_rawTypes hty hlow
    · omega
    · exact Bool.false_ne_true (himm.symm.trans hset)
  · cases xadd
    · intro i he hc ha
      refine State.wrote_congr (fun l _ => ?_) (State.indexOp_wrote (F := f.indexForm false 3) (k := f.dN) (checked := true)
        (f := fun old a => xsetVal old a (f.modAt 8 4)) he hc ha)
      simp only [Env.indexed, Lane.indexWritten_eq, xsetVal_eq]
      rfl
    · intro i he hc ha
      refine State.wrote_congr (fun l _ => ?_) (State.indexOp_wrote (F := f.indexForm true 0) (k := f.dN) (checked := true)
        (f := fun old a => xsetVal old ((old + a) % 2 ^ 8) 1) he hc ha)
      simp only [Env.indexed, Lane.indexWritten_eq, xaddVal_eq]
      rfl

end Sys2Proof.Machine

/-! SUPPORT. Compares and predicate logic (R364, R368, R389). -/

namespace Sys2Proof
open Machine

theorem F2.icmpForm_ok {f : F2} (h : f.icmpForm.ok = true) : f.modAt 8 4 ≤ 5 ∧ f.dN < 8 := by
  have h' : ((f.binary allTypes false 5 (tyWords f.tyN)).ok && decide (f.dN < 8)) = true := h
  rw [Bool.and_eq_true, decide_eq_true_eq] at h'
  exact ⟨(F2.binary_ok h'.1).2.2, h'.2⟩

/-- MOD [16] is the flag of the reuse latch (R222). -/
theorem F2.modAt_reuse (f : F2) : f.modAt 16 1 = (f.mod.getLsbD 8).toNat :=
  (Nat.toNat_testBit f.mod.toNat 8).symm

theorem F2.predForm_ok {f : F2} {useB : Bool} (h : (f.predForm useB).ok = true) :
    f.tyN = 2 ∧ f.modAt 16 1 = 0 ∧ f.dN < 8 ∧ f.aN < 8 ∧ (if useB then f.bN < 8 else f.bN = 0) := by
  simp only [F2.predForm, F2.form, Bool.and_eq_true, Bool.not_eq_true', beq_iff_eq, decide_eq_true_eq] at h
  obtain ⟨⟨⟨⟨⟨⟨hty, -⟩, hreuse⟩, -⟩, hd⟩, ha⟩, hb⟩ := h
  refine ⟨hty, by rw [F2.modAt_reuse, hreuse]; rfl, hd, ha, ?_⟩
  cases useB
  · exact F2.bN_eq_zero.mp hb
  · exact of_decide_eq_true hb

end Sys2Proof

namespace Sys2Proof.Machine

/-- An instruction that decides predicate k lane by lane. -/
theorem decides_of_vecPred {i : Instr} {k : Nat} {checked : Bool} {g : Env → Nat → Lane → Try Bool}
    {b : Env → (Nat → Args) → Nat → Bool}
    (hrun : ∀ s, exec i s = s.run i.form (fun env => env.vecPred k checked (g env)))
    (hg : ∀ env x, (∀ l ∈ env.lanes, i.form.args env.w (env.w.lane l) = .ok (x l)) →
      ∀ l ∈ env.lanes, g env l (env.w.lane l) = .ok (b env x l)) : Decides i k b := by
  intro s env x he hc hx
  rw [hrun]
  exact State.run_vecPred he hc (hg env x hx)

/-- An instruction that decides by its operands' values alone. -/
theorem decides_of_args {i : Instr} {k : Nat} {checked : Bool} (p : Env → Args → Bool)
    (hrun : ∀ s, exec i s =
      s.run i.form (fun env => env.vecPred k checked (fun _ lane => (i.form.args env.w lane).map (p env)))) :
    Decides i k (fun env x l => p env (x l)) :=
  decides_of_vecPred hrun fun env x hx l hl => by rw [hx l hl]; rfl

/-- Predicate logic reads no operand: two predicates, each inverted as MOD says. -/
theorem decides_of_predOp {i : Instr} {f : F2} (g : Bool → Bool → Bool) (hrun : ∀ s, exec i s = s.predOp f i.form g) :
    Decides i f.dN (fun env _ l => g ((env.w.lane l).pred f.aN != (f.modAt 8 1 == 1))
      ((env.w.lane l).pred f.bN != (f.modAt 9 1 == 1))) :=
  decides_of_vecPred hrun fun _ _ _ _ _ => rfl

theorem decides_of_floatCmp {i : Instr} {f : F2} {wide : Bool} (hrun : ∀ s, exec i s = s.floatCmp i.form f wide) :
    Decides i f.dN (fun env x l => (f.fmt wide).cond (f.modAt 8 3)
      ((f.fmt wide).flush env.flush (element (f.fmt wide) (f.modAt 11 1) (x l).a))
      ((f.fmt wide).flush env.flush (element (f.fmt wide) (f.modAt 11 1) (x l).b))) :=
  decides_of_args (fun env x => (f.fmt wide).cond (f.modAt 8 3)
    ((f.fmt wide).flush env.flush (element (f.fmt wide) (f.modAt 11 1) x.a))
    ((f.fmt wide).flush env.flush (element (f.fmt wide) (f.modAt 11 1) x.b))) hrun

/-- A form of predicate logic refuses fields out of range (R368). -/
theorem refuses_of_predForm {i : Instr} {f : F2} {useB : Bool} (hrun : ∀ s, ∃ k, exec i s = s.run i.form k)
    (hf : i.form = f.predForm useB) :
    Refuses i (8 ≤ f.dN ∨ 8 ≤ f.aN ∨ 8 ≤ f.bN ∨ f.modAt 16 1 = 1 ∨ f.tyN ≠ 2) := by
  refine refuses_of_ok hrun fun h => ?_
  obtain ⟨hty, hreuse, hd, ha, hb⟩ := F2.predForm_ok (hf ▸ h)
  have hb8 : f.bN < 8 := by
    cases useB
    · exact lt_of_eq_of_lt hb (by decide)
    · exact hb
  omega

/-- Settles O6: every compare and every form of predicate logic writes its truth to one predicate and nothing to lt. -/
theorem predicateResults : Obligations.PredicateResults := by
  intro f
  refine ⟨?_, ?_, ?_, ?_, ?_, ?_, ?_, ?_, ?_⟩
  · exact decides_of_args (fun _ x => intCond (f.modAt 8 4) (tyVal f.tyN x.a) (tyVal f.tyN x.b)) fun _ => rfl
  · exact decides_of_predOp (fun a b => a && b) fun _ => rfl
  · exact decides_of_predOp (fun a b => a || b) fun _ => rfl
  · exact decides_of_predOp (fun a b => a != b) fun _ => rfl
  · exact decides_of_predOp (fun a _ => !a) fun _ => rfl
  · intro wide
    cases wide
    · exact decides_of_floatCmp (wide := false) fun _ => rfl
    · exact decides_of_floatCmp (wide := true) fun _ => rfl
  · refine refuses_of_ok (fun _ => ⟨_, rfl⟩) fun h => ?_
    obtain ⟨hcond, hd⟩ := F2.icmpForm_ok h
    omega
  · simp only [List.forall_mem_cons]
    refine ⟨refuses_of_predForm (fun _ => ⟨_, rfl⟩) rfl, refuses_of_predForm (fun _ => ⟨_, rfl⟩) rfl,
      refuses_of_predForm (fun _ => ⟨_, rfl⟩) rfl, refuses_of_predForm (fun _ => ⟨_, rfl⟩) rfl, ?_⟩
    exact fun _ h => absurd h List.not_mem_nil
  · refine refuses_of_ok (fun _ => ⟨_, rfl⟩) fun h => ?_
    obtain ⟨-, -, -, -, hb⟩ := F2.predForm_ok h
    exact not_not.mpr hb

end Sys2Proof.Machine

/-! SUPPORT. vote, ballot, shfl and redux over the active lanes (R369 to R372). -/

namespace Sys2Proof
open Machine

theorem F2.voteForm_ok {f : F2} {low : Nat} (h : (f.voteForm low).ok = true) : f.tyN = 2 ∧ f.modAt 8 4 ≤ low := by
  simp only [F2.voteForm, F2.form, Bool.and_eq_true, F2.vecOk_iff, List.mem_singleton] at h
  tauto

theorem F2.voteD_ok {f : F2} (h : f.voteD.ok = true) : f.tyN = 2 ∧ f.modAt 8 4 ≤ 2 := by
  have h' : ((f.voteForm 2).ok && decide (f.dN < 8)) = true := h
  rw [Bool.and_eq_true] at h'
  exact F2.voteForm_ok h'.1

theorem F2.shflForm_ok {f : F2} (h : f.shflForm.ok = true) : f.tyN ∈ [6, 7] ∧ f.modAt 8 4 ≤ 3 := by
  simp only [F2.shflForm, F2.form, Bool.and_eq_true, F2.vecOk_iff] at h
  tauto

theorem F2.reduxForm_ok {f : F2} (h : f.reduxForm.ok = true) : f.tyN ∈ [2, 3, 6, 7] ∧ f.modAt 8 4 ≤ 5 := by
  simp only [F2.reduxForm, F2.form, Bool.and_eq_true, F2.vecOk_iff] at h
  tauto

end Sys2Proof

namespace Sys2Proof.Machine

/-! ## vote and ballot (R370) -/

theorem voteVal_eq (p : Nat → Bool) (ls : List Nat) (mode : Nat) :
    voteVal mode (ls.filter p).length ls.length =
      if mode = 0 then ls.any p else if mode = 1 then ls.all p else ls.all p || ls.all (fun l => !p l) := by
  have hall : ((ls.filter p).length == ls.length) = ls.all p := by
    rw [Bool.eq_iff_iff, beq_iff_eq, List.length_filter_eq_length_iff, List.all_eq_true]
  have hnone : ((ls.filter p).length == 0) = ls.all (fun l => !p l) := by
    rw [Bool.eq_iff_iff, beq_iff_eq, List.length_eq_zero_iff, List.filter_eq_nil_iff, List.all_eq_true]
    simp
  have hany : decide ((ls.filter p).length ≠ 0) = ls.any p := by
    rw [List.any_eq_not_all_not, ← hnone]
    by_cases h : (ls.filter p).length = 0 <;> simp [h]
  rcases mode with _ | _ | mode
  · exact hany
  · exact hall
  · rw [if_neg (by omega), if_neg (by omega), Bool.or_comm, ← hall, ← hnone]
    rfl

/-- The lanes that hold a predicate are those of the mask ballot writes. -/
theorem maskOf_holds (env : Env) (k : Nat) :
    maskOf (env.holds k) = maskBy (fun l => hasLane env.act l && (env.w.lane l).pred k) := by
  rw [maskBy, Env.holds, Env.lanes, lanesOf, List.filter_filter]
  simp only [Bool.and_comm]

/-! ## shfl (R371) -/

theorem both_eq_ok {α β : Type} {x : Try α} {y : Try β} {p : α × β} (h : both x y = .ok p) :
    x = .ok p.1 ∧ y = .ok p.2 := by
  cases x <;> cases y <;> cases h
  exact ⟨rfl, rfl⟩

theorem Form.args_ok {F : Form} {w : Wave} {lane : Lane} {x : Args} (h : F.args w lane = .ok x) :
    F.a.val w lane = .ok x.a ∧ F.b.val w lane = .ok x.b := by
  unfold Form.args at h
  cases hv : both (F.a.val w lane) (both (F.b.val w lane) (F.c.val w lane)) with
  | error c =>
    rw [hv] at h
    cases h
  | ok v =>
    rw [hv] at h
    cases h
    obtain ⟨ha, hbc⟩ := both_eq_ok hv
    exact ⟨ha, (both_eq_ok hbc).1⟩

/-- The lane a shuffle names, inside the wave or not: 0 idx, 1 up, 2 down, 3 xor. -/
def shflSource (mode l n : Nat) : Int :=
  if mode = 0 then n else if mode = 1 then l - n else if mode = 2 then l + n else ((l ^^^ n : Nat) : Int)

theorem shflLane_eq (mode n : Nat) {l : Nat} (hl : l < 32) : shflLane mode l n =
    if 0 ≤ shflSource mode l n ∧ shflSource mode l n ≤ 31 then some (shflSource mode l n).toNat else none := by
  match mode with
  | 0 =>
    have h : n < 32 ↔ 0 ≤ (n : Int) ∧ (n : Int) ≤ 31 := by omega
    simp [shflLane, shflSource, h]
  | 1 =>
    have h : n ≤ l ↔ 0 ≤ (l : Int) - n ∧ (l : Int) - n ≤ 31 := by omega
    simp only [shflLane, shflSource, h, Int.toNat_sub, one_ne_zero, if_true, if_false]
  | 2 =>
    have h : l + n < 32 ↔ 0 ≤ ((l + n : Nat) : Int) ∧ ((l + n : Nat) : Int) ≤ 31 := by omega
    simp only [shflLane, shflSource, h, Nat.cast_add]
    rfl
  | mode + 3 =>
    have h : l ^^^ n < 32 ↔ 0 ≤ ((l ^^^ n : Nat) : Int) ∧ ((l ^^^ n : Nat) : Int) ≤ 31 := by omega
    simp [shflLane, shflSource, h]

/-! ## redux (R372) -/

theorem tyExtend_mod (ty n : Nat) : tyExtend ty (n % 2 ^ tyWidth ty) = tyExtend ty n := by
  simp only [tyExtend, toSigned, Nat.mod_mod]

theorem rawBits_bv (ty n : Nat) : rawBits ty (bv ty n) = wordsOf (tyWords ty) (tyExtend ty n) := by
  rw [rawBits, bv_toNat, tyExtend_mod]

/-- Folding an operation on numbers whose low bits are an operation on words. -/
theorem foldl_bv {ty : Nat} {op : BitVec (tyWidth ty) → BitVec (tyWidth ty) → BitVec (tyWidth ty)}
    {opN : Nat → Nat → Nat} (h : ∀ a b, (opN a b) % 2 ^ tyWidth ty = (op (bv ty a) (bv ty b)).toNat) (vs : List Nat)
    (z : Nat) :
    (vs.map (bv ty)).foldl op (bv ty z) = bv ty (vs.foldl opN z) := by
  rw [List.foldl_map]
  refine List.foldl_hom (bv ty) fun a b => BitVec.eq_of_toNat_eq ?_
  rw [← h, bv_toNat]

theorem bv_allOnes (ty : Nat) : bv ty (2 ^ tyWidth ty - 1) = BitVec.allOnes (tyWidth ty) := by
  apply BitVec.eq_of_toNat_eq
  rw [bv_toNat, BitVec.toNat_allOnes, Nat.mod_eq_of_lt (Nat.sub_lt (Nat.two_pow_pos _) (by decide))]

theorem reduxVal_eq (ty op : Nat) (sat : Bool) (vs : List Nat) :
    wordsOf (tyWords ty) (reduxVal ty op sat vs) =
      if op = 0 then typed ty sat (vs.map (tyVal ty)).sum
      else if op = 1 then typed ty false ((vs.map (tyVal ty)).tail.foldl min ((vs.map (tyVal ty)).headD 0))
      else if op = 2 then typed ty false ((vs.map (tyVal ty)).tail.foldl max ((vs.map (tyVal ty)).headD 0))
      else if op = 3 then rawBits ty ((vs.map (bv ty)).foldl (· &&& ·) (BitVec.allOnes _))
      else if op = 4 then rawBits ty ((vs.map (bv ty)).foldl (· ||| ·) 0)
      else rawBits ty ((vs.map (bv ty)).foldl (· ^^^ ·) 0) := by
  rcases op with _ | _ | _ | _ | _ | op
  · rw [List.sum_eq_foldl]; rfl
  · rfl
  · rfl
  · rw [← bv_allOnes, foldl_bv (bv_and_toNat ty), rawBits_bv]
    rfl
  · have hz : (0 : BitVec (tyWidth ty)) = bv ty 0 := rfl
    rw [hz, foldl_bv (bv_or_toNat ty), rawBits_bv]
    rfl
  · have hz : (0 : BitVec (tyWidth ty)) = bv ty 0 := rfl
    rw [hz, foldl_bv (bv_xor_toNat ty), rawBits_bv]
    rfl

/-- A run depends on its effect in the issuing environment alone. -/
theorem State.run_congr {s : State} {F : Form} {k k' : Env → State → Res} {env : Env}
    (he : s.env? F.pidx F.pneg = some env) (hk : k env = k' env) : s.run F k = s.run F k' := by
  simp only [State.run, he, hk]

/-- The lane that lane l's shuffle reads: its source, when that is an active lane, else itself. -/
def shflReads (act : Mask) (mode l n : Nat) : Nat :=
  match shflLane mode l n with
  | some k => if hasLane act k then k else l
  | none => l

theorem val_shflReads {env : Env} {x : Nat → Args} {F : Form} (mode n : Nat)
    (hx : ∀ l ∈ env.lanes, F.a.val env.w (env.w.lane l) = .ok (x l).a) {l : Nat} (hl : l ∈ env.lanes) :
    F.a.val env.w (env.w.lane (shflReads env.act mode l n)) = .ok (
      if 0 ≤ shflSource mode l n ∧ shflSource mode l n ≤ 31 ∧ hasLane env.act (shflSource mode l n).toNat = true
      then (x (shflSource mode l n).toNat).a else (x l).a) := by
  rw [shflReads, shflLane_eq mode n (Env.lanes_lt hl)]
  by_cases hin : 0 ≤ shflSource mode l n ∧ shflSource mode l n ≤ 31
  · simp only [hin, and_self, true_and, if_true]
    by_cases hact : hasLane env.act (shflSource mode l n).toNat = true
    · simp only [hact, if_true]
      exact hx _ (mem_lanesOf.mpr hact)
    · simp only [hact, if_false, Bool.false_eq_true]
      exact hx l hl
  · rw [if_neg hin, if_neg fun h => hin ⟨h.1, h.2.1⟩]
    exact hx l hl

theorem shfl_computes (f : F2) : Computes (.shfl f) false (fun env x l =>
    wordsOf (tyWords f.tyN) (if 0 ≤ shflSource (f.modAt 8 4) l (x l).b ∧ shflSource (f.modAt 8 4) l (x l).b ≤ 31 ∧
        hasLane env.act (shflSource (f.modAt 8 4) l (x l).b).toNat = true
      then (x (shflSource (f.modAt 8 4) l (x l).b).toNat).a else (x l).a)) := by
  refine computes_of_vec (fun _ => rfl) fun env x hx l hl => ?_
  have hb : f.shflForm.b.val env.w (env.w.lane l) = .ok (x l).b := (Form.args_ok (hx l hl)).2
  have ha := val_shflReads (F := f.shflForm) (f.modAt 8 4) (x l).b (fun j hj => (Form.args_ok (hx j hj)).1) hl
  simp only [hb]
  exact congrArg (Except.map (wordsOf (tyWords f.tyN))) ha

theorem redux_computes (f : F2) : Computes (.redux f) false (fun env x _ =>
    wordsOf (tyWords f.tyN) (reduxVal f.tyN (f.modAt 8 4) f.sat (env.lanes.map (fun l => (x l).a)))) := by
  intro s env x sl he hc hr
  have heach : env.each (fun _ lane => f.reduxForm.a.val env.w lane) = .ok (env.lanes.map (fun l => (l, (x l).a))) :=
    Env.each_ok fun l hl => (Form.args_ok (hr l hl).1).1
  have hrun : execRedux f s = s.run f.reduxForm (fun env => env.vec f.reduxForm false (f.modAt 8 4 == 0)
      (fun _ _ => .ok (wordsOf (tyWords f.tyN)
        (reduxVal f.tyN (f.modAt 8 4) f.sat (env.lanes.map (fun l => (x l).a)))))) := by
    unfold execRedux
    refine State.run_congr (env := env) he (funext fun t => ?_)
    simp only [heach, bind, Except.bind, List.map_map]
    rfl
  show s.wrote env _ (execRedux f s)
  rw [hrun]
  exact State.run_vec (lt := false) he hc (fun l hl => (hr l hl).2) fun _ _ => rfl

/-- Settles O7: each wave operation is its function of what the active lanes hold and read. -/
theorem waveResults : Obligations.WaveResults := by
  intro f
  refine ⟨?_, ?_, ?_, ?_, ?_, ?_, ?_, ?_⟩
  · exact decides_of_vecPred (fun _ => rfl) fun env _ _ _ _ => congrArg Except.ok (voteVal_eq _ env.lanes (f.modAt 8 4))
  · exact computes_of_vec (fun _ => rfl) fun env _ _ _ _ => by rw [maskOf_holds]; rfl
  · exact shfl_computes f
  · simpa only [reduxVal_eq, List.map_map, Function.comp_def] using redux_computes f
  · refine refuses_of_ok (fun _ => ⟨_, rfl⟩) fun h => ?_
    obtain ⟨hty, hmode⟩ := F2.voteD_ok h
    omega
  · exact refuses_of_ok (fun _ => ⟨_, rfl⟩) fun h => not_not.mpr (F2.voteForm_ok (low := 0) h).1
  · refine refuses_of_ok (fun _ => ⟨_, rfl⟩) fun h => ?_
    obtain ⟨hty, hmode⟩ := F2.shflForm_ok h
    simp only [List.mem_cons, List.not_mem_nil, or_false] at hty
    omega
  · refine refuses_of_ok (fun s => ⟨_, show execRedux f s = s.run f.reduxForm _ from rfl⟩) fun h => ?_
    obtain ⟨hty, hmode⟩ := F2.reduxForm_ok h
    simp only [List.mem_cons, List.not_mem_nil, or_false] at hty
    omega

end Sys2Proof.Machine
